-- ==== Sys2Proof/Word.lean ====
section
/-! DEFINITION. The words of exchange memory and of the host registers. -/

namespace Sys2Proof

/-- A byte of exchange memory. -/
abbrev Byte := BitVec 8

/-- A 16-bit word: a host register, or a word of exchange memory (R184, R207). -/
abbrev Word := BitVec 16

/-- A 32-bit field, stored low word first (R207). -/
abbrev Long := BitVec 32

/-- One converter sample, 24-bit two's complement (R1). -/
abbrev Sample := BitVec 24

end Sys2Proof
end

