-- ==== Sys2Proof/Config.lean ====
section
/-! DEFINITION. What the spec leaves open: constants with no body, so that no proof can see a value of one.

They all concern the numbers of the audio path (00_scope.md leaves the analog design and converter accuracy out; the rules
name curves, filters and models without giving them, and no number format). Each is listed in the assumption log (13, 14,
15, 36, 70). Where a rule says what a processed sample depends on, the constant takes that as its arguments, and with it a
free sample, which stands for what the unit remembers. Leaving them free is safe. -/

namespace Sys2Proof

/-- How the part brings an exact value that is no whole sample unit to one (log 13). -/
opaque Config.roundSample : Rat → Int

/-- The level, in tenths of a dB, of a frame whose peak magnitude is above 0. R13 gives neither the level's reference
nor a rounding of it, so any value stands here, whole or not (log 15). -/
opaque Config.levelOf : Nat → Rat

/-- The linear gain of a gate at sample `i` of a frame across which its gain goes from one number of tenths of a
dB to another, where R12 does not give the shape of the move: a rise to 0 dB, a CLOSED gate's move to a new floor, and
a RELEASING gate's move up to a raised floor (logs 15, 78). -/
opaque Config.gateMove : Rat → Rat → Nat → Rat

/-- The `n`-th free sample (logs 14, 36). -/
opaque Config.freeSample : Nat → Int

/-- What clipping curve `curve` of a DRIVE makes of its raised input (R11; log 14). -/
opaque Config.clip (curve : Nat) (x : Rat) : Rat

/-- What a DRIVE's tilt control makes of a clipped sample (R11; log 14). -/
opaque Config.tilt (tone x free : Rat) : Rat

/-- What a peaking band of an EQ at a frequency makes of a sample by its band gain (R11; log 14). -/
opaque Config.peaking (hertz : Nat) (gain x free : Rat) : Rat

/-- What an AMP makes of a sample by its eight parameters, in index order (R11; log 14). -/
opaque Config.amp (params : List Rat) (x free : Rat) : Rat

/-- The modulated sample of a MOD by its type, depth and LFO phase (R15; log 14). -/
opaque Config.modulated (type : Int) (depth phase x free : Rat) : Rat

/-- The tail of a VERB at a sample: by its tone, from the sample that leaves the predelay and from the oldest sample of the
reverb network's line, fallen by the decay (R18; logs 14, 70). -/
opaque Config.tail (tone fed oldest free : Rat) : Rat

/-- What a VERB's reverb network writes into its line in the place of that oldest sample (R18; logs 14, 70). -/
opaque Config.network (tone fed oldest free : Rat) : Rat

end Sys2Proof
end

