-- ==== Sys2Proof/Syntax.lean ====
section
/-! DEFINITION. The commands of the block: one constructor per row of spec/opcode_table.json, with its operands. -/

namespace Sys2Proof

/-- The two banks of lane data, A and B (R3). -/
inductive BankId where
  | a | b
deriving DecidableEq, Repr

/-- Lanes 1 and 2 of a bank (R3). -/
inductive LaneId where
  | one | two
deriving DecidableEq, Repr

/-- A host access to exchange memory, by word address (R184): a read, or a write of one word. -/
inductive HostAccess where
  | read (word : BitVec 15)
  | write (word : BitVec 15) (value : Word)
deriving DecidableEq, Repr

/-- What the outside of the part presents at a frame boundary: the 48 samples of IN A and IN B of the frame just
ended, or none when the converters deliver nothing (R1); the level of each switch pin, bit n for line n (R113); the
converter's reading of the pedal whose turn it is (R124). -/
structure BoundaryInput where
  samples : Option (List (Sample × Sample))
  pins    : BitVec 8
  pedal   : BitVec 10
deriving DecidableEq, Repr

/-- The five kinds of link error (R155). -/
inductive LinkErrorKind where
  | bit | stuff | check | form | noAck
deriving DecidableEq, Repr

/-- A link error as the node meets it: its kind, and whether it falls in the tail of the message, behind the acknowledge slot,
where a receiver can only meet FORM (R153, R155). -/
structure LinkErrorSeen where
  kind : LinkErrorKind
  tail : Bool
deriving DecidableEq, Repr

/-- The commands. -/
inductive Instr where
  | powerOn
  | resetLine
  | softReset
  | setupRequest
  | runRequest
  | porClear (value : Word)
  | attnWrite (value : Word)
  | attnenWrite (value : Word)
  | post (slot : BitVec 8)
  | cancel (slot : BitVec 8)
  | reclaim (slot : BitVec 8)
  | take (slot : BitVec 8)
  | badOperation (op : BitVec 4) (slot : BitVec 8)
  | hostMemoryAccess (access : HostAccess)
  | burstStart
  | orderCapture
  | frameBoundary (input : BoundaryInput)
  | muteRampSilent
  | muteRampUnmuted
  | gateHoldExpiry (bank : BankId) (lane : LaneId) (position : Fin 12)
  | tapCrossfadeEnd (bank : BankId) (lane : LaneId) (position : Fin 12)
  | zeroedAnswer
  | impulseChunk
  | fetchEnd
  | prepareDone
  | swap
  | gapFadeInStart
  | fadeOutEnd
  | fadeEnd
  | trailTimerExpiry (bank : BankId)
  | cutEnd (bank : BankId)
  | leanSilence
  | setlistCopyEnd
  | accumulatorBeat
  | linkWatchExpiry
  | groupComplete
  | silenceTimerExpiry
  | debouncedChange (line : Fin 8)
  | switchSettleEnd (line : Fin 8)
  | holdTimerExpiry (line : Fin 8)
  | repeatTimerExpiry (line : Fin 8)
  | chordWindowExpiry
  | pedalSettleEnd (pedal : Fin 2)
  | pedalDisconnect (pedal : Fin 2)
  | pedalReconnect (pedal : Fin 2)
  | bindingCopyEnd
  | linkMessageStart (recessiveRun : Nat)
  | linkArbitrationLost
  | linkMessageSent
  | linkMessageReceived (bits : List Bool)
  | linkError (error : LinkErrorSeen)
  | rejoin
  | linkJoinBus
  | beatWindowClose
  | periodStart
  | resetLineAssert
  | converterSamplesStop
  | lineIdleRun
  | startBitReceived
deriving DecidableEq, Repr

end Sys2Proof
end

