-- ==== Sys2Proof/WellFormed.lean ====
section
/-! DEFINITION. Which commands can be sent: the operands an outside sender can really present. -/

namespace Sys2Proof

/-- A frame holds 48 samples of each channel (R1). -/
def BoundaryInput.wf (i : BoundaryInput) : Bool :=
  match i.samples with
  | none => true
  | some l => l.length == 48

/-- A SLOTCMD operation other than POST, CANCEL, RECLAIM and TAKE (R192, R193). -/
def badOperationCode (op : BitVec 4) : Bool :=
  op != 1 && op != 2 && op != 3 && op != 4

/-- The bits of a message's stuffed part: at least a start bit, and at most the 76 field bits and 15 stuff bits of
the longest message (R149). -/
def lineBitsWf (bits : List Bool) : Bool :=
  decide (1 ≤ bits.length) && decide (bits.length ≤ 91)

/-- Behind the acknowledge slot only a FORM error is counted (R155). -/
def linkErrorWf (e : LinkErrorSeen) : Bool := !e.tail || e.kind == .form

/-- The well-formed commands. -/
def Instr.wf : Instr → Bool
  | .powerOn => true
  | .resetLine => true
  | .softReset => true
  | .setupRequest => true
  | .runRequest => true
  | .porClear _ => true
  | .attnWrite _ => true
  | .attnenWrite _ => true
  | .post _ => true
  | .cancel _ => true
  | .reclaim _ => true
  | .take _ => true
  | .badOperation op _ => badOperationCode op
  | .hostMemoryAccess _ => true
  | .burstStart => true
  | .orderCapture => true
  | .frameBoundary input => input.wf
  | .muteRampSilent => true
  | .muteRampUnmuted => true
  | .gateHoldExpiry _ _ _ => true
  | .tapCrossfadeEnd _ _ _ => true
  | .zeroedAnswer => true
  | .impulseChunk => true
  | .fetchEnd => true
  | .prepareDone => true
  | .swap => true
  | .gapFadeInStart => true
  | .fadeOutEnd => true
  | .fadeEnd => true
  | .trailTimerExpiry _ => true
  | .cutEnd _ => true
  | .leanSilence => true
  | .setlistCopyEnd => true
  | .accumulatorBeat => true
  | .linkWatchExpiry => true
  | .groupComplete => true
  | .silenceTimerExpiry => true
  | .debouncedChange _ => true
  | .switchSettleEnd _ => true
  | .holdTimerExpiry _ => true
  | .repeatTimerExpiry _ => true
  | .chordWindowExpiry => true
  | .pedalSettleEnd _ => true
  | .pedalDisconnect _ => true
  | .pedalReconnect _ => true
  | .bindingCopyEnd => true
  | .linkMessageStart run => decide (16 ≤ run)
  | .linkArbitrationLost => true
  | .linkMessageSent => true
  | .linkMessageReceived bits => lineBitsWf bits
  | .linkError error => linkErrorWf error
  | .rejoin => true
  | .linkJoinBus => true
  | .beatWindowClose => true
  | .periodStart => true
  | .resetLineAssert => true
  | .converterSamplesStop => true
  | .lineIdleRun => true
  | .startBitReceived => true

end Sys2Proof
end

