-- ==== Sys2Proof/Machine/State.lean ====
section
/-! DEFINITION. The state of the part: every register, queue, timer, mark and record the spec names, by owning block.
INVENTORY.md lists the fields with their rules and reset values. -/

namespace Sys2Proof.Machine

/-- Two things, one for each bank. -/
structure PerBank (α : Type) where
  a : α
  b : α
deriving DecidableEq, Repr

/-- Two things, one for each lane. -/
structure PerLane (α : Type) where
  one : α
  two : α
deriving DecidableEq, Repr

/-! ### Exchange memory -/

/-- Exchange memory: (address, byte) pairs at rising addresses, no byte 0 listed. An unlisted address reads 0, the
contents power-on gives (R185, R205). -/
abbrev Memory := List Host.Cell

/-! ### The order dispatcher (chapter 10) -/

inductive Mode where
  | setup | run
deriving DecidableEq, Repr

/-- The owners of R194, in the order of the RUNNING-slot bytes of the status block (R212). -/
inductive Owner where
  | sceneUnit | laneEngine | lineMemory | tuner | tempoUnit | bindingUnit | switchScanner | lampDriver | link
deriving DecidableEq, Repr

/-- The order kinds (R208). -/
inductive OrderKind where
  | sceneLoad | sceneGo | sceneSwap | setlistLoad | setlistMove | stageSet | stageBypass | muteSet | tunerSet
  | tempoSet | bindLoad | impulseLoad | impulseDrop | linkSend | linkConfig | linkRejoin | controlConfig | lampConfig
deriving DecidableEq, Repr

/-- The result codes (R195), coded in this order from 0 (R208). -/
inductive ResultCode where
  | ok | cancelled | superseded | badArgument | wrongMode | badRecord | emptyEntry | overBudget | noLineMemory
  | missingImpulse | inUse | notReady | linkFailed | linkDetached
deriving DecidableEq, Repr

/-- The result flags (R195). -/
structure ResultFlags where
  clamped : Bool
  fadeDowngraded : Bool
  trailDropped : Bool
  trailCut : Bool
  lean : Bool
  cancelTooLate : Bool
deriving DecidableEq, Repr

/-- The order record: the 52 bytes an order capture copied (R190, R208). -/
structure Order where
  kind : Nat
  priority : Nat
  tag : Word
  args : List Byte
deriving DecidableEq, Repr

inductive SlotState where
  | free | waiting | running | done
deriving DecidableEq, Repr

/-- One order slot as the part keeps it (R189). `order` is the captured copy, `routable` says that the copy passed
the checks of R190; `stamp` orders arrivals that share a frame time (log 33). -/
structure Slot where
  state : SlotState
  cancelMark : Bool
  postNumber : Word
  postTime : Nat
  stamp : Nat
  order : Option Order
  routable : Bool
  code : ResultCode
  flags : ResultFlags
  words : List Word
deriving DecidableEq, Repr

/-- The held bursts (R186): the five copies, which can run or wait, and the initialization burst of a reset, which only
runs. A capture and a fetch carry the post stamp or load serial they were
asked for, so that a stale one is told apart. -/
inductive Burst where
  | orderCapture (slot : Nat) (stamp : Nat)
  | impulseChunk (id : Nat)
  | sceneFetch (scene : Nat) (serial : Nat)
  | setlistCopy (slot : Nat)
  | bindingCopy (slot : Nat)
  | initialization
deriving DecidableEq, Repr

/-- The host port (R184, R186, R187): the burst running, the bursts waiting, those that the event under way has asked for
(none between events; log 8), the host access on WAIT, and the data the last completed read gave. -/
structure Port where
  running : Option Burst
  queue : List Burst
  asked : List Burst
  hostWait : Option HostAccess
  hostData : Word
deriving DecidableEq, Repr

inductive MisuseCause where
  | postBusy | cancelFree | reclaimEarly | slotRange | badOperation
deriving DecidableEq, Repr

/-- The misuse record (R193). -/
structure Misuse where
  cause : MisuseCause
  slot : BitVec 8
  time : Long
  more : Bool
deriving DecidableEq, Repr

/-- The attention flags that are held (R199); REPORTS is a level of the FILLING page's count. -/
structure Attention where
  tuner : Bool
  lost : Bool
  abnormal : Bool
  link : Bool
  mode : Bool
deriving DecidableEq, Repr

/-- The report pages (R196): which page is FILLING and both counts; the cells are exchange memory. -/
structure Pages where
  fillingOne : Bool
  count0 : Nat
  count1 : Nat
deriving DecidableEq, Repr

/-- The order dispatcher (chapter 10). -/
structure Dispatcher where
  por : Bool
  mode : Mode
  setupAck : Bool
  setupPending : Bool
  silenceSeen : Bool
  linkClear : Bool
  attention : Attention
  attnEnable : BitVec 6
  misuse : Option Misuse
  dropped : Nat
  pages : Pages
  postCounter : Word
  ageList : List Nat
  slots : List Slot
  port : Port
deriving DecidableEq, Repr

/-! ### Bindings (chapter 7) and messages -/

inductive FadeMode where
  | cut | gap | blend
deriving DecidableEq, Repr

inductive Quantize where
  | none | beat | bar
deriving DecidableEq, Repr

/-- A fade profile (R66). -/
structure Profile where
  mode : FadeMode
  f : Nat
  g : Nat
  quantize : Quantize
deriving DecidableEq, Repr

/-- A link message's topic and payload, as a LINK_SEND, a notice or a NOTICE action gives it (R132, R161, R165). -/
structure Message where
  topic : Nat
  length : Nat
  payload : List Byte
deriving DecidableEq, Repr

inductive BindTable where
  | localTable | globalTable
deriving DecidableEq, Repr

/-- A binding entry by table and index (R137). -/
structure EntryRef where
  table : BindTable
  index : Nat
deriving DecidableEq, Repr

/-- Trigger kinds and their fields (R132). -/
inductive Trigger where
  | press (line : Nat)
  | release (line : Nat)
  | hold (line : Nat)
  | rept (line : Nat)
  | chord (a b : Nat)
  | pedal (p : Nat)
  | link (code mask : Nat) (first : Option Byte)
deriving DecidableEq, Repr

/-- Action kinds and their fields (R132). -/
inductive Action where
  | sceneGo (scene : Nat) (profile : Option Profile)
  | setlistStep (step : Int)
  | setlistJump (entry : Nat)
  | stageToggle (lane position : Nat)
  | stageOn (lane position : Nat)
  | stageOff (lane position : Nat)
  | paramFromPedal (lane position index : Nat) (min max : Int)
  | tunerToggle
  | muteToggle
  | linkMuteOn
  | linkMuteOff
  | tap
  | notice (message : Message)
  | reportOnly
deriving DecidableEq, Repr

/-- A binding entry whose trigger kind is not NONE (R132). -/
structure Entry where
  trigger : Trigger
  action : Action
  report : Bool
  follow : Bool
deriving DecidableEq, Repr

/-- A control event as the binding unit sees it (R119, R126). A link event carries the index of the filter that passed it
(R134, R167). -/
inductive ControlEvent where
  | press (line : Nat)
  | release (line : Nat)
  | hold (line : Nat)
  | rept (line : Nat)
  | chord (a b : Nat)
  | pedal (p value : Nat)
  | link (filter sender : Nat) (message : Message)
deriving DecidableEq, Repr

/-- One firing of an entry, carried with a request so that its answer can be reported against it (R137, R138). -/
structure Firing where
  ref : EntryRef
  report : Bool
  event : ControlEvent
  time : Long
  follow : Bool
  action : Action
deriving DecidableEq, Repr

/-- The resolved span of a PARAM_FROM_PEDAL entry: two bounds, or UNRESOLVED (R139). -/
abbrev Span := Option (Int × Int)

/-- The binding unit (chapter 7). -/
structure BindingUnit where
  global : List (Option Entry)
  view : Option BankId
  globalSpans : List Span
  localSpans : List Span
  fires : Word
deriving DecidableEq, Repr

/-! ### The lane engine (chapter 1) -/

inductive StageKind where
  | trim | gate | comp | drive | amp | cab | eq | mod | delay | verb
deriving DecidableEq, Repr

/-- A parameter (R8, R9): it moves in a straight line from `start` to `target`, with `left` frames of that move to
go. With `left` 0 its current value is `target`. `mix` is what a switched parameter crossfades from: the settings that
run at the start of the frame, each with its share of the output. -/
structure Param where
  start : Rat
  target : Int
  left : Nat
  mix : List (Int × Rat)
deriving DecidableEq, Repr

inductive GateState where
  | closed | opened | holding | releasing
deriving DecidableEq, Repr

/-- A read tap (R16, R18): the time it stands at, the crossfade running (its new time and the frames it has run), the
pending time, and the time in use. -/
structure Tap where
  time : Nat
  fade : Option (Nat × Nat)
  pending : Option Nat
  inUse : Nat
deriving DecidableEq, Repr

/-- A stage and its run state (R8). Fields that a kind does not use stay at their starting point. -/
structure Stage where
  kind : StageKind
  bypass : Bool
  trail : Bool
  params : List Param
  ramp : Nat
  gate : GateState
  gateHold : Nat
  gateGain : Rat
  reduction : Rat
  compGain : Rat
  peak : Nat
  phase : Rat
  beatCount : Nat
  rate : Nat
  tap : Tap
  writePos : Nat
  history : List Int
  tempoClamped : Bool
  tapsClamped : Bool
  tapsInUse : Nat
deriving DecidableEq, Repr

inductive LaneSource where
  | inA | inB | lane1
deriving DecidableEq, Repr

inductive Assign where
  | main | aux | both
deriving DecidableEq, Repr

/-- One lane of a bank (R3): the level is in tenths of a dB, or none for OFF. -/
structure Lane where
  enabled : Bool
  source : LaneSource
  level : Option Int
  pan : Int
  assign : Assign
  stages : List (Option Stage)
deriving DecidableEq, Repr

inductive RunMode where
  | held | full | trails
deriving DecidableEq, Repr

inductive FadePoint where
  | laneOut | trailInput
deriving DecidableEq, Repr

/-- One bank as the lane engine holds it (R3, R4, R20): `gain` is the crossfade gain at the end of the last frame. -/
structure Bank where
  lanes : PerLane Lane
  bindings : List (Option Entry)
  notices : List Message
  cost : Nat
  trailCost : Nat
  runMode : RunMode
  fadePoint : FadePoint
  gain : Nat
deriving DecidableEq, Repr

/-- The parameter and bypass requests of the request list (R21-R24). -/
inductive LaneRequest where
  | setOrder (slot lane position index : Nat) (value : Int)
  | bypassOrder (slot lane position setting : Nat)
  | toggle (firing : Firing) (lane position : Nat)
  | engage (firing : Firing) (lane position : Nat)
  | bypass (firing : Firing) (lane position : Nat)
  | param (firing : Firing) (lane position index : Nat) (value : Int)
deriving DecidableEq, Repr

/-- The mute set (R25). -/
structure MuteSet where
  order : Bool
  tuner : Bool
  switch : Bool
  link : Bool
  setup : Bool
deriving DecidableEq, Repr

inductive MuteRamp where
  | unmuted | falling | silent | rising
deriving DecidableEq, Repr

/-- One sample of the four outputs (R28). -/
structure OutSample where
  mainL : Int
  mainR : Int
  auxL : Int
  auxR : Int
deriving DecidableEq, Repr

/-! ### Scene records (R214) -/

structure StageRecord where
  kind : StageKind
  position : Nat
  bypass : Bool
  trail : Bool
  params : List Int
deriving DecidableEq, Repr

structure LaneRecord where
  enabled : Bool
  source : LaneSource
  level : Option Int
  pan : Int
  assign : Assign
  stages : List StageRecord
deriving DecidableEq, Repr

/-- A valid scene record, as the record buffer keeps it (R48, R49). -/
structure SceneRecord where
  profile : Profile
  tailHold : Nat
  lanes : PerLane LaneRecord
  bindings : List (Option Entry)
  notices : List Message
deriving DecidableEq, Repr

/-- The answer of a CAB need (R36): where the CAB stands, its taps in use and the clamp mark. -/
structure CabAnswer where
  lane : LaneId
  position : Nat
  taps : Nat
  clamped : Bool
deriving DecidableEq, Repr

/-- The scene unit's requests that the lane engine has not yet taken (R2, R3, R5). -/
inductive BankRequest where
  | fill (bank : BankId) (record : SceneRecord) (cabs : List CabAnswer)
  | prepare (bank : BankId)
  | release (bank : BankId)
deriving DecidableEq, Repr

/-- The lane engine (chapter 1). `arrived` is how many entries of the request list had reached it when the boundary that
stands arrived: those it takes at that boundary (log 39). -/
structure LaneEngine where
  banks : PerBank Bank
  bankRequests : List BankRequest
  requests : List LaneRequest
  arrived : Nat
  notedTempo : Nat
  tempoNoted : Bool
  beats : Nat
  mute : MuteSet
  ramp : MuteRamp
  rampCount : Nat
  output : List OutSample
  freeCount : Nat
deriving DecidableEq, Repr

/-! ### The line memory manager (chapter 2) -/

/-- A line block's holder (R32). -/
inductive Holder where
  | free
  | stage (bank : BankId) (lane : LaneId) (position : Nat)
  | impulse (id : Nat)
deriving DecidableEq, Repr

/-- A CAB stage that holds a user of an impulse set (R38, R40). -/
structure CabUser where
  bank : BankId
  lane : LaneId
  position : Nat
  id : Nat
deriving DecidableEq, Repr

inductive ImpulseState where
  | empty | loading | resident
deriving DecidableEq, Repr

/-- An impulse directory entry (R40); its block list is read from the map and its users are counted. -/
structure ImpulseEntry where
  state : ImpulseState
  taps : Nat
  chunks : Nat
deriving DecidableEq, Repr

/-- The line memory manager (chapter 2). `samples` lists (960 * block + offset, sample), no sample 0 listed. -/
structure LineMemory where
  map : List Holder
  users : List CabUser
  zeroQueue : List (Nat × BankId)
  answers : List BankId
  impulses : List ImpulseEntry
  samples : List (Nat × Int)
deriving DecidableEq, Repr

/-! ### The scene unit (chapter 3) -/

inductive BankState where
  | empty | loading | ready | live | outgoing | trailing | cutting
deriving DecidableEq, Repr

/-- A bank as the scene unit keeps it (R50). `trailEnd` is the boundary at which the trail timer reaches 0 and
`cutFrom` the boundary whose frame is the first of a cut (log 5, log 20). -/
structure BankControl where
  state : BankState
  scene : Option Nat
  profile : Profile
  tailHold : Nat
  trailEnd : Nat
  cutFrom : Nat
deriving DecidableEq, Repr

inductive SceneState where
  | idle | fetching | allocating | zeroing | preparing | armed | fading | leanEmptying
deriving DecidableEq, Repr

inductive RequestKind where
  | go | load
deriving DecidableEq, Repr

inductive Origin where
  | slot (s : Nat)
  | binding (e : EntryRef)
  | setList (i : Nat)
  | preload
deriving DecidableEq, Repr

/-- A request of the target latch (R53) with its marks TRAIL_CUT and LEAN. `reswap` marks the GO of a SCENE_SWAP,
to which the completion at once of R54 does not apply (R65). -/
structure Request where
  kind : RequestKind
  scene : Nat
  override : Option Profile
  origin : Origin
  attached : Option Nat
  trailCut : Bool
  lean : Bool
  reswap : Bool
deriving DecidableEq, Repr

/-- The fade in progress (R69-R72): its owner, the mode, F and G as the checks left them, the mode reported, the
boundary of the swap, the banks, and the marks. -/
structure Fade where
  owner : Request
  mode : FadeMode
  f : Nat
  g : Nat
  swapAt : Nat
  oldBank : Option BankId
  newBank : BankId
  trailsKept : Bool
  heldBack : Bool
  downgraded : Bool
  trailDropped : Bool
deriving DecidableEq, Repr

/-- The lean fade-out (R74): the boundary of its first frame, its F, and whether the latch request has been replaced
since (R75). -/
structure LeanFade where
  first : Nat
  f : Nat
  replaced : Bool
deriving DecidableEq, Repr

/-- The part's copy of the set list (R77). -/
structure SetList where
  count : Nat
  wrap : Bool
  preload : Bool
  entries : List Nat
deriving DecidableEq, Repr

/-- The scene unit (chapter 3). -/
structure SceneUnit where
  state : SceneState
  banks : PerBank BankControl
  latch : Option Request
  lastLive : Option BankId
  record : Option SceneRecord
  cabs : List CabAnswer
  fillSent : Bool
  serial : Nat
  quantMark : Bool
  armedAt : Nat
  preparingAt : Nat
  fade : Option Fade
  lean : Option LeanFade
  leanLoad : Bool
  setList : SetList
  cursor : Nat
  preloadMark : Bool
deriving DecidableEq, Repr

/-! ### The tempo unit (chapter 4) -/

inductive TempoSource where
  | internal | link
deriving DecidableEq, Repr

inductive BeatCause where
  | accumulator | tap | link
deriving DecidableEq, Repr

/-- A beat event (R84): its cause, the bar position it carries, its frame time. -/
structure Beat where
  cause : BeatCause
  position : Nat
  time : Long
deriving DecidableEq, Repr

/-- The tempo unit (R82). `addDue`: a boundary has arrived and its addition to the phase is not yet taken (log 2);
`lastBeat` is the beat event last produced, the model's own record (log 48). -/
structure TempoUnit where
  tempo : Nat
  source : TempoSource
  phase : Nat
  bar : Nat
  lastTap : Option Long
  history : List Nat
  prevBeat : Option Long
  watch : Option Nat
  linkLost : Bool
  addDue : Bool
  lastBeat : Option Beat
deriving DecidableEq, Repr

/-! ### The tuner (chapter 5) -/

/-- The nine settings (R95). -/
structure TunerSettings where
  on : Bool
  thru : Bool
  sourceB : Bool
  level : Nat
  wide : Bool
  n : Nat
  reference : Nat
  window : Nat
  autoOff : Bool
deriving DecidableEq, Repr

inductive CellStatus where
  | off | settling | silent | wander | stable | lowRange | highRange
deriving DecidableEq, Repr

/-- The tuner cell (R108). -/
structure TunerCell where
  status : CellStatus
  note : Option Int
  cents : Option Int
  frequency : Option Nat
  tickSum : Nat
  n : Nat
  counter : Word
deriving DecidableEq, Repr

/-- A period: its tick count and WRAPPED mark (R102, R103). -/
structure Period where
  ticks : Nat
  wrapped : Bool
deriving DecidableEq, Repr

/-- The tuner (chapter 5). -/
structure Tuner where
  settings : TunerSettings
  below : Nat
  prev : Int
  counting : Bool
  ticks : BitVec 16
  wrapped : Bool
  group : List Period
  discard : Bool
  silence : Option Nat
  cell : TunerCell
deriving DecidableEq, Repr

/-! ### The switch scanner and the pedal converter (chapter 6) -/

inductive LineMode where
  | off | momentary | latching | repeating
deriving DecidableEq, Repr

structure LineConfig where
  mode : LineMode
  activeHigh : Bool
  debounce : Nat
  holdTime : Nat
  repeatInterval : Nat
  report : Bool
deriving DecidableEq, Repr

inductive LineState where
  | off | standby | settling | up | down | held | blocked | watching
deriving DecidableEq, Repr

/-- One switch line (R112-R117): `level` is true for ACTIVE; a timer that is stopped is none. -/
structure Line where
  config : LineConfig
  state : LineState
  level : Bool
  run : Nat
  settle : Option Nat
  hold : Option Nat
  rept : Option Nat
deriving DecidableEq, Repr

/-- The waiting press (R121). -/
structure Waiting where
  line : Nat
  time : Long
  left : Nat
deriving DecidableEq, Repr

/-- The formed chord (R122). -/
structure Chord where
  a : Nat
  b : Nat
  releasedA : Bool
  releasedB : Bool
deriving DecidableEq, Repr

/-- The switch scanner (chapter 6). -/
structure Scanner where
  lines : List Line
  window : Nat
  waiting : Option Waiting
  chord : Option Chord
  pairs : List (Nat × Nat)
  pins : BitVec 8
deriving DecidableEq, Repr

structure PedalConfig where
  enable : Bool
  internalRef : Bool
  heel : Nat
  toe : Nat
  deadband : Nat
  report : Bool
deriving DecidableEq, Repr

inductive PedalState where
  | disabled | settling | ready | disconnected
deriving DecidableEq, Repr

/-- One pedal (R123-R127). `used` says that a reading has been used since READY was entered. -/
structure Pedal where
  config : PedalConfig
  state : PedalState
  discard : Nat
  raw : Nat
  value : Nat
  lastEvent : Nat
  used : Bool
  high : Nat
  low : Nat
deriving DecidableEq, Repr

/-! ### The link controller (chapter 8) -/

inductive LinkState where
  | active | caution | quiet | detached
deriving DecidableEq, Repr

inductive Engagement where
  | offBus | awaitingIdle | onBus
deriving DecidableEq, Repr

inductive FilterDest where
  | report | bind | both
deriving DecidableEq, Repr

structure Filter where
  enable : Bool
  code : Word
  mask : Word
  dest : FilterDest
deriving DecidableEq, Repr

structure LinkConfig where
  rate : Nat
  address : Nat
  filters : List Filter
  beatTopic : Option Nat
  autoRejoin : Bool
  loopback : Bool
deriving DecidableEq, Repr

inductive HoldState where
  | empty | pending | sending
deriving DecidableEq, Repr

inductive HoldOrigin where
  | slot (s : Nat)
  | notice
deriving DecidableEq, Repr

/-- A transmit hold (R161); `stamp` is its age. -/
structure Hold where
  state : HoldState
  message : Message
  origin : HoldOrigin
  stamp : Nat
  attempts : Nat
  losses : Nat
  cancelMark : Bool
deriving DecidableEq, Repr

/-- A notice in the notice list, with its arrival (R165). -/
structure Notice where
  message : Message
  stamp : Nat
deriving DecidableEq, Repr

/-- Where an error mark starts (R156). -/
inductive MarkStart where
  | nextBit
  | firstEndBit
deriving DecidableEq, Repr

/-- An error mark (R156): where it starts, and its bits as they go onto the line. -/
structure ErrorMark where
  start : MarkStart
  bits : List Bool
deriving DecidableEq, Repr

/-- The link controller (chapter 8). `sendBits` are the bits of the message being sent, stuffed, as they go onto the
line; `ackDriven` says that the acknowledge slot of the message last read as a receiver was driven dominant; `errorMark`
is the error mark owed to or on the line until the next idle run; `justSent` carries the QUIET wait of R151; `inhibit` is the
pending SETUP request of R172. -/
structure Link where
  config : LinkConfig
  tec : Nat
  rec_ : Nat
  state : LinkState
  engagement : Engagement
  rejoinMark : Bool
  rejoinCount : Nat
  holds : List Hold
  notices : List Notice
  lineFree : Bool
  receiving : Bool
  justSent : Bool
  inhibit : Bool
  sendBits : List Bool
  ackDriven : Bool
  errorMark : Option ErrorMark
  sent : Word
  received : Word
  failed : Word
  lastError : Option LinkErrorKind
  lastErrorTime : Long
  addressSeen : Bool
deriving DecidableEq, Repr

/-! ### The lamp driver (chapter 9) -/

inductive LampSource where
  | off | fixed
  | stage (lane position : Nat)
  | sceneIs (scene : Nat)
  | setlistAt (entry : Nat)
  | tunerFlat | tunerIn | tunerSharp | beat | linkOk | muted
deriving DecidableEq, Repr

/-- A lamp level: OFF, or L with its half-step bit (R175). -/
inductive Level where
  | off
  | on (l : Nat) (h : Bool)
deriving DecidableEq, Repr

inductive Blink where
  | none | beat | fast
deriving DecidableEq, Repr

structure LampConfig where
  source : LampSource
  onLevel : Level
  offLevel : Level
  blink : Blink
  complement : Bool
  gap : Nat
deriving DecidableEq, Repr

/-- What a generator holds for the period (R179, R180): a level, or the pulse of a complement's odd partner as its
first and last half counts. -/
inductive Load where
  | level (l : Level)
  | paired (first last : Nat)
deriving DecidableEq, Repr

structure Lamp where
  config : LampConfig
  cond : Bool
  worked : Level
  load : Load
deriving DecidableEq, Repr

/-- A LAMP_CONFIG whose configurations are pending (R181). -/
structure PendingLamps where
  slot : Nat
  first : Nat
  configs : List LampConfig
deriving DecidableEq, Repr

/-- The lamp driver (chapter 9). -/
structure LampDriver where
  lamps : List Lamp
  window : Nat
  windowOpen : Bool
  pending : Option PendingLamps
  periodCounter : BitVec 11
deriving DecidableEq, Repr

/-! ### The whole part -/

/-- The state of the part. `frames` counts the boundaries since the last reset; the frame counter of R1 is its low 32
bits (log 5). `opened` says that a boundary has arrived and its frame work is not yet taken (log 2). `writes` holds the
part's writes of the event under way, and is empty between steps (log 34). -/
structure State where
  pending : List Instr
  mem : Memory
  writes : List (Nat × Word)
  frames : Nat
  opened : Bool
  delivering : Bool
  resetHeld : Bool
  stamp : Nat
  disp : Dispatcher
  lane : LaneEngine
  lines : LineMemory
  scene : SceneUnit
  tempo : TempoUnit
  tuner : Tuner
  scanner : Scanner
  pedals : List Pedal
  bind : BindingUnit
  link : Link
  lamps : LampDriver
deriving DecidableEq, Repr

/-- Why a command stops the part. The spec gives every command an effect in every state (a misuse, a refused order
and an error are effects), so there is no fault: the type has no constructor, and no step can raise one. Safe. -/
inductive Fault where
deriving DecidableEq, Repr

/-- Why a command has no meaning. -/
inductive Refusal where
  /-- Raised only by an arm of `exec` whose command has no meaning yet; no arm is such an arm. Safe. -/
  | notModelled (mnemonic : String)
deriving DecidableEq, Repr

/-! ### Reset values of each block -/

def ResultFlags.none : ResultFlags := ⟨false, false, false, false, false, false⟩

/-- A slot after each kind of reset (R205). -/
def Slot.reset : Slot := ⟨.free, false, 0, 0, 0, none, false, .ok, ResultFlags.none, [0, 0, 0, 0]⟩

/-- The port right after a reset: the initialization burst runs (R187, R205). -/
def Port.reset : Port := ⟨some .initialization, [], [], none, 0⟩

/-- The dispatcher after each kind of reset, but for POR and the data lines (R205). -/
def Dispatcher.reset : Dispatcher :=
  { por := true, mode := .setup, setupAck := true, setupPending := false, silenceSeen := false, linkClear := false,
    attention := ⟨false, false, false, false, false⟩, attnEnable := 0, misuse := none, dropped := 0,
    pages := ⟨false, 0, 0⟩, postCounter := 0, ageList := [], slots := List.replicate 32 Slot.reset,
    port := Port.reset }

/-- A lane of a bank after a release (R3, R30): disabled, with no stages. The spec gives no value for the other four fields;
source IN A, level OFF, pan 0 and assign MAIN are the model's choice (log 59). -/
def Lane.cleared : Lane := ⟨false, .inA, none, 0, .main, List.replicate 12 none⟩

/-- A bank after a release (R3, R30). -/
def Bank.cleared : Bank := ⟨⟨Lane.cleared, Lane.cleared⟩, [], [], 0, 0, .held, .laneOut, 0⟩

def OutSample.zero : OutSample := ⟨0, 0, 0, 0⟩

/-- The lane engine after each kind of reset (R30). -/
def LaneEngine.reset : LaneEngine :=
  { banks := ⟨Bank.cleared, Bank.cleared⟩, bankRequests := [], requests := [], arrived := 0, notedTempo := 1200,
    tempoNoted := false, beats := 0, mute := ⟨false, false, false, false, true⟩, ramp := .silent, rampCount := 0,
    output := List.replicate 48 OutSample.zero, freeCount := 0 }

/-- An EMPTY impulse entry, after a reset or a drop (R40, R44, R46). The spec gives its count of chunks copied no value, and 0
is the model's choice (log 61). -/
def ImpulseEntry.empty : ImpulseEntry := ⟨.empty, 0, 0⟩

/-- The line memory manager after power-on and the RESET line (R46). -/
def LineMemory.reset : LineMemory :=
  { map := List.replicate 512 .free, users := [], zeroQueue := [], answers := [],
    impulses := List.replicate 16 ImpulseEntry.empty, samples := [] }

/-- An EMPTY bank (R50, R81). Its fade defaults, tail hold and the two boundary numbers are not in the spec (logs 7, 61). -/
def BankControl.reset : BankControl := ⟨.empty, none, ⟨.cut, 1, 0, .none⟩, 0, 0, 0⟩

/-- The scene unit after power-on and the RESET line (R81). The boundary numbers and the serial are the model's own (log
61). -/
def SceneUnit.reset : SceneUnit :=
  { state := .idle, banks := ⟨BankControl.reset, BankControl.reset⟩, latch := none, lastLive := none, record := none,
    cabs := [], fillSent := false, serial := 0, quantMark := false, armedAt := 0, preparingAt := 0, fade := none,
    lean := none, leanLoad := false, setList := ⟨0, false, false, []⟩, cursor := 0, preloadMark := false }

/-- The tempo unit after each kind of reset (R94). -/
def TempoUnit.reset : TempoUnit := ⟨1200, .internal, 0, 0, none, [], none, none, false, false, none⟩

/-- The tuner settings after power-on and the RESET line (R95). -/
def TunerSettings.reset : TunerSettings := ⟨false, false, false, 4, false, 4, 4400, 3, true⟩

/-- The tuner cell after a reset that leaves group size `n` (R111). -/
def TunerCell.off (n : Nat) : TunerCell := ⟨.off, none, none, none, 0, n, 0⟩

/-- The tuner after a reset that leaves the settings `t` (R111). The last sample kept for interpolation (R101) and the tick
count, of which R111 does not speak, are 0 (log 61). -/
def Tuner.resetWith (t : TunerSettings) : Tuner :=
  ⟨t, 0, 0, false, 0, false, [], false, none, TunerCell.off t.n⟩

def LineConfig.reset : LineConfig := ⟨.off, false, 10, 0, 200, false⟩

/-- A switch line after power-on and the RESET line (R112, R130). R130 gives a run count after a soft reset only; 0 is the
model's choice here (log 61), and so is the INACTIVE level of an OFF line (log 10). -/
def Line.reset : Line := ⟨LineConfig.reset, .off, false, 0, none, none, none⟩

/-- The switch scanner after power-on (R130). -/
def Scanner.reset : Scanner := ⟨List.replicate 8 Line.reset, 40, none, none, [], 0⟩

def PedalConfig.reset : PedalConfig := ⟨false, false, 0, 1020, 4, false⟩

/-- A pedal after power-on and the RESET line (R123, R130). R130 gives the discard count and the counts of high and of position
readings after a soft reset only; 0 is the model's choice for a DISABLED pedal (log 61). -/
def Pedal.reset : Pedal := ⟨PedalConfig.reset, .disabled, 0, 0, 0, 0, false, 0, 0⟩

/-- The binding unit after power-on and the RESET line (R146). -/
def BindingUnit.reset : BindingUnit := ⟨List.replicate 48 none, none, List.replicate 48 none, [], 0⟩

def Filter.reset : Filter := ⟨false, 0, 0, .report⟩

/-- The link configuration after power-on and the RESET line (R174). -/
def LinkConfig.reset : LinkConfig := ⟨250, 63, List.replicate 8 Filter.reset, none, false, false⟩

/-- An EMPTY hold (R161). What its topic, attempts and losses show is not in the spec; 0 is the model's choice (log 64). -/
def Hold.empty : Hold := ⟨.empty, ⟨0, 0, []⟩, .notice, 0, 0, 0, false⟩

/-- The link controller after power-on and the RESET line (R174). R174 gives no frame time for the last error, of which there
is none; 0 is the model's choice (log 66). -/
def Link.reset : Link :=
  { config := LinkConfig.reset, tec := 0, rec_ := 0, state := .active, engagement := .offBus, rejoinMark := false,
    rejoinCount := 0, holds := List.replicate 3 Hold.empty, notices := [], lineFree := false, receiving := false,
    justSent := false, inhibit := false, sendBits := [], ackDriven := false, errorMark := none, sent := 0,
    received := 0, failed := 0, lastError := none, lastErrorTime := 0, addressSeen := false }

def LampConfig.reset : LampConfig := ⟨.off, .off, .off, .none, false, 0⟩

/-- The lamp driver with kept configurations after a reset (R183), but for the loads of its first period start
(`LampDriver.loadAll`). Every condition is false until the first boundary's evaluation (log 58). -/
def LampDriver.resetWith (configs : List LampConfig) : LampDriver :=
  ⟨configs.map fun c => ⟨c, false, .off, .level .off⟩, 0, false, none, 0⟩

def LampDriver.reset : LampDriver := LampDriver.resetWith (List.replicate 12 LampConfig.reset)

/-- What the initialization burst of a power-on writes into exchange memory, byte by byte: the fields of R212 and R213
at their owners' reset values, and nothing else (R185, R205). -/
def Memory.atPowerOn : Memory :=
  [(0x00, 0x02), (0x08, 32),
   (0x0E, 0xFF), (0x0F, 0xFF), (0x10, 0xFF), (0x11, 0xFF), (0x12, 0xFF), (0x13, 0xFF), (0x14, 0xFF), (0x15, 0xFF),
   (0x16, 0xFF), (0x17, 0xFF), (0x18, 0xFF),
   (0x1A, 0x10), (0x1B, 0x02), (0x6D, 0x02),
   (0xB6, 0xFF), (0xB9, 0xFF), (0xBB, 0xFF), (0xBD, 0xFF),
   (0xC4, 0xB0), (0xC5, 0x04),
   (0xC8, 0x90), (0xC9, 0x43), (0xCA, 0x30), (0xCB, 0x11), (0xD5, 0xFF),
   (0xE1, 0xFF), (0xE7, 0xFF), (0xED, 0xFF)] ++
  [(0x101, 0x80), (0x102, 0x80), (0x103, 4), (0x104, 0xFF), (0x105, 0xFF), (0x106, 0xFF), (0x107, 0xFF),
   (0x118, 0xFF), (0x119, 0xFF), (0x11A, 0xFF)] ++
  [(0x128, 0xA0), (0x129, 0x90), (0x12A, 0x01), (0x12C, 0xA0), (0x12D, 0x90), (0x12E, 0x01),
   (0x130, 0xA0), (0x131, 0x90), (0x132, 0x01), (0x134, 0xA0), (0x135, 0x90), (0x136, 0x01),
   (0x138, 0xA0), (0x139, 0x90), (0x13A, 0x01), (0x13C, 0xA0), (0x13D, 0x90), (0x13E, 0x01),
   (0x140, 0xA0), (0x141, 0x90), (0x142, 0x01), (0x144, 0xA0), (0x145, 0x90), (0x146, 0x01),
   (0x148, 40), (0x14B, 0x04), (0x14E, 0xFC), (0x14F, 0x03), (0x151, 0x04), (0x154, 0xFC), (0x155, 0x03)] ++
  [(0x180, 250), (0x182, 0xFF), (0x183, 0xFF), (0x184, 63)] ++
  ((List.range 12).flatMap fun n => [(0x188 + 6 * n + 3, 0x80), (0x188 + 6 * n + 5, 0x80)]) ++
  ((List.range 12).map fun n => (0x1D8 + 2 * n + 1, 0x80)) ++
  [(0xE00, 1)]

/-- The part right after power-on: every block in its power-on reset state, POR 1, and the initialization burst running,
its writes in memory (R205; log 6, log 7). -/
def State.reset : State :=
  { pending := [], mem := Memory.atPowerOn, writes := [], frames := 0, opened := false, delivering := true,
    resetHeld := false, stamp := 0, disp := Dispatcher.reset, lane := LaneEngine.reset, lines := LineMemory.reset,
    scene := SceneUnit.reset, tempo := TempoUnit.reset, tuner := Tuner.resetWith TunerSettings.reset,
    scanner := Scanner.reset, pedals := [Pedal.reset, Pedal.reset], bind := BindingUnit.reset, link := Link.reset,
    lamps := LampDriver.reset }

end Sys2Proof.Machine
end

