-- ==== Sys2Proof/Machine/Ops.lean ====
section
/-! DEFINITION. The named operations every unit uses: banks and lanes by name, exchange memory, the write buffer, the
frame counter, the order slots, the report pages. -/

namespace Sys2Proof.Machine

/-! ### Lists of a fixed length -/

/-- The first `n` entries of a list that shows `d` beyond its end, entry `i` replaced. -/
def putAt {α : Type} (n i : Nat) (x d : α) (l : List α) : List α :=
  (List.range n).map fun j => if j = i then x else l.getD j d

/-! ### Banks and lanes -/

def PerBank.get {α : Type} (p : PerBank α) : BankId → α
  | .a => p.a
  | .b => p.b

def PerBank.set {α : Type} (p : PerBank α) (k : BankId) (x : α) : PerBank α :=
  match k with
  | .a => { p with a := x }
  | .b => { p with b := x }

def PerLane.get {α : Type} (p : PerLane α) : LaneId → α
  | .one => p.one
  | .two => p.two

def PerLane.set {α : Type} (p : PerLane α) (k : LaneId) (x : α) : PerLane α :=
  match k with
  | .one => { p with one := x }
  | .two => { p with two := x }

def otherBank : BankId → BankId
  | .a => .b
  | .b => .a

/-- Lane numbers 1 and 2 as lanes. -/
def laneOfNat : Nat → Option LaneId
  | 1 => some .one
  | 2 => some .two
  | _ => none

def laneNumber : LaneId → Nat
  | .one => 1
  | .two => 2

def bankNumber : BankId → Nat
  | .a => 0
  | .b => 1

/-! ### Exchange memory (R184, R185, R207) -/

/-- The byte at an address; an unlisted address reads 0. -/
def Memory.read : Memory → Nat → Byte
  | [], _ => 0
  | (k, x) :: rest, a => if k = a then x else if a < k then 0 else Memory.read rest a

/-- A byte put at an address, in the canonical form. -/
def Memory.insert : Memory → Nat → Byte → Memory
  | [], a, x => if x = 0 then [] else [(a, x)]
  | (k, y) :: rest, a, x =>
    if a < k then (if x = 0 then (k, y) :: rest else (a, x) :: (k, y) :: rest)
    else if a = k then (if x = 0 then rest else (k, x) :: rest)
    else (k, y) :: Memory.insert rest a x

/-- A byte written at an address of the 64 KiB. -/
def Memory.write (m : Memory) (a : Nat) (x : Byte) : Memory :=
  if a < 0x10000 then Memory.insert m a x else m

/-- The canonical form: addresses strictly rising and inside the 64 KiB, and no byte 0 listed. -/
def Memory.wfFrom : Nat → Memory → Bool
  | _, [] => true
  | lo, (k, x) :: rest => decide (lo ≤ k) && decide (k < 0x10000) && x != 0 && Memory.wfFrom (k + 1) rest

def Memory.wf (m : Memory) : Bool := Memory.wfFrom 0 m

def lowByte (w : Word) : Byte := w.setWidth 8
def highByte (w : Word) : Byte := (w >>> 8).setWidth 8
def wordOfBytes (lo hi : Byte) : Word := hi ++ lo

/-- A word, little-endian (R207). -/
def Memory.readWord (m : Memory) (a : Nat) : Word := wordOfBytes (m.read a) (m.read (a + 1))

def Memory.writeWord (m : Memory) (a : Nat) (w : Word) : Memory :=
  (m.write a (lowByte w)).write (a + 1) (highByte w)

/-- `n` bytes from an address on. -/
def Memory.bytes (m : Memory) (a n : Nat) : List Byte := (List.range n).map fun i => m.read (a + i)

/-- The bytes the part writes (R185): the status block, the cells, the state and result fields of the slots, and the
report pages. -/
def partByte (a : Nat) : Bool :=
  decide (a < 0x200) || (decide (a < 0xA00) && decide (0x34 ≤ a % 64)) ||
    (decide (0xA00 ≤ a) && decide (a < 0x1200))

/-- One write of the part: a whole word, and only in a part-written area (R184, R185). -/
def Memory.partWrite (m : Memory) (x : Nat × Word) : Memory :=
  if partByte x.1 && partByte (x.1 + 1) then m.writeWord x.1 x.2 else m

def Memory.partWrites (m : Memory) (l : List (Nat × Word)) : Memory := l.foldl Memory.partWrite m

/-! ### The write buffer and the frame counter -/

/-- The part writes a word in the event under way (log 34). -/
def putWord (a : Nat) (w : Word) (s : State) : State := { s with writes := s.writes ++ [(a, w)] }

def putWords (l : List (Nat × Word)) (s : State) : State := { s with writes := s.writes ++ l }

/-- Words at consecutive word addresses. -/
def wordsAt : Nat → List Word → List (Nat × Word)
  | _, [] => []
  | a, w :: rest => (a, w) :: wordsAt (a + 2) rest

/-- The frame counter of R1: 32 bits, wrapping. -/
def State.frameCounter (s : State) : Long := BitVec.ofNat 32 s.frames

def word (n : Nat) : Word := BitVec.ofNat 16 n
def wordOfInt (i : Int) : Word := BitVec.ofInt 16 i
def wordOfBool (b : Bool) : Word := if b then 1 else 0
def natOfBool (b : Bool) : Nat := if b then 1 else 0
def lowWord (l : Long) : Word := l.setWidth 16
def highWord (l : Long) : Word := (l >>> 16).setWidth 16

/-- Two bytes as a word, low byte first. -/
def bytePair (lo hi : Nat) : Word := BitVec.ofNat 16 (lo % 256 + 256 * (hi % 256))

/-! ### Report pages (R196, R198, R211) -/

def Pages.fillingCount (p : Pages) : Nat := if p.fillingOne then p.count1 else p.count0

def pageBase (one : Bool) : Nat := if one then 0x0E00 else 0x0A00

/-- A page's header word: state in byte 0, count in byte 1 (R211). -/
def Pages.header (p : Pages) (one : Bool) : Word :=
  bytePair (natOfBool (one != p.fillingOne)) (if one then p.count1 else p.count0)

def Pages.bump (p : Pages) : Pages :=
  if p.fillingOne then { p with count1 := p.count1 + 1 } else { p with count0 := p.count0 + 1 }

/-- A report as a block asks for it (R198): the detail is given as words. -/
structure Report where
  kind : Nat
  flags : Nat
  source : Nat
  time : Long
  detail : List Word
deriving DecidableEq, Repr

def Report.words (r : Report) : List Word :=
  [bytePair r.kind r.flags, word r.source, lowWord r.time, highWord r.time] ++
    (r.detail ++ List.replicate 12 0).take 12

/-- Appending a report (R196): written whole and counted, or dropped with LOST. -/
def appendReport (r : Report) (s : State) : State :=
  let p := s.disp.pages
  if p.fillingCount ≤ 30 then
    let cell := wordsAt (pageBase p.fillingOne + 0x20 + 32 * p.fillingCount) r.words
    let s := putWords cell { s with disp := { s.disp with pages := p.bump } }
    putWord (pageBase p.fillingOne) (p.bump.header p.fillingOne) s
  else
    { s with disp := { s.disp with attention := { s.disp.attention with lost := true },
                                   dropped := min 255 (s.disp.dropped + 1) } }

/-- The report source types of R211. -/
def sourceNone : Nat := 0
def sourceSlot (i : Nat) : Nat := 0x1000 + i
def sourceEntry (e : EntryRef) : Nat :=
  match e.table with
  | .localTable => 0x2000 + e.index
  | .globalTable => 0x3000 + e.index
def sourceSetList (i : Nat) : Nat := 0x4000 + i
def sourcePreload : Nat := 0x5000
def sourceFilter (i : Nat) : Nat := 0x6000 + i
def sourceLine (i : Nat) : Nat := 0x7000 + i
def sourcePedal (i : Nat) : Nat := 0x8000 + i

def Origin.source : Origin → Nat
  | .slot i => sourceSlot i
  | .binding e => sourceEntry e
  | .setList i => sourceSetList i
  | .preload => sourcePreload

/-! ### Order slots (R189, R195, R208) -/

def OrderKind.all : List OrderKind :=
  [.sceneLoad, .sceneGo, .sceneSwap, .setlistLoad, .setlistMove, .stageSet, .stageBypass, .muteSet, .tunerSet,
   .tempoSet, .bindLoad, .impulseLoad, .impulseDrop, .linkSend, .linkConfig, .linkRejoin, .controlConfig, .lampConfig]

/-- The order kind of a code, 1 to 18 (R208). -/
def OrderKind.ofCode (n : Nat) : Option OrderKind :=
  match n with
  | 0 => none
  | k + 1 => OrderKind.all[k]?

/-- The owner of each order kind (R194). -/
def OrderKind.owner : OrderKind → Owner
  | .sceneLoad => .sceneUnit
  | .sceneGo => .sceneUnit
  | .sceneSwap => .sceneUnit
  | .setlistLoad => .sceneUnit
  | .setlistMove => .sceneUnit
  | .stageSet => .laneEngine
  | .stageBypass => .laneEngine
  | .muteSet => .laneEngine
  | .impulseLoad => .lineMemory
  | .impulseDrop => .lineMemory
  | .tunerSet => .tuner
  | .tempoSet => .tempoUnit
  | .bindLoad => .bindingUnit
  | .linkSend => .link
  | .linkConfig => .link
  | .linkRejoin => .link
  | .controlConfig => .switchScanner
  | .lampConfig => .lampDriver

def ResultCode.code : ResultCode → Nat
  | .ok => 0
  | .cancelled => 1
  | .superseded => 2
  | .badArgument => 3
  | .wrongMode => 4
  | .badRecord => 5
  | .emptyEntry => 6
  | .overBudget => 7
  | .noLineMemory => 8
  | .missingImpulse => 9
  | .inUse => 10
  | .notReady => 11
  | .linkFailed => 12
  | .linkDetached => 13

def ResultFlags.code (f : ResultFlags) : Nat :=
  natOfBool f.clamped + 2 * natOfBool f.fadeDowngraded + 4 * natOfBool f.trailDropped + 8 * natOfBool f.trailCut +
    16 * natOfBool f.lean + 32 * natOfBool f.cancelTooLate

def SlotState.code : SlotState → Nat
  | .free => 0
  | .waiting => 1
  | .running => 2
  | .done => 3

/-- The slot word (R208). -/
def Slot.slotWord (x : Slot) : Word :=
  word (x.state.code + 4 * natOfBool x.cancelMark + 16 * x.code.code + 256 * x.flags.code)

def slotBase (i : Nat) : Nat := 0x0200 + 64 * i

def State.slot (s : State) (i : Nat) : Slot := s.disp.slots.getD i Slot.reset

def setSlot (i : Nat) (x : Slot) (s : State) : State :=
  { s with disp := { s.disp with slots := putAt 32 i x Slot.reset s.disp.slots } }

/-- A slot's new fields, with the slot word written to it (R189). -/
def writeSlot (i : Nat) (x : Slot) (s : State) : State := putWord (slotBase i + 0x34) x.slotWord (setSlot i x s)

def Slot.kind (x : Slot) : Option OrderKind := x.order.bind fun o => OrderKind.ofCode o.kind

/-- The owner of a slot's captured order. -/
def Slot.owner (x : Slot) : Option Owner := x.kind.map OrderKind.owner

/-- Result words, padded with 0 to four (R210). -/
def fourWords (l : List Word) : List Word := (l ++ [0, 0, 0, 0]).take 4

/-- The flags written at a completion: CANCEL_TOO_LATE is added where R191 adds it. -/
def Slot.finalFlags (x : Slot) (code : ResultCode) (flags : ResultFlags) : ResultFlags :=
  { flags with
    cancelTooLate := flags.cancelTooLate || (x.cancelMark && code != .cancelled && code != .superseded) }

/-- The slot as a completion leaves it (R195). -/
def Slot.finish (x : Slot) (code : ResultCode) (flags : ResultFlags) (words : List Word) : Slot :=
  { x with state := .done, code := code, flags := x.finalFlags code flags, words := fourWords words }

/-- The ORDER_DONE report of a slot just made DONE (R198, R211). -/
def orderDoneReport (i : Nat) (x : Slot) (time : Long) : Report :=
  let kind := (x.order.map Order.kind).getD 0
  let tag := (x.order.map Order.tag).getD 0
  { kind := 1, flags := 0, source := sourceSlot i, time := time,
    detail := [bytePair kind x.code.code, tag, word (256 * x.flags.code), x.postNumber] ++ x.words }

/-- Completion of an order (R195, R208), steps 1 to 4: the result words, the slot word with the new code and flags beside
the state as it was, the slot word with DONE, the age list, ORDER_DONE. Only a WAITING or RUNNING slot completes. Step 5,
the owner's next choice, is `chooseFor`, which follows where the event goes on and `finish` where it ends (log 31). -/
def complete (i : Nat) (code : ResultCode) (flags : ResultFlags) (words : List Word) (s : State) : State :=
  let x := s.slot i
  if x.state = .waiting ∨ x.state = .running then
    let y := x.finish code flags words
    let s := putWords (wordsAt (slotBase i + 0x38) y.words ++ [(slotBase i + 0x34, { y with state := x.state }.slotWord)]) s
    let s := writeSlot i y s
    let s := { s with disp := { s.disp with ageList := s.disp.ageList.filter (· != i) } }
    appendReport (orderDoneReport i y s.frameCounter) s
  else s

def completeOk (i : Nat) (words : List Word) (s : State) : State := complete i .ok ResultFlags.none words s

def completeWith (i : Nat) (code : ResultCode) (words : List Word) (s : State) : State :=
  complete i code ResultFlags.none words s

/-! ### Attention -/

def raiseTuner (s : State) : State :=
  { s with disp := { s.disp with attention := { s.disp.attention with tuner := true } } }
def raiseAbnormal (s : State) : State :=
  { s with disp := { s.disp with attention := { s.disp.attention with abnormal := true } } }
def raiseLink (s : State) : State :=
  { s with disp := { s.disp with attention := { s.disp.attention with link := true } } }
def raiseMode (s : State) : State :=
  { s with disp := { s.disp with attention := { s.disp.attention with mode := true } } }

/-! ### The host port (R186, R187) -/

/-- A host access to exchange memory carried out (R184). -/
def hostAccess (acc : HostAccess) (s : State) : State :=
  match acc with
  | .read w =>
    { s with disp := { s.disp with port := { s.disp.port with hostData := s.mem.readWord (2 * w.toNat) } } }
  | .write w v => { s with mem := s.mem.writeWord (2 * w.toNat) v }

/-- The kind of a burst: at most one of each kind waits, and one capture for each slot (R187). -/
def Burst.sameKind : Burst → Burst → Bool
  | .orderCapture i _, .orderCapture j _ => i == j
  | .impulseChunk _, .impulseChunk _ => true
  | .sceneFetch _ _, .sceneFetch _ _ => true
  | .setlistCopy _, .setlistCopy _ => true
  | .bindingCopy _, .bindingCopy _ => true
  | _, _ => false

/-- A kind's place in the fixed order of R187; the initialization burst is never asked for. -/
def Burst.rank : Burst → Nat
  | .initialization => 0
  | .orderCapture _ _ => 1
  | .impulseChunk _ => 2
  | .sceneFetch _ _ => 3
  | .setlistCopy _ => 4
  | .bindingCopy _ => 5

/-- Asking for a burst (R187): it stands with the bursts that the event under way has asked for, in the fixed order of
their kinds. The same burst asked for again keeps its place in the queue; any other waiting burst of its kind is a stale
one and is dropped (R190; log 8). -/
def askBurst (b : Burst) (s : State) : State :=
  let p := s.disp.port
  if p.queue.contains b then s
  else
    let asked := p.asked.filter fun x => !(b.sameKind x)
    { s with disp := { s.disp with port := { p with
        queue := p.queue.filter fun x => !(b.sameKind x),
        asked := asked.filter (fun x => decide (x.rank ≤ b.rank)) ++ b :: asked.filter fun x => decide (b.rank < x.rank) } } }

/-- The bursts asked for together join the queue (R187): on a free port with nothing in the queue the first of them starts
at once, and every other waits. -/
def Port.queueAsked (p : Port) : Port :=
  match p.running, p.queue, p.asked with
  | none, [], b :: rest => { p with running := some b, queue := rest, asked := [] }
  | _, _, _ => { p with queue := p.queue ++ p.asked, asked := [] }

/-- The end of the running burst: a host access on WAIT is carried out first (R187). -/
def endBurst (s : State) : State :=
  let s1 := { s with disp := { s.disp with port := { s.disp.port with running := none, hostWait := none } } }
  match s.disp.port.hostWait with
  | none => s1
  | some acc => hostAccess acc s1

/-! ### Lists -/

/-- Apply a function `n` times. -/
def iterate {α : Type} (f : α → α) : Nat → α → α
  | 0, x => x
  | n + 1, x => iterate f n (f x)

/-- Run an event for each of the first `n` numbers, in order. -/
def forEach (n : Nat) (f : Nat → State → State) (s : State) : State :=
  (List.range n).foldl (fun s i => f i s) s

end Sys2Proof.Machine
end

