-- ==== Sys2Proof/Machine/Flags.lean ====
section
/-! DEFINITION. The registers as the host reads them (R188), the attention flags and the IRQ and WAIT lines (R199,
R200), and misuse (R193). -/

namespace Sys2Proof.Machine

/-- REPORTS is a level: the FILLING page holds at least one report (R199). -/
def State.reportsFlag (s : State) : Bool := decide (0 < s.disp.pages.fillingCount)

/-- The six attention flags, bit n as R188 numbers them. -/
def State.attn (s : State) : BitVec 6 :=
  BitVec.ofNat 6 (natOfBool s.reportsFlag + 2 * natOfBool s.disp.attention.tuner +
    4 * natOfBool s.disp.attention.lost + 8 * natOfBool s.disp.attention.abnormal +
    16 * natOfBool s.disp.attention.link + 32 * natOfBool s.disp.attention.mode)

/-- The IRQ line (R200). -/
def State.irq (s : State) : Bool := (s.attn &&& s.disp.attnEnable) != 0

/-- The WAIT line (R184). -/
def State.waitLine (s : State) : Bool := s.disp.port.hostWait.isSome

/-- The three bits of the MODE register and of the status block's mode byte (R188, R212). -/
def State.modeBits (s : State) : Nat :=
  natOfBool (s.disp.mode == .run) + 2 * natOfBool s.disp.setupAck + 4 * natOfBool s.disp.setupPending

/-- The five registers (R188). -/
inductive Reg where
  | id | slotcmd | attn | attnen | mode
deriving DecidableEq, Repr

/-- A register read (R188): no side effect; 0 while the RESET line is held (R205). -/
def State.readReg (s : State) (r : Reg) : Word :=
  if s.resetHeld then 0
  else match r with
    | .id => word (0x6010 + natOfBool s.disp.por)
    | .slotcmd => 0
    | .attn => s.attn.setWidth 16
    | .attnen => s.disp.attnEnable.setWidth 16
    | .mode => word s.modeBits

/-- The command that a write of a register is (R188). SLOTCMD: the operation in bits 15 to 12, the slot in bits 7 to 0, and
bits 11 to 8 ignored. MODE: the request in bits 1 and 0, and 0 is none. -/
def registerCommand (r : Reg) (v : Word) : Option Instr :=
  match r with
  | .id => some (.porClear v)
  | .slotcmd =>
    let slot : BitVec 8 := v.setWidth 8
    match v.toNat / 4096 with
    | 1 => some (.post slot)
    | 2 => some (.cancel slot)
    | 3 => some (.reclaim slot)
    | 4 => some (.take slot)
    | op => some (.badOperation (BitVec.ofNat 4 op) slot)
  | .attn => some (.attnWrite v)
  | .attnen => some (.attnenWrite v)
  | .mode =>
    match v.toNat % 4 with
    | 1 => some .setupRequest
    | 2 => some .runRequest
    | 3 => some .softReset
    | _ => none

/-- The flags a write to ATTN clears (R199): each flag whose bit is 1, except REPORTS. -/
def Attention.clear (a : Attention) (v : Word) : Attention :=
  { tuner := a.tuner && !v.getLsbD 1, lost := a.lost && !v.getLsbD 2, abnormal := a.abnormal && !v.getLsbD 3,
    link := a.link && !v.getLsbD 4, mode := a.mode && !v.getLsbD 5 }

/-- The misuse record after a misuse (R193): the first cause stays, a later one sets MORE. -/
def Misuse.record (old : Option Misuse) (cause : MisuseCause) (slot : BitVec 8) (time : Long) : Misuse :=
  match old with
  | none => ⟨cause, slot, time, false⟩
  | some m => { m with more := true }

/-- A misuse (R193): ABNORMAL is set and the record kept; no slot, page or order changes. -/
def misuse (cause : MisuseCause) (slot : BitVec 8) (s : State) : State :=
  raiseAbnormal
    { s with disp := { s.disp with misuse := some (Misuse.record s.disp.misuse cause slot s.frameCounter) } }

end Sys2Proof.Machine
end

