-- ==== Sys2Proof/Machine/Operands.lean ====
section
/-! DEFINITION. Every form an operand takes in exchange memory: order arguments, scene records, binding entries,
configurations (chapter 11), with the stage and parameter table of R10. Each format has a list of faults in ascending
offset and a builder that reads any bytes. -/

namespace Sys2Proof.Machine

/-! ### Fields -/

def byteAt (l : List Byte) (i : Nat) : Nat := (l.getD i 0).toNat
def wordAt (l : List Byte) (i : Nat) : Nat := byteAt l i + 256 * byteAt l (i + 1)
def longAt (l : List Byte) (i : Nat) : Nat := wordAt l i + 65536 * wordAt l (i + 2)
def signedAt (l : List Byte) (i : Nat) : Int := (BitVec.ofNat 16 (wordAt l i)).toInt
def signedByteAt (l : List Byte) (i : Nat) : Int := (l.getD i 0).toInt

/-- Bits `lo` to `lo + width - 1` of a number. -/
def bitsOf (x lo width : Nat) : Nat := x / 2 ^ lo % 2 ^ width

/-- The offset of the first field that fails, fields being listed in ascending offset (R209, R214). -/
def firstFault (l : List (Nat × Bool)) : Option Nat := (l.find? fun x => x.2).map fun x => x.1

def outside (x lo hi : Nat) : Bool := decide (x < lo) || decide (hi < x)
def outsideInt (x lo hi : Int) : Bool := decide (x < lo) || decide (hi < x)

/-- A value held within a range. -/
def clampInt (lo hi x : Int) : Int := max lo (min hi x)
def clampNat (lo hi x : Nat) : Nat := max lo (min hi x)

/-- A whole quotient rounded half up. -/
def roundDiv (a b : Nat) : Nat := (2 * a + b) / (2 * b)

/-! ### Stage kinds and parameters (R9, R10) -/

inductive ParamClass where
  | glided | stepped | switched | tap | loadTime
deriving DecidableEq, Repr

structure ParamSpec where
  cls : ParamClass
  min : Int
  max : Int
deriving DecidableEq, Repr

/-- The parameters of each kind, in index order (R10). A DELAY's time is further held to its own max length. -/
def StageKind.params : StageKind → List ParamSpec
  | .trim => [⟨.glided, -240, 240⟩, ⟨.switched, 0, 1⟩]
  | .gate => [⟨.stepped, -960, 0⟩, ⟨.stepped, 1, 500⟩, ⟨.stepped, 5, 2000⟩, ⟨.stepped, -960, 0⟩]
  | .comp => [⟨.stepped, -600, 0⟩, ⟨.stepped, 10, 200⟩, ⟨.stepped, 1, 100⟩, ⟨.stepped, 10, 2000⟩, ⟨.glided, 0, 240⟩]
  | .drive => [⟨.glided, 0, 1000⟩, ⟨.switched, 0, 7⟩, ⟨.glided, 0, 1000⟩, ⟨.glided, -600, 120⟩]
  | .amp => [⟨.loadTime, 0, 15⟩, ⟨.glided, 0, 1000⟩, ⟨.glided, 0, 1000⟩, ⟨.glided, 0, 1000⟩, ⟨.glided, 0, 1000⟩,
             ⟨.glided, 0, 1000⟩, ⟨.glided, 0, 1000⟩, ⟨.stepped, 0, 1000⟩]
  | .cab => [⟨.loadTime, 0, 15⟩, ⟨.loadTime, 64, 1920⟩, ⟨.glided, -600, 120⟩, ⟨.glided, 0, 1000⟩]
  | .eq => [⟨.glided, -150, 150⟩, ⟨.glided, -150, 150⟩, ⟨.glided, -150, 150⟩, ⟨.glided, -150, 150⟩,
            ⟨.glided, -150, 150⟩, ⟨.glided, -600, 120⟩]
  | .mod => [⟨.loadTime, 0, 4⟩, ⟨.stepped, 5, 2000⟩, ⟨.stepped, 0, 8⟩, ⟨.glided, 0, 1000⟩, ⟨.glided, 0, 1000⟩]
  | .delay => [⟨.loadTime, 20, 2500⟩, ⟨.tap, 1, 2500⟩, ⟨.stepped, 0, 8⟩, ⟨.glided, 0, 950⟩, ⟨.glided, 0, 1000⟩]
  | .verb => [⟨.stepped, 100, 10000⟩, ⟨.tap, 0, 200⟩, ⟨.glided, 0, 1000⟩, ⟨.glided, 0, 1000⟩]

/-- The stage kind codes (R213). -/
def StageKind.code : StageKind → Nat
  | .trim => 1
  | .gate => 2
  | .comp => 3
  | .drive => 4
  | .amp => 5
  | .cab => 6
  | .eq => 7
  | .mod => 8
  | .delay => 9
  | .verb => 10

def StageKind.ofCode (n : Nat) : Option StageKind :=
  match n with
  | 1 => some .trim
  | 2 => some .gate
  | 3 => some .comp
  | 4 => some .drive
  | 5 => some .amp
  | 6 => some .cab
  | 7 => some .eq
  | 8 => some .mod
  | 9 => some .delay
  | 10 => some .verb
  | _ => none

/-- The range of a parameter of a stage whose max length (a DELAY's parameter 0) is `maxLen` (R10). -/
def StageKind.param (k : StageKind) (maxLen : Int) (i : Nat) : Option ParamSpec :=
  match k.params[i]? with
  | none => none
  | some p => some (if k = .delay ∧ i = 1 then { p with max := maxLen } else p)

/-- The cost of a stage (R10), a CAB's by its taps in use. -/
def StageKind.cost (k : StageKind) (taps : Nat) : Nat :=
  match k with
  | .trim => 5
  | .gate => 15
  | .comp => 40
  | .drive => 90
  | .amp => 320
  | .cab => if taps ≤ 960 then 160 else 300
  | .eq => 60
  | .mod => 70
  | .delay => 60
  | .verb => 240

/-- The line blocks of a stage (R10, R33). -/
def StageKind.blocks (k : StageKind) (maxLen : Nat) : Nat :=
  match k with
  | .delay => (maxLen + 19) / 20
  | .verb => 40
  | _ => 0

/-! ### Fade profiles (R66) -/

def FadeMode.ofCode : Nat → FadeMode
  | 0 => .cut
  | 1 => .gap
  | _ => .blend

def FadeMode.code : FadeMode → Nat
  | .cut => 0
  | .gap => 1
  | .blend => 2

def Quantize.ofCode : Nat → Quantize
  | 0 => .none
  | 1 => .beat
  | _ => .bar

/-- A profile as every format lays it out: mode, quantize, F, G (R209, R214, R215). -/
def profileAt (l : List Byte) (o : Nat) : Profile :=
  { mode := FadeMode.ofCode (byteAt l o), f := wordAt l (o + 2), g := wordAt l (o + 4),
    quantize := Quantize.ofCode (byteAt l (o + 1)) }

def profileFaults (l : List Byte) (o : Nat) : List (Nat × Bool) :=
  [(o, decide (2 < byteAt l o)), (o + 1, decide (2 < byteAt l (o + 1))), (o + 2, outside (wordAt l (o + 2)) 1 250),
   (o + 4, decide (250 < wordAt l (o + 4)))]

/-! ### Messages and binding entries (R132, R133, R215) -/

/-- A notice: topic in bits 9-0 and length in bits 14-12 of a word, then the payload bytes (R214, R215). -/
def noticeAt (l : List Byte) (o : Nat) : Message :=
  let n := bitsOf (wordAt l o) 12 3
  ⟨bitsOf (wordAt l o) 0 10, n, (List.range n).map fun i => l.getD (o + 2 + i) 0⟩

def noticeFaults (l : List Byte) (o : Nat) : List (Nat × Bool) := [(o, bitsOf (wordAt l o) 12 3 == 7)]

def actionFaults (l : List Byte) (a kind : Nat) : List (Nat × Bool) :=
  match kind with
  | 1 => [(a, decide (63 < byteAt l a)), (a + 1, decide (1 < byteAt l (a + 1)))] ++
      (if byteAt l (a + 1) = 1 then profileFaults l (a + 2) else [])
  | 2 => [(a, signedByteAt l a != 1 && signedByteAt l a != -1)]
  | 3 => [(a, decide (31 < byteAt l a))]
  | 4 => [(a, outside (byteAt l a) 1 2), (a + 1, decide (11 < byteAt l (a + 1)))]
  | 5 => [(a, outside (byteAt l a) 1 2), (a + 1, decide (11 < byteAt l (a + 1)))]
  | 6 => [(a, outside (byteAt l a) 1 2), (a + 1, decide (11 < byteAt l (a + 1)))]
  | 7 => [(a, outside (byteAt l a) 1 2), (a + 1, decide (11 < byteAt l (a + 1))), (a + 2, decide (7 < byteAt l (a + 2))),
      (a + 4, outsideInt (signedAt l (a + 4)) (-1000) 10000), (a + 6, outsideInt (signedAt l (a + 6)) (-1000) 10000)]
  | 13 => noticeFaults l a
  | _ => []

/-- The faults of the entry at an offset (R133). The two faults that concern two fields stand at the action byte
(log 24). -/
def entryFaults (l : List Byte) (o : Nat) : List (Nat × Bool) :=
  let t := byteAt l o
  let k := bitsOf (byteAt l (o + 3)) 0 4
  let follow := bitsOf (byteAt l (o + 3)) 7 1
  if t = 0 then []
  else
    [(o, decide (7 < t)),
     (o + 1, (decide (t ≤ 5) && decide (7 < byteAt l (o + 1))) || (t == 6 && decide (1 < byteAt l (o + 1)))),
     (o + 2, t == 5 && decide (7 < byteAt l (o + 2))),
     (o + 3, k == 0 || k == 15 || (k == 7 && t != 6) || (follow == 1 && k != 7)),
     (o + 4, t == 7 && decide (1023 < wordAt l (o + 4))),
     (o + 6, t == 7 && decide (1023 < wordAt l (o + 6)))] ++ actionFaults l (o + 8) k

def triggerAt (l : List Byte) (o : Nat) : Option Trigger :=
  let x := byteAt l (o + 1)
  match byteAt l o with
  | 1 => some (.press x)
  | 2 => some (.release x)
  | 3 => some (.hold x)
  | 4 => some (.rept x)
  | 5 => some (.chord x (byteAt l (o + 2)))
  | 6 => some (.pedal x)
  | 7 => some (.link (wordAt l (o + 4)) (wordAt l (o + 6)) (if bitsOf x 0 1 = 1 then some (l.getD (o + 2) 0) else none))
  | _ => none

def actionAt (l : List Byte) (a kind : Nat) : Action :=
  match kind with
  | 1 => .sceneGo (byteAt l a) (if byteAt l (a + 1) = 1 then some (profileAt l (a + 2)) else none)
  | 2 => .setlistStep (signedByteAt l a)
  | 3 => .setlistJump (byteAt l a)
  | 4 => .stageToggle (byteAt l a) (byteAt l (a + 1))
  | 5 => .stageOn (byteAt l a) (byteAt l (a + 1))
  | 6 => .stageOff (byteAt l a) (byteAt l (a + 1))
  | 7 => .paramFromPedal (byteAt l a) (byteAt l (a + 1)) (byteAt l (a + 2)) (signedAt l (a + 4)) (signedAt l (a + 6))
  | 8 => .tunerToggle
  | 9 => .muteToggle
  | 10 => .linkMuteOn
  | 11 => .linkMuteOff
  | 12 => .tap
  | 13 => .notice (noticeAt l a)
  | _ => .reportOnly

/-- The entry at an offset; an entry whose trigger kind is NONE is none. -/
def entryAt (l : List Byte) (o : Nat) : Option Entry :=
  match triggerAt l o with
  | none => none
  | some t =>
    let b := byteAt l (o + 3)
    some ⟨t, actionAt l (o + 8) (bitsOf b 0 4), bitsOf b 6 1 == 1, bitsOf b 7 1 == 1⟩

/-- The action kind codes (R215). -/
def Action.code : Action → Nat
  | .sceneGo _ _ => 1
  | .setlistStep _ => 2
  | .setlistJump _ => 3
  | .stageToggle _ _ => 4
  | .stageOn _ _ => 5
  | .stageOff _ _ => 6
  | .paramFromPedal _ _ _ _ _ => 7
  | .tunerToggle => 8
  | .muteToggle => 9
  | .linkMuteOn => 10
  | .linkMuteOff => 11
  | .tap => 12
  | .notice _ => 13
  | .reportOnly => 14

/-! ### Scene records (R214) -/

def LaneSource.ofCode : Nat → LaneSource
  | 0 => .inA
  | 1 => .inB
  | _ => .lane1

def Assign.ofCode : Nat → Assign
  | 0 => .main
  | 1 => .aux
  | _ => .both

/-- The faults of a lane header; lane 1's only source is IN A. -/
def laneFaults (l : List Byte) (o maxSource : Nat) : List (Nat × Bool) :=
  [(o, decide (1 < byteAt l o)), (o + 1, decide (maxSource < byteAt l (o + 1))),
   (o + 2, wordAt l (o + 2) != 0x8000 && outsideInt (signedAt l (o + 2)) (-960) 120),
   (o + 4, outsideInt (signedAt l (o + 4)) (-100) 100), (o + 6, decide (2 < byteAt l (o + 6))),
   (o + 7, decide (12 < byteAt l (o + 7)))]

def headerFaults (l : List Byte) : List (Nat × Bool) :=
  profileFaults l 0x12 ++ [(0x18, decide (10000 < wordAt l 0x18))] ++ laneFaults l 0x20 0 ++ laneFaults l 0x28 2

def laneHeaderAt (l : List Byte) (o : Nat) (stages : List StageRecord) : LaneRecord :=
  { enabled := byteAt l o == 1, source := LaneSource.ofCode (byteAt l (o + 1)),
    level := if wordAt l (o + 2) = 0x8000 then none else some (signedAt l (o + 2)), pan := signedAt l (o + 4),
    assign := Assign.ofCode (byteAt l (o + 6)), stages := stages }

def paramFaults (l : List Byte) (o : Nat) (k : StageKind) : List (Nat × Bool) :=
  let maxLen := signedAt l o
  (List.range k.params.length).map fun i =>
    (o + 2 * i,
      match k.param (min maxLen 2500) i with
      | none => true
      | some p => outsideInt (signedAt l (o + 2 * i)) p.min p.max)

/-- The stage records that a stage count at `countAt` calls for, from offset `o` on, positions from `low` on: the
records and the offset after them, or the fault offset (R214). A record that would run past the length is found when the walk
comes to it, after the fields of the records before it; that this order decides between the two is the model's choice (log
23). -/
def stagesWalk (l : List Byte) (len countAt : Nat) : Nat → Nat → Nat → Except Nat (List StageRecord × Nat)
  | 0, _, o => .ok ([], o)
  | n + 1, low, o =>
    if len < o + 4 then .error countAt
    else match StageKind.ofCode (byteAt l o) with
      | none => .error o
      | some k =>
        let size := 4 + 2 * k.params.length
        if len < o + size then .error countAt
        else
          let trail := bitsOf (byteAt l (o + 2)) 1 1
          match firstFault ([(o + 1, outside (byteAt l (o + 1)) low 11),
              (o + 2, trail == 1 && k != .delay && k != .verb)] ++ paramFaults l (o + 4) k) with
          | some f => .error f
          | none =>
            match stagesWalk l len countAt n (byteAt l (o + 1) + 1) (o + size) with
            | .error f => .error f
            | .ok (rest, o') =>
              .ok (⟨k, byteAt l (o + 1), bitsOf (byteAt l (o + 2)) 0 1 == 1, trail == 1,
                (List.range k.params.length).map fun i => signedAt l (o + 4 + 2 * i)⟩ :: rest, o')

def entriesWalk (l : List Byte) (len countAt : Nat) : Nat → Nat → Except Nat (List (Option Entry) × Nat)
  | 0, o => .ok ([], o)
  | n + 1, o =>
    if len < o + 16 then .error countAt
    else match firstFault (entryFaults l o) with
      | some f => .error f
      | none =>
        match entriesWalk l len countAt n (o + 16) with
        | .error f => .error f
        | .ok (rest, o') => .ok (entryAt l o :: rest, o')

def noticesWalk (l : List Byte) (len countAt : Nat) : Nat → Nat → Except Nat (List Message)
  | 0, _ => .ok []
  | n + 1, o =>
    if len < o + 8 then .error countAt
    else match firstFault (noticeFaults l o) with
      | some f => .error f
      | none =>
        match noticesWalk l len countAt n (o + 8) with
        | .error f => .error f
        | .ok rest => .ok (noticeAt l o :: rest)

/-- The walk of a record of `len` bytes from offset 0x12 in field order: the record, or the fault offset (R214). -/
def recordWalk (l : List Byte) (len : Nat) : Except Nat SceneRecord := do
  match firstFault (headerFaults l) with
  | some f => .error f
  | none =>
    let (s1, o1) ← stagesWalk l len 0x27 (byteAt l 0x27) 0 0x30
    let (s2, o2) ← stagesWalk l len 0x2F (byteAt l 0x2F) 0 o1
    match firstFault [(o2, decide (len < o2 + 1) || decide (16 < byteAt l o2)),
        (o2 + 1, decide (len < o2 + 2) || decide (4 < byteAt l (o2 + 1)))] with
    | some f => .error f
    | none =>
      let (entries, o3) ← entriesWalk l len o2 (byteAt l o2) (o2 + 2)
      let notices ← noticesWalk l len (o2 + 1) (byteAt l (o2 + 1)) o3
      .ok { profile := profileAt l 0x12, tailHold := wordAt l 0x18,
            lanes := ⟨laneHeaderAt l 0x20 s1, laneHeaderAt l 0x28 s2⟩, bindings := entries, notices := notices }

/-- A CAB's taps parameter. -/
def StageRecord.taps (r : StageRecord) : Nat := (r.params.getD 1 0).toNat

def LaneRecord.cost (r : LaneRecord) : Nat :=
  if r.enabled then 20 + (r.stages.map fun x => x.kind.cost x.taps).sum else 0

/-- A record's cost, with the taps of the record (R20, R49). -/
def SceneRecord.cost (r : SceneRecord) : Nat := r.lanes.one.cost + r.lanes.two.cost

/-! ### Configurations (R112, R123, R169, R175, R209) -/

def LineMode.ofCode : Nat → LineMode
  | 0 => .off
  | 1 => .momentary
  | 2 => .latching
  | _ => .repeating

def LineMode.code : LineMode → Nat
  | .off => 0
  | .momentary => 1
  | .latching => 2
  | .repeating => 3

/-- A line entry of CONTROL_CONFIG. -/
def lineConfigOf (x : Nat) : LineConfig :=
  { mode := LineMode.ofCode (bitsOf x 0 2), activeHigh := bitsOf x 2 1 == 1, debounce := bitsOf x 4 5,
    holdTime := bitsOf x 19 12, repeatInterval := bitsOf x 9 10, report := bitsOf x 3 1 == 1 }

/-- A line entry faults (R128, R209). -/
def lineConfigFaulty (x : Nat) : Bool :=
  let c := lineConfigOf x
  c.debounce == 0 || outside c.repeatInterval 50 1000 || (c.holdTime != 0 && outside c.holdTime 200 2550) ||
    c.holdTime % 10 != 0 || (c.mode == .repeating && c.holdTime == 0)

def pedalConfigAt (l : List Byte) (o : Nat) : PedalConfig :=
  let f := wordAt l o
  { enable := bitsOf f 0 1 == 1, internalRef := bitsOf f 1 1 == 1, heel := wordAt l (o + 2), toe := wordAt l (o + 4),
    deadband := bitsOf f 8 6, report := bitsOf f 2 1 == 1 }

/-- A pedal entry's faults; a toe equal to its heel is a fault of the toe (log 25). -/
def pedalConfigFaults (l : List Byte) (o : Nat) : List (Nat × Bool) :=
  [(o, outside (bitsOf (wordAt l o) 8 6) 1 50), (o + 2, decide (1020 < wordAt l (o + 2))),
   (o + 4, decide (1020 < wordAt l (o + 4)) || wordAt l (o + 4) == wordAt l (o + 2))]

def controlFaults (l : List Byte) : List (Nat × Bool) :=
  ((List.range 8).map fun n => (4 * n, lineConfigFaulty (longAt l (4 * n)))) ++
    [(0x20, outside (wordAt l 0x20) 20 100)] ++ pedalConfigFaults l 0x22 ++ pedalConfigFaults l 0x28

def FilterDest.ofCode : Nat → FilterDest
  | 0 => .report
  | 1 => .bind
  | _ => .both

def FilterDest.code : FilterDest → Nat
  | .report => 0
  | .bind => 1
  | .both => 2

def filterAt (l : List Byte) (f : Nat) : Filter :=
  let b := byteAt l (0x20 + f)
  ⟨bitsOf b 0 1 == 1, word (wordAt l (4 * f)), word (wordAt l (4 * f + 2)), FilterDest.ofCode (bitsOf b 1 2)⟩

def linkConfigOf (l : List Byte) : LinkConfig :=
  { rate := wordAt l 0x28, address := byteAt l 0x2C, filters := (List.range 8).map (filterAt l),
    beatTopic := if wordAt l 0x2A = 0xFFFF then none else some (wordAt l 0x2A), autoRejoin := byteAt l 0x2D == 1,
    loopback := byteAt l 0x2E == 1 }

def linkConfigFaults (l : List Byte) : List (Nat × Bool) :=
  ((List.range 8).map fun f => (0x20 + f, bitsOf (byteAt l (0x20 + f)) 1 2 == 3)) ++
    [(0x28, wordAt l 0x28 != 125 && wordAt l 0x28 != 250 && wordAt l 0x28 != 500),
     (0x2A, outside (wordAt l 0x2A) 0 1023 && wordAt l 0x2A != 0xFFFF), (0x2C, decide (63 < byteAt l 0x2C)),
     (0x2D, decide (1 < byteAt l 0x2D)), (0x2E, decide (1 < byteAt l 0x2E))]

def tunerSettingsOf (l : List Byte) : TunerSettings :=
  { on := byteAt l 0 == 1, thru := byteAt l 1 == 1, sourceB := byteAt l 2 == 1, level := byteAt l 3,
    wide := byteAt l 4 == 1, n := byteAt l 5, reference := wordAt l 6, window := byteAt l 8,
    autoOff := byteAt l 9 == 1 }

def tunerFaults (l : List Byte) : List (Nat × Bool) :=
  [(0, decide (1 < byteAt l 0)), (1, decide (1 < byteAt l 1)), (2, decide (1 < byteAt l 2)),
   (3, outside (byteAt l 3) 1 7), (4, decide (1 < byteAt l 4)),
   (5, byteAt l 5 != 1 && byteAt l 5 != 2 && byteAt l 5 != 4 && byteAt l 5 != 8),
   (6, outside (wordAt l 6) 4200 4600), (8, outside (byteAt l 8) 1 10), (9, decide (1 < byteAt l 9))]

def levelOfWord (w : Nat) : Level :=
  if bitsOf w 15 1 = 1 then .off else .on (bitsOf w 0 11) (bitsOf w 11 1 == 1)

def lampSourceOf (code arg : Nat) : LampSource :=
  match code with
  | 1 => .fixed
  | 2 => .stage (bitsOf arg 4 2) (bitsOf arg 0 4)
  | 3 => .sceneIs arg
  | 4 => .setlistAt arg
  | 5 => .tunerFlat
  | 6 => .tunerIn
  | 7 => .tunerSharp
  | 8 => .beat
  | 9 => .linkOk
  | 10 => .muted
  | _ => .off

def Blink.ofCode : Nat → Blink
  | 0 => .none
  | 1 => .beat
  | _ => .fast

def Blink.code : Blink → Nat
  | .none => 0
  | .beat => 1
  | .fast => 2

/-- The configuration of lamp `n` at entry `k` of a LAMP_CONFIG; an odd lamp has no pair mode (R175). -/
def lampConfigAt (l : List Byte) (k n : Nat) : LampConfig :=
  let o := 2 + 6 * k
  let on := wordAt l (o + 2)
  { source := lampSourceOf (byteAt l o) (byteAt l (o + 1)), onLevel := levelOfWord on,
    offLevel := levelOfWord (wordAt l (o + 4)), blink := Blink.ofCode (bitsOf on 12 2),
    complement := bitsOf on 14 1 == 1 && n % 2 == 0, gap := if n % 2 = 0 then byteAt l (0x26 + k) else 0 }

/-- The checks of lamp `k` of a LAMP_CONFIG, for lamp `n` (R181, R209). Bits 7 and 6 of a STAGE argument, which the layout
does not name, are not checked, by the model's choice (log 56). -/
def lampFaults (l : List Byte) (k n : Nat) : List (Nat × Bool) :=
  let o := 2 + 6 * k
  let a := byteAt l (o + 1)
  [(o, decide (10 < byteAt l o)),
   (o + 1, (byteAt l o == 2 && (outside (bitsOf a 4 2) 1 2 || decide (11 < bitsOf a 0 4))) ||
     (byteAt l o == 3 && decide (63 < a)) || (byteAt l o == 4 && decide (31 < a))),
   (o + 2, bitsOf (wordAt l (o + 2)) 12 2 == 3 || (bitsOf (wordAt l (o + 2)) 14 1 == 1 && n % 2 == 1))]

/-- A LINK_SEND's message. -/
def linkSendMessage (l : List Byte) : Message :=
  ⟨wordAt l 0, byteAt l 2, (List.range (byteAt l 2)).map fun i => l.getD (4 + i) 0⟩

end Sys2Proof.Machine
end

