-- ==== Sys2Proof/Machine/LinkBits.lean ====
section
/-! DEFINITION. A rack-link message as bits (R147-R150, R216): the fields, the check, the stuff bits, and the reading
of a stuffed part. A dominant bit is false, a recessive bit true. -/

namespace Sys2Proof.Machine

/-- The low `n` bits of a number, most significant first (R148). -/
def msbBits (n v : Nat) : List Bool := (List.range n).map fun i => v.testBit (n - 1 - i)

/-- The number that bits spell, most significant first. -/
def numOfBits (l : List Bool) : Nat := l.foldl (fun n x => 2 * n + natOfBool x) 0

/-- One step of the check register (R150). -/
def crcStep (r : BitVec 8) (x : Bool) : BitVec 8 := if r.getLsbD 7 = x then r <<< 1 else (r <<< 1) ^^^ 0x07

/-- The check over header, length and payload bits (R150). -/
def crc8 (l : List Bool) : BitVec 8 := l.foldl crcStep 0

/-- Bits 2 to 20 + 8L of a message: header, length, payload (R216). -/
def checkedBits (sender : Nat) (m : Message) : List Bool :=
  msbBits 10 m.topic ++ msbBits 6 sender ++ msbBits 3 m.length ++ m.payload.flatMap fun x => msbBits 8 x.toNat

/-- The stuffed part before stuffing: start, checked bits, check (R216). -/
def messageBits (sender : Nat) (m : Message) : List Bool :=
  false :: checkedBits sender m ++ msbBits 8 (crc8 (checkedBits sender m)).toNat

/-- Stuffing (R149), `run` bits equal to `last` having been sent. -/
def stuff : Bool → Nat → List Bool → List Bool
  | _, _, [] => []
  | last, run, x :: rest =>
    let run' := if x = last then run + 1 else 1
    if run' = 6 then x :: (!x) :: stuff (!x) 1 rest else x :: stuff x run' rest

/-- Removing stuff bits (R149); none on seven equal bits or a missing stuff bit. -/
def destuff : Bool → Nat → List Bool → Option (List Bool)
  | _, _, [] => some []
  | last, run, x :: rest =>
    let run' := if x = last then run + 1 else 1
    if run' = 6 then
      match rest with
      | [] => none
      | y :: rest => if y = x then none else (destuff y 1 rest).map (x :: ·)
    else (destuff x run' rest).map (x :: ·)

/-- The stuffed part of a message as it stands on the line. -/
def lineBits (sender : Nat) (m : Message) : List Bool := stuff true 0 (messageBits sender m)

/-- A message as its transmitter sends it: the stuffed part, then slot, delimiter and end, all recessive (R148). -/
def sentBits (sender : Nat) (m : Message) : List Bool := lineBits sender m ++ List.replicate 9 true

/-- `n` bytes of payload bits. -/
def payloadOf : Nat → List Bool → List Byte
  | 0, _ => []
  | n + 1, l => BitVec.ofNat 8 (numOfBits (l.take 8)) :: payloadOf n (l.drop 8)

/-- The sender and the message of unstuffed bits, when their form and check are right. -/
def readMessage (l : List Bool) : Option (Nat × Message) :=
  let length := numOfBits ((l.drop 17).take 3)
  let checked := (l.drop 1).take (19 + 8 * length)
  if l.headD true = false ∧ length ≤ 6 ∧ l.length = 28 + 8 * length ∧
      msbBits 8 (crc8 checked).toNat = l.drop (20 + 8 * length) then
    some (numOfBits ((l.drop 11).take 6),
      ⟨numOfBits ((l.drop 1).take 10), length, payloadOf length (l.drop 20)⟩)
  else none

/-- What a receiver reads from a stuffed part (R149, R150). -/
def decodeLine (l : List Bool) : Option (Nat × Message) := (destuff true 0 l).bind readMessage

end Sys2Proof.Machine
end

