-- ==== Sys2Proof/Machine/Lines.lean ====
section
/-! DEFINITION. The line memory manager (chapter 2): the allocation map, zeroing, frees, impulse sets. -/

namespace Sys2Proof.Machine

/-- The RUNNING slot of an owner (R194, R206). -/
def State.runningSlot (s : State) (o : Owner) : Option Nat :=
  (List.range 32).find? fun i => (s.slot i).state == .running && (s.slot i).owner == some o

/-! ### The map and its totals (R32, R33) -/

def Holder.ofBank (bk : BankId) : Holder → Bool
  | .stage bk' _ _ => bk' == bk
  | _ => false

def Holder.isImpulse : Holder → Bool
  | .impulse _ => true
  | _ => false

/-- How many blocks of a map have a holder that passes a test. -/
def countHolders (p : Holder → Bool) (m : List Holder) : Nat := (m.filter p).length

def LineMemory.freeCount (l : LineMemory) : Nat := countHolders (· == .free) l.map
def LineMemory.bankBlocks (l : LineMemory) (bk : BankId) : Nat := countHolders (Holder.ofBank bk) l.map
def LineMemory.impulseBlocks (l : LineMemory) : Nat := countHolders Holder.isImpulse l.map
def LineMemory.usersOf (l : LineMemory) (id : Nat) : Nat := (l.users.filter fun u => u.id == id).length
def LineMemory.impulse (l : LineMemory) (id : Nat) : ImpulseEntry := l.impulses.getD id ImpulseEntry.empty

/-- A holder's block list: its blocks in ascending number, the order in which they were taken (R33). -/
def LineMemory.blockList (l : LineMemory) (h : Holder) : List Nat :=
  (l.map.zipIdx.filter fun x => x.1 == h).map fun x => x.2

/-- Take the `n` lowest-numbered FREE blocks of a map whose first block is `i`: the new map and the blocks taken. -/
def takeFree (h : Holder) : List Holder → Nat → Nat → List Holder × List Nat
  | [], _, _ => ([], [])
  | x :: rest, n, i =>
    if x = .free ∧ 0 < n then
      ((h :: (takeFree h rest (n - 1) (i + 1)).1), i :: (takeFree h rest (n - 1) (i + 1)).2)
    else (x :: (takeFree h rest n (i + 1)).1, (takeFree h rest n (i + 1)).2)

/-- Return to FREE every block whose holder passes a test. -/
def freeWhere (p : Holder → Bool) (m : List Holder) : List Holder := m.map fun h => if p h then .free else h

/-! ### Samples of line memory (R31) -/

/-- The sample at an index (960 * block + offset); an unlisted sample is 0. -/
def sampleGet : List (Nat × Int) → Nat → Int
  | [], _ => 0
  | (k, x) :: rest, a => if k = a then x else if a < k then 0 else sampleGet rest a

def samplePut : List (Nat × Int) → Nat → Int → List (Nat × Int)
  | [], a, x => if x = 0 then [] else [(a, x)]
  | (k, y) :: rest, a, x =>
    if a < k then (if x = 0 then (k, y) :: rest else (a, x) :: (k, y) :: rest)
    else if a = k then (if x = 0 then rest else (k, x) :: rest)
    else (k, y) :: samplePut rest a x

/-- Zero a block. -/
def zeroBlock (block : Nat) (l : List (Nat × Int)) : List (Nat × Int) := l.filter fun x => x.1 / 960 != block

/-- The index of sample `k` of a block list. -/
def lineIndex (blocks : List Nat) (k : Nat) : Nat := 960 * blocks.getD (k / 960) 0 + k % 960

/-! ### Allocate and free (R35-R39) -/

inductive NeedKind where
  | blocks (n : Nat)
  | cab (id taps : Nat)
deriving DecidableEq, Repr

structure Need where
  lane : LaneId
  position : Nat
  kind : NeedKind
deriving DecidableEq, Repr

def StageRecord.need (lane : LaneId) (r : StageRecord) : Option Need :=
  match r.kind with
  | .delay => some ⟨lane, r.position, .blocks (r.kind.blocks (r.params.getD 0 0).toNat)⟩
  | .verb => some ⟨lane, r.position, .blocks (r.kind.blocks 0)⟩
  | .cab => some ⟨lane, r.position, .cab (r.params.getD 0 0).toNat r.taps⟩
  | _ => none

def LaneRecord.needs (lane : LaneId) (r : LaneRecord) : List Need :=
  if r.enabled then r.stages.filterMap (StageRecord.need lane) else []

/-- The needs of a scene, in lane order, then position order (R35). -/
def SceneRecord.needs (r : SceneRecord) : List Need := r.lanes.one.needs .one ++ r.lanes.two.needs .two

def Need.blockCount (n : Need) : Nat :=
  match n.kind with
  | .blocks k => k
  | .cab _ _ => 0

/-- A CAB need whose set is not RESIDENT. -/
def Need.missing (l : LineMemory) (n : Need) : Bool :=
  match n.kind with
  | .blocks _ => false
  | .cab id _ => (l.impulse id).state != .resident

inductive AllocAnswer where
  | ok (cabs : List CabAnswer) (tookNone : Bool)
  | missingImpulse (lane : LaneId) (position id : Nat)
  | noLineMemory (needed free : Nat)
deriving DecidableEq, Repr

/-- The whole-bank free (R38, R39): blocks, CAB users, queued blocks, and an answer not yet taken (log 38). -/
def LineMemory.freeBank (l : LineMemory) (bk : BankId) : LineMemory :=
  { l with map := freeWhere (Holder.ofBank bk) l.map, users := l.users.filter fun u => u.bank != bk,
           zeroQueue := l.zeroQueue.filter fun x => x.2 != bk, answers := l.answers.filter (· != bk) }

/-- The free of a bank's stages whose trail flag is clear, and of its CAB users (R38). -/
def LineMemory.freeUntrailed (l : LineMemory) (bk : BankId) (trail : LaneId → Nat → Bool) : LineMemory :=
  let gone : Holder → Bool := fun h =>
    match h with
    | .stage bk' lane p => bk' == bk && !trail lane p
    | _ => false
  { l with map := freeWhere gone l.map, users := l.users.filter fun u => u.bank != bk,
           zeroQueue := l.zeroQueue.filter fun x => !gone (l.map.getD x.1 .free) }

/-- Serve one need (R36). -/
def LineMemory.serve (bk : BankId) (l : LineMemory) (n : Need) : LineMemory :=
  match n.kind with
  | .blocks k =>
    let t := takeFree (.stage bk n.lane n.position) l.map k 0
    { l with map := t.1, zeroQueue := l.zeroQueue ++ t.2.map fun i => (i, bk) }
  | .cab id _ => { l with users := l.users ++ [⟨bk, n.lane, n.position, id⟩] }

def Need.cabAnswer (l : LineMemory) (n : Need) : Option CabAnswer :=
  match n.kind with
  | .blocks _ => none
  | .cab id taps => some ⟨n.lane, n.position, min taps (l.impulse id).taps, decide ((l.impulse id).taps < taps)⟩

/-- An allocate request (R35, R36). -/
def LineMemory.allocate (l0 : LineMemory) (bk : BankId) (needs : List Need) : LineMemory × AllocAnswer :=
  let l := l0.freeBank bk
  match needs.find? (Need.missing l) with
  | some n => (l, .missingImpulse n.lane n.position (match n.kind with | .cab id _ => id | .blocks _ => 0))
  | none =>
    let total := (needs.map Need.blockCount).sum
    if l.freeCount < total then (l, .noLineMemory total l.freeCount)
    else (needs.foldl (LineMemory.serve bk) l, .ok (needs.filterMap (Need.cabAnswer l)) (total == 0))

/-- Zeroing at a boundary: the first four queued blocks, and a zeroed answer for each bank whose last queued block
goes (R37). -/
def LineMemory.zeroFour (l : LineMemory) : LineMemory :=
  let gone := l.zeroQueue.take 4
  let rest := l.zeroQueue.drop 4
  let done := [BankId.a, BankId.b].filter fun bk => gone.any (fun x => x.2 == bk) && !rest.any (fun x => x.2 == bk)
  { l with zeroQueue := rest, samples := gone.foldl (fun m x => zeroBlock x.1 m) l.samples,
           answers := l.answers ++ done }

def setLines (l : LineMemory) (s : State) : State := { s with lines := l }

/-- The trail flag of a stage of a bank. -/
def Bank.trailOf (k : Bank) (lane : LaneId) (p : Nat) : Bool :=
  match (k.lanes.get lane).stages.getD p none with
  | none => false
  | some x => x.trail

def freeBank (bk : BankId) (s : State) : State := setLines (s.lines.freeBank bk) s

def freeUntrailed (bk : BankId) (s : State) : State :=
  setLines (s.lines.freeUntrailed bk (s.lane.banks.get bk).trailOf) s

/-! ### Impulse sets (R40-R44) -/

def setImpulse (id : Nat) (e : ImpulseEntry) (l : LineMemory) : LineMemory :=
  { l with impulses := putAt 16 id e ImpulseEntry.empty l.impulses }

/-- The old blocks of a set return to FREE and the entry becomes EMPTY. -/
def LineMemory.dropSet (l : LineMemory) (id : Nat) : LineMemory :=
  setImpulse id ImpulseEntry.empty { l with map := freeWhere (· == .impulse id) l.map }

/-- IMPULSE_LOAD as taken in slot `i` (R41). -/
def takeImpulseLoad (i : Nat) (args : List Byte) (s : State) : State :=
  let id := byteAt args 0
  let taps := wordAt args 2
  if 15 < id ∨ outside taps 64 1920 = true then completeWith i .badArgument [] s
  else if 0 < s.lines.usersOf id then completeWith i .inUse [word (s.lines.usersOf id)] s
  else
    let l := s.lines.dropSet id
    let need := (taps + 959) / 960
    if l.freeCount < need then completeWith i .noLineMemory [word need, word l.freeCount] (setLines l s)
    else
      let t := takeFree (.impulse id) l.map need 0
      setLines (setImpulse id ⟨.loading, taps, 0⟩ { l with map := t.1 }) s

/-- IMPULSE_DROP as taken in slot `i` (R44). -/
def takeImpulseDrop (i : Nat) (args : List Byte) (s : State) : State :=
  let id := byteAt args 0
  if 15 < id then completeWith i .badArgument [] s
  else if 0 < s.lines.usersOf id then completeWith i .inUse [word (s.lines.usersOf id)] s
  else
    let freed := (s.lines.blockList (.impulse id)).length
    completeOk i [word freed] (setLines (s.lines.dropSet id) s)

/-- The set that is LOADING, if any: one load runs at a time (R34). -/
def LineMemory.loadingSet (l : LineMemory) : Option Nat :=
  (List.range 16).find? fun id => (l.impulse id).state == .loading

/-- A tap of the staging area: the upper 24 bits of a signed 32-bit fraction (R215). -/
def stagedTap (m : Memory) (k : Nat) : Int :=
  let a := 0x2000 + 4 * k
  ((m.read (a + 3)) ++ (m.read (a + 2)) ++ (m.read (a + 1)) : BitVec 24).toInt

/-- One chunk copied (R42): taps 480c to 480c + 479, or to the last tap. -/
def LineMemory.copyChunk (l : LineMemory) (m : Memory) (id : Nat) : LineMemory :=
  let e := l.impulse id
  let blocks := l.blockList (.impulse id)
  let first := 480 * e.chunks
  let ks := (List.range (min 480 (e.taps - first))).map fun i => first + i
  setImpulse id { e with chunks := e.chunks + 1 }
    { l with samples := ks.foldl (fun x k => samplePut x (lineIndex blocks k) (stagedTap m k)) l.samples }

/-- The end of an impulse chunk burst (R42, R43), with memory as the burst copied it. -/
def impulseChunkEnd (m : Memory) (id : Nat) (s : State) : State :=
  if (s.lines.impulse id).state = .loading then
    let l := s.lines.copyChunk m id
    let e := l.impulse id
    if 480 * e.chunks < e.taps then setLines l s
    else
      let s := setLines (setImpulse id { e with state := .resident } l) s
      match s.runningSlot .lineMemory with
      | none => s
      | some i => completeOk i [word id, word e.taps, word ((e.taps + 959) / 960)] s
  else s

/-- At each boundary after its start a LOADING set asks for its chunk's burst (R42). -/
def askImpulseChunk (s : State) : State :=
  match s.lines.loadingSet with
  | none => s
  | some id => askBurst (.impulseChunk id) s

/-- The manager after a soft reset (R47). -/
def LineMemory.softReset (l : LineMemory) : LineMemory :=
  let kept := fun id => (l.impulse id).state == .resident
  { map := freeWhere (fun h => match h with | .impulse id => !kept id | _ => true) l.map, users := [],
    zeroQueue := [], answers := [],
    impulses := l.impulses.map fun e => if e.state = .resident then e else ImpulseEntry.empty, samples := l.samples }

end Sys2Proof.Machine
end

