-- ==== Sys2Proof/Machine/Audio.lean ====
section
/-! DEFINITION. What a stage, a lane and a bank do to the 48 samples of a frame (R4, R6, R7, R11-R19, R28). A signal
is a list of 48 whole sample units; what the rules give exactly is computed exactly, and what they leave open is a
constant of Config (logs 13-17). -/

namespace Sys2Proof.Machine

/-! ### Numbers -/

/-- An exact value as a whole sample unit: itself when it is whole (log 13). -/
def rnd (q : Rat) : Int := if q.den = 1 then q.num else Config.roundSample q

/-- Saturation to full scale (R28; log 17). -/
def saturate (x : Int) : Int := clampInt (-8388608) 8388607 x

/-- The natural logarithm of 10, to 30 decimal places. -/
def ln10 : Rat := 2302585092994045684017991454684 / 10 ^ 30

/-- The number pi, to 30 decimal places. -/
def piRat : Rat := 3141592653589793238462643383280 / 10 ^ 30

/-- `n` terms of the exponential series beyond term `k`, relative to it. -/
def expSeries (x : Rat) : Nat → Nat → Rat
  | _, 0 => 1
  | k, n + 1 => 1 + x / (k + 1 : Nat) * expSeries x (k + 1) n

/-- `n` terms of the cosine series beyond term `k`, relative to it, for the square of the angle. -/
def cosSeries (x : Rat) : Nat → Nat → Rat
  | _, 0 => 1
  | k, n + 1 => 1 - x / ((2 * k + 1) * (2 * k + 2) : Nat) * cosSeries x (k + 1) n

/-- A whole power of 10. -/
def tenTo (n : Int) : Rat := if 0 ≤ n then 10 ^ n.toNat else 1 / 10 ^ (-n).toNat

/-- The linear gain of tenths of a dB, 10 to the power q / 200: exact at 0 dB and at every whole power of 10, and
elsewhere a rational number within 10 ^ -20 of the gain, in proportion to it (log 15). -/
def gainOf (q : Rat) : Rat :=
  let n := (q / 200).floor
  let r := q / 200 - n
  if r = 0 then tenTo n else tenTo n * expSeries (r * ln10) 0 30

/-- The left gain of a pan (R7): the cosine of an angle that runs from 0 at pan -100 to a right angle at pan 100. It is
exact at both ends, and within 10 ^ -20 elsewhere (log 15). -/
def panLeftOf (p : Int) : Rat :=
  if p = -100 then 1 else if p = 100 then 0
  else
    let a := piRat * (p + 100) / 400
    cosSeries (a * a) 0 14

/-- The right gain of a pan (R7): the sine of that angle, which is the cosine of its complement. -/
def panRightOf (p : Int) : Rat := panLeftOf (-p)

/-- The value on a straight line at sample `i` of a frame, from `a` at its start to `b` at its end. -/
def across (x y : Rat) (i : Nat) : Rat := x + (y - x) * (i + 1) / 48

def mapSamples (f : Nat → Int → Int) (xs : List Int) : List Int := xs.zipIdx.map fun x => f x.2 x.1

def peakOf (xs : List Int) : Nat := xs.foldl (fun m x => max m x.natAbs) 0

/-- The level of a peak is at or above a threshold; silence is below every threshold (log 15). -/
def peakReaches (peak : Nat) (threshold : Int) : Bool :=
  decide (0 < peak) && decide ((threshold : Rat) ≤ Config.levelOf peak)

/-! ### Parameters (R9) -/

def Param.fixed (v : Int) : Param := ⟨v, v, 0, []⟩

/-- The value a parameter stands at. -/
def Param.now (p : Param) : Rat := if p.left = 0 then p.target else p.start

/-- The value at sample `i` of the frame that begins. -/
def Param.at (p : Param) (i : Nat) : Rat :=
  if p.left = 0 then p.target else p.start + (p.target - p.start) * (i + 1) / (48 * p.left)

/-- A share of the output given to a setting, beside the shares of others. -/
def addShare (v : Int) (w : Rat) : List (Int × Rat) → List (Int × Rat)
  | [] => [(v, w)]
  | x :: rest => if x.1 = v then (v, x.2 + w) :: rest else x :: addShare v w rest

/-- The settings that a switched parameter runs side by side at sample `i`, each with its share of the output: what it
crossfades from, and its target (R9). R9 gives the crossfade's length and its start and not its shape; straight lines whose
shares add to 1 are the model's choice (log 60). -/
def Param.mixAt (p : Param) (i : Nat) : List (Int × Rat) :=
  if p.left = 0 then [(p.target, 1)]
  else
    let a : Rat := (i + 1) / (48 * p.left)
    addShare p.target a (p.mix.map fun x => (x.1, x.2 * (1 - a)))

/-- The mix that a switched parameter stands at. -/
def Param.mixNow (p : Param) : List (Int × Rat) := if p.left = 0 then [(p.target, 1)] else p.mix

/-- One frame of a parameter's move. -/
def Param.advance (p : Param) : Param :=
  if p.left ≤ 1 then Param.fixed p.target
  else ⟨p.start + (p.target - p.start) / p.left, p.target, p.left - 1, if p.mix = [] then [] else p.mixAt 47⟩

/-- A new target by the parameter's class: a glide of 10 ms from the value then current, a crossfade of 5 ms from the mix
then current, and at once otherwise. -/
def Param.retarget (c : ParamClass) (v : Int) (p : Param) : Param :=
  match c with
  | .glided => ⟨p.now, v, 10, []⟩
  | .switched => ⟨p.now, v, 5, p.mixNow⟩
  | .stepped => Param.fixed v
  | .tap => Param.fixed v
  | .loadTime => Param.fixed v

def Stage.param (x : Stage) (i : Nat) : Param := x.params.getD i (Param.fixed 0)
def Stage.target (x : Stage) (i : Nat) : Int := (x.param i).target
def Stage.value (x : Stage) (i j : Nat) : Rat := (x.param i).at j

/-! ### Read taps (R16, R18) -/

/-- Where the tap will stand when all that is under way has ended. -/
def Tap.destination (t : Tap) : Nat :=
  match t.pending, t.fade with
  | some p, _ => p
  | none, some f => f.1
  | none, none => t.time

/-- A running stage's tap takes a changed time in use: a crossfade, or the pending time of a running one. -/
def Tap.follow (t : Tap) : Tap :=
  if t.inUse = t.destination then t
  else match t.fade with
    | none => { t with fade := some (t.inUse, 0) }
    | some _ => { t with pending := some t.inUse }

/-- One frame of a tap crossfade; it is 20 frames long and its end is an event of its own. -/
def Tap.advance (t : Tap) : Tap := { t with fade := t.fade.map fun f => (f.1, min 20 (f.2 + 1)) }

/-- The end of a tap crossfade (R16). -/
def Tap.endFade (t : Tap) : Tap :=
  match t.fade with
  | none => t
  | some f =>
    { t with time := f.1, pending := none,
             fade := match t.pending with
               | none => none
               | some p => if p = f.1 then none else some (p, 0) }

def Tap.fadeDone (t : Tap) : Bool :=
  match t.fade with
  | none => false
  | some f => f.2 == 20

/-! ### Synced rates and times (R15, R17) -/

/-- The division of a sync value, in beats. -/
def divisionOf : Nat → Rat
  | 1 => 4
  | 2 => 2
  | 3 => 3 / 2
  | 4 => 1
  | 5 => 3 / 4
  | 6 => 1 / 2
  | 7 => 1 / 3
  | _ => 1 / 4

/-- The synced rate of a MOD, in hundredths of a Hz. -/
def syncedRate (sync tempo : Nat) : Nat :=
  match sync with
  | 1 => roundDiv tempo 24
  | 2 => roundDiv tempo 12
  | 3 => roundDiv tempo 9
  | 4 => roundDiv tempo 6
  | 5 => roundDiv (2 * tempo) 9
  | 6 => roundDiv tempo 3
  | 7 => roundDiv tempo 2
  | _ => roundDiv (2 * tempo) 3

/-- The synced time of a DELAY, in ms, before it is held to the max length. -/
def syncedTime (sync tempo : Nat) : Nat :=
  roundDiv (match sync with
    | 1 => 2400000
    | 2 => 1200000
    | 3 => 900000
    | 4 => 600000
    | 5 => 450000
    | 6 => 300000
    | 7 => 200000
    | _ => 150000) tempo

/-- What follows from a stage's targets and the noted tempo: a MOD's rate, a DELAY's time in use and TEMPO_CLAMPED, a
VERB's predelay. -/
def Stage.rework (tempo : Nat) (x : Stage) : Stage :=
  let sync := (x.target 2).toNat
  match x.kind with
  | .mod => { x with rate := if sync = 0 then (x.target 1).toNat else syncedRate sync tempo }
  | .delay =>
    let maxLen := (x.target 0).toNat
    if sync = 0 then { x with tap := { x.tap with inUse := (x.target 1).toNat }, tempoClamped := false }
    else
      let t := syncedTime sync tempo
      { x with tap := { x.tap with inUse := min t maxLen }, tempoClamped := decide (maxLen < t) }
  | .verb => { x with tap := { x.tap with inUse := (x.target 1).toNat } }
  | _ => x

/-- A beat at a MOD stage (R15). -/
def Stage.beat (x : Stage) : Stage :=
  if x.kind = .mod then
    let n := (x.beatCount + 1) % 12
    let sync := (x.target 2).toNat
    let q : Rat := n / divisionOf sync
    { x with beatCount := n, phase := if sync = 0 then x.phase else q - q.floor }
  else x

/-! ### Gates and compressors at a boundary (R12, R13) -/

/-- How far a RELEASING gate falls in a frame, in tenths of a dB (R12). -/
def Stage.fallRate (x : Stage) : Rat := (0 - x.target 3) / x.target 2

/-- The gate at a boundary: its state, hold timer and the gain its frame ends at. DESIGN CHOICE (log 78): a RELEASING gate
that a raised floor finds below it is CLOSED at that boundary, and its frame ends at the new floor. -/
def Stage.gateStep (x : Stage) : Stage :=
  let floor : Rat := x.target 3
  let reached := peakReaches x.peak (x.target 0)
  let opening := { x with gate := .opened, gateGain := 0 }
  let falling :=
    let g := max floor (x.gateGain - x.fallRate)
    { x with gate := if g = floor then .closed else .releasing, gateGain := g }
  match x.gate with
  | .closed => if reached then opening else { x with gateGain := floor }
  | .opened => if reached then opening else { x with gate := .holding, gateHold := (x.target 1).toNat, gateGain := 0 }
  | .holding =>
    if reached then opening
    else if x.gateHold ≤ 1 then { falling with gateHold := 0 }
    else { x with gateHold := x.gateHold - 1, gateGain := 0 }
  | .releasing => if reached then opening else falling

/-- The hold timer of this gate reaches 0 at the boundary that now stands (R12). -/
def Stage.holdDue (x : Stage) : Bool :=
  x.kind == .gate && x.gate == .holding && !peakReaches x.peak (x.target 0) && decide (x.gateHold ≤ 1)

/-- The end of a gate's hold as an event of its own: the fall begins in the frame that begins. -/
def Stage.holdEnd (x : Stage) : Stage := { x with gate := .releasing, gateHold := 0, gateGain := 0 }

/-- The linear gain of a gate that stands at a number of tenths of a dB: -96.0 dB is full silence. -/
def gateLinear (g : Rat) : Rat := if g ≤ -960 then 0 else gainOf g

/-- The gate's gain falls in this frame, which `gateStep` has begun. -/
def Stage.fallsFrom (x : Stage) (before : GateState) : Bool :=
  (before == .holding || before == .releasing) && (x.gate == .releasing || x.gate == .closed)

/-- The linear gain of a gate at sample `i` of a frame from one gain to another (R12): it stands, it falls by its rate
and stops at the gain the frame ends at, or it moves in a way whose shape the rule does not give (log 15). DESIGN CHOICE
(log 78): the last holds of a RELEASING gate below a raised floor, whose gain comes up to the floor across the frame, and of
a gate whose floor has become 0. -/
def gateGainAt (falls : Bool) (rate g0 g1 : Rat) (i : Nat) : Rat :=
  if g0 = g1 then gateLinear g1
  else if falls = true ∧ g1 < g0 then gateLinear (max g1 (g0 - rate * (i + 1) / 48))
  else if i = 47 then gateLinear g1
  else Config.gateMove g0 g1 i

/-- The compressor at a boundary: the reduction in effect and the gain its frame ends at. -/
def Stage.compStep (x : Stage) : Stage :=
  let ratio : Rat := x.target 1
  let wanted : Rat :=
    if x.peak = 0 then 0
    else if (x.target 0 : Rat) < Config.levelOf x.peak then (Config.levelOf x.peak - x.target 0) * (ratio - 10) / ratio
    else 0
  let r := x.reduction + (wanted - x.reduction) / (if x.reduction < wanted then x.target 2 else x.target 3)
  { x with reduction := r, compGain := (x.param 4).at 47 - r }

/-! ### Stages -/

/-- What stages share while they run: the samples of line memory, and the number of free samples used (log 36). -/
structure AudioCtx where
  samples : List (Nat × Int)
  fresh : Nat

def freeAt (c : AudioCtx) (i : Nat) : Rat := Config.freeSample (c.fresh + i)

/-- The parameter stands at a value throughout the frame. -/
def Param.standsAt (p : Param) (v : Int) : Bool := p.now == v && p.target == v

/-- A DRIVE with one of its curves at sample `i` (R11): the pre-gain of drive × 0.06 dB, the curve, the tilt, which passes
the sample on where tone stands at 500 (log 14). -/
def driveWith (x : Stage) (c : AudioCtx) (i : Nat) (s : Int) (curve : Nat) : Rat :=
  let clipped := Config.clip curve (s * gainOf (x.value 0 i * 3 / 5))
  if (x.param 2).standsAt 500 then clipped else Config.tilt (x.value 2 i) clipped (freeAt c (8 * i + curve))

/-- A DRIVE at sample `i`: the curves that run side by side, by their shares (R9), then level (R11). -/
def driveAt (x : Stage) (c : AudioCtx) (i : Nat) (s : Int) : Rat :=
  ((x.param 1).mixAt i).foldl (fun sum y => sum + y.2 * driveWith x c i s y.1.toNat) 0 * gainOf (x.value 3 i)

/-- The frequencies of an EQ's bands, in Hz (R11). -/
def eqBands : List Nat := [100, 400, 1000, 2500, 6000]

/-- Band `b` of an EQ at sample `i`: a band that stands at 0 passes the sample on (R11; log 14). -/
def eqBand (x : Stage) (c : AudioCtx) (i : Nat) (y : Rat) (b : Nat) : Rat :=
  if (x.param b).standsAt 0 then y
  else Config.peaking (eqBands.getD b 0) (x.value b i) y (freeAt c (5 * i + b))

/-- An EQ at sample `i`: its five bands one after the other, then level (R11). -/
def eqAt (x : Stage) (c : AudioCtx) (i : Nat) (s : Int) : Rat :=
  (List.range 5).foldl (eqBand x c i) s * gainOf (x.value 5 i)

/-- An AMP at sample `i` (R11; log 14). -/
def ampAt (x : Stage) (c : AudioCtx) (i : Nat) (s : Int) : Rat :=
  Config.amp ((List.range 8).map fun k => x.value k i) s (freeAt c i)

/-- Where a MOD's LFO stands at sample `i` of a frame, and with `i` 47 at its end: it moves rate / 100 cycles in a second
(R15). -/
def Stage.phaseAt (x : Stage) (i : Nat) : Rat :=
  let q := x.phase + (x.rate : Rat) / 100000 * (i + 1) / 48
  q - q.floor

/-- The bypass ramp position at sample `i` of a frame (R19). -/
def Stage.rampAt (x : Stage) (i : Nat) : Nat := if x.bypass then min 240 (x.ramp + (i + 1)) else x.ramp - (i + 1)

/-- The processed output mixed with the input by a mix of per-mille. -/
def mixed (mix dry wet : Rat) : Rat := dry * (1000 - mix) / 1000 + wet * mix / 1000

/-- The convolution of a CAB at one sample: the newest input first (R14). -/
def convolve (taps : List Int) (recent : List Int) : Rat :=
  ((List.zipWith (fun t x => t * x) taps recent).foldl (· + ·) 0 : Int) / 8388608

/-- A CAB over a frame: its processed samples and its history, newest first. -/
def cabRun (taps : List Int) (x : Stage) : Nat → List Int → List Int → List Int × List Int
  | _, history, [] => ([], history)
  | i, history, s :: rest =>
    let recent := s :: history
    let wet := convolve taps recent * gainOf (x.value 2 i)
    let y := rnd (mixed (x.value 3 i) s wet)
    let r := cabRun taps x (i + 1) (recent.take 1919) rest
    (y :: r.1, r.2)

/-- The tap's output at sample `i`: one tap, or the crossfade of two (R16). R16 gives the crossfade's length and not the
shape of its two gains; straight lines that add to 1 are the model's choice (log 60). -/
def tapRead (read : Nat → Int) (t : Tap) (i : Nat) : Rat :=
  match t.fade with
  | none => read (48 * t.time)
  | some f =>
    let m : Rat := (48 * f.2 + i + 1) / 960
    read (48 * t.time) * (1 - m) + read (48 * f.1) * m

/-- A DELAY over a frame (R16, R19): the processed samples, with the dry part of a trail stage's bypass in them; the
line is read before it is written (log 16). -/
def delayRun (blocks : List Nat) (x : Stage) : Nat → Nat → List (Nat × Int) → List Int → List Int × Nat × List (Nat × Int)
  | _, wp, m, [] => ([], wp, m)
  | i, wp, m, s :: rest =>
    let len := 960 * blocks.length
    let read := fun back => sampleGet m (lineIndex blocks ((wp + len - back % (len + 1)) % len))
    let wet := tapRead read x.tap i
    let cut : Rat := if x.trail then 1 - x.rampAt i / 240 else 1
    let m := samplePut m (lineIndex blocks wp) (rnd (s * cut + wet * x.value 3 i / 1000))
    let mix := x.value 4 i
    let y := rnd (s * ((1000 - mix) / 1000 * cut + (1 - cut)) + wet * mix / 1000)
    let r := delayRun blocks x (i + 1) ((wp + 1) % len) m rest
    (y :: r.1, r.2)

/-- The samples of a VERB's predelay line, the first 10 of its 40 blocks, and of its network's line, the rest: 200 ms and
600 ms (log 70). -/
def predelayLength : Nat := 9600
def networkLength : Nat := 28800

/-- How far the network's oldest sample has fallen, by 60 dB in each decay, since it was written 600 ms ago (R18). -/
def decayGain (decay : Rat) : Rat := gainOf (-(600 * 600) / decay)

/-- A VERB over a frame (R18, R19; logs 14, 70): the input, cut by the bypass of a trail stage, goes into the predelay line;
the tap reads it a predelay later and feeds the network, whose tail is mixed with the dry part. -/
def verbRun (blocks : List Nat) (x : Stage) (c : AudioCtx) :
    Nat → Nat → List (Nat × Int) → List Int → List Int × Nat × List (Nat × Int)
  | _, wp, m, [] => ([], wp, m)
  | i, wp, m, s :: rest =>
    let cut : Rat := if x.trail then 1 - x.rampAt i / 240 else 1
    let fresh := rnd (s * cut)
    let here := wp % predelayLength
    let read := fun back => if back = 0 then fresh
      else sampleGet m (lineIndex blocks ((here + predelayLength - back % (predelayLength + 1)) % predelayLength))
    let fed := tapRead read x.tap i
    let kept := lineIndex blocks (predelayLength + wp)
    let oldest : Rat := sampleGet m kept * decayGain (x.value 0 i)
    let tail := Config.tail (x.value 2 i) fed oldest (freeAt c (2 * i))
    let m := samplePut (samplePut m (lineIndex blocks here) fresh) kept
      (rnd (Config.network (x.value 2 i) fed oldest (freeAt c (2 * i + 1))))
    let mix := x.value 3 i
    let y := rnd (s * ((1000 - mix) / 1000 * cut + (1 - cut)) + tail * mix / 1000)
    let r := verbRun blocks x c (i + 1) ((wp + 1) % networkLength) m rest
    (y :: r.1, r.2)

/-- One stage over a frame: the stage, its output and the shared context. -/
def Stage.run (l : LineMemory) (blocks : List Nat) (x0 : Stage) (input : List Int) (c : AudioCtx) :
    Stage × List Int × AudioCtx :=
  let used := fun (n : Nat) => { c with fresh := c.fresh + n }
  let r : Stage × List Int × AudioCtx :=
    match x0.kind with
    | .trim =>
      (x0, mapSamples (fun i s => rnd (s * gainOf (x0.value 0 i) * (1 - 2 * x0.value 1 i))) input, c)
    | .gate =>
      let x := x0.gateStep
      ({ x with peak := peakOf input },
        mapSamples (fun i s => rnd (s * gateGainAt (x.fallsFrom x0.gate) x.fallRate x0.gateGain x.gateGain i)) input, c)
    | .comp =>
      let x := x0.compStep
      ({ x with peak := peakOf input },
        mapSamples (fun i s => rnd (s * gainOf (across x0.compGain x.compGain i))) input, c)
    | .drive =>
      (x0, mapSamples (fun i s => rnd (driveAt x0 c i s)) input, used 384)
    | .amp => (x0, mapSamples (fun i s => rnd (ampAt x0 c i s)) input, used 48)
    | .cab =>
      let id := (x0.target 0).toNat
      let set := l.blockList (.impulse id)
      let taps := (List.range x0.tapsInUse).map fun k => sampleGet c.samples (lineIndex set k)
      let r := cabRun taps x0 0 x0.history input
      ({ x0 with history := r.2 }, r.1, c)
    | .eq => (x0, mapSamples (fun i s => rnd (eqAt x0 c i s)) input, used 240)
    | .mod =>
      ({ x0 with phase := x0.phaseAt 47 },
        mapSamples (fun i s => rnd (mixed (x0.value 4 i) s
          (Config.modulated (x0.target 0) (x0.value 3 i) (x0.phaseAt i) s (freeAt c i)))) input, used 48)
    | .delay =>
      let r := delayRun blocks x0 0 x0.writePos c.samples input
      ({ x0 with writePos := r.2.1, tap := x0.tap.advance }, r.1, { c with samples := r.2.2 })
    | .verb =>
      let r := verbRun blocks x0 c 0 x0.writePos c.samples input
      ({ x0 with writePos := r.2.1, tap := x0.tap.advance }, r.1, { c with samples := r.2.2, fresh := c.fresh + 96 })
  let out :=
    if x0.trail then r.2.1
    else (input.zip r.2.1).zipIdx.map fun y =>
      let ramp : Rat := x0.rampAt y.2
      rnd (y.1.2 * (1 - ramp / 240) + y.1.1 * ramp / 240)
  ({ r.1 with params := r.1.params.map Param.advance, ramp := x0.rampAt 47 }, out, r.2.2)

/-! ### Lanes and banks -/

/-- What a frame gives a bank: the samples of both inputs, the run mode and fade point read at the boundary, and the
crossfade gain at its start and end. -/
structure FrameInput where
  inA : List Int
  inB : List Int
  mode : RunMode
  fadePoint : FadePoint
  gain0 : Nat
  gain1 : Nat

def FrameInput.gainAt (f : FrameInput) (i : Nat) : Rat := across f.gain0 f.gain1 i / 1000

def silence : List Int := List.replicate 48 0

/-- A stage runs in this mode (R4). -/
def Stage.runsIn (x : Stage) (m : RunMode) : Bool :=
  match m with
  | .held => false
  | .full => true
  | .trails => x.trail

def Lane.hasTrail (k : Lane) : Bool := k.stages.any fun x => match x with | some x => x.trail | none => false
def Lane.runsAny (k : Lane) (m : RunMode) : Bool :=
  k.stages.any fun x => match x with | some x => x.runsIn m | none => false

/-- The stages of a lane from position `p` on. `cut` says that the crossfade gain is still to be applied at the first
trail stage's input (R4). -/
def runStages (l : LineMemory) (bk : BankId) (ln : LaneId) (f : FrameInput) :
    List (Option Stage) → Nat → Bool → List Int → AudioCtx → List (Option Stage) × List Int × AudioCtx
  | [], _, _, sig, c => ([], sig, c)
  | none :: rest, p, cut, sig, c =>
    let r := runStages l bk ln f rest (p + 1) cut sig c
    (none :: r.1, r.2)
  | some x :: rest, p, cut, sig, c =>
    if x.runsIn f.mode then
      let atTrail := cut && x.trail
      let input := if atTrail then mapSamples (fun i s => rnd (s * f.gainAt i)) sig else sig
      let y := x.run l (l.blockList (.stage bk ln p)) input c
      let r := runStages l bk ln f rest (p + 1) (cut && !x.trail) y.2.1 y.2.2
      (some y.1 :: r.1, r.2)
    else
      let r := runStages l bk ln f rest (p + 1) cut sig c
      (some x :: r.1, r.2)

/-- A lane's input by its source and the run mode (R4, R6; log 41): in TRAILS silence, but for a LANE1 source, which gives
what lane 1's last running stage puts out. -/
def laneInput (f : FrameInput) (source : LaneSource) (lane1 : List Int) : List Int :=
  match f.mode with
  | .full =>
    match source with
    | .inA => f.inA
    | .inB => f.inB
    | .lane1 => lane1
  | .trails =>
    match source with
    | .lane1 => lane1
    | _ => silence
  | .held => silence

/-- What a lane adds to the four outputs at sample `i`, before the crossfade gain (R7). -/
def Lane.place (k : Lane) (s : Int) : Rat × Rat × Rat × Rat :=
  match k.level with
  | none => (0, 0, 0, 0)
  | some v =>
    let x : Rat := s * gainOf v
    let l := x * panLeftOf k.pan
    let r := x * panRightOf k.pan
    match k.assign with
    | .main => (l, r, 0, 0)
    | .aux => (0, 0, l, r)
    | .both => (l, r, l, r)

abbrev Four := Rat × Rat × Rat × Rat

def Four.add (x y : Four) : Four := (x.1 + y.1, x.2.1 + y.2.1, x.2.2.1 + y.2.2.1, x.2.2.2 + y.2.2.2)
def Four.scale (g : Rat) (x : Four) : Four := (g * x.1, g * x.2.1, g * x.2.2.1, g * x.2.2.2)

/-- A lane's contribution over a frame, with the crossfade gain where its fade point puts it (R4). -/
def Lane.contribution (k : Lane) (f : FrameInput) (sig : List Int) : List Four :=
  let atOut := f.fadePoint == .laneOut || !k.hasTrail
  sig.zipIdx.map fun y => if atOut then Four.scale (f.gainAt y.2) (k.place y.1) else k.place y.1

def zeroFrame : List Four := List.replicate 48 (0, 0, 0, 0)

/-- One enabled lane over a frame: the lane, its last output and its contribution. -/
def Lane.run (l : LineMemory) (bk : BankId) (ln : LaneId) (f : FrameInput) (k : Lane) (input : List Int) (c : AudioCtx) :
    Lane × List Int × List Four × AudioCtx :=
  if k.enabled then
    let r := runStages l bk ln f k.stages 0 (f.fadePoint == .trailInput) input c
    ({ k with stages := r.1 }, r.2.1, k.contribution f r.2.1, r.2.2)
  else (k, input, zeroFrame, c)

/-- A bank over a frame (R4, R6): its lanes and the sum of their contributions. -/
def Bank.run (l : LineMemory) (bk : BankId) (f : FrameInput) (k : Bank) (c : AudioCtx) : Bank × List Four × AudioCtx :=
  match f.mode with
  | .held => (k, zeroFrame, c)
  | _ =>
    let in1 := laneInput f .inA []
    let r1 := k.lanes.one.run l bk .one f in1 c
    let out1 := if k.lanes.one.enabled && k.lanes.one.runsAny f.mode then r1.2.1 else in1
    let r2 := k.lanes.two.run l bk .two f (laneInput f k.lanes.two.source out1) r1.2.2.2
    ({ k with lanes := ⟨r1.1, r2.1⟩ }, List.zipWith Four.add r1.2.2.1 r2.2.2.1, r2.2.2.2)

/-! ### The output stage (R26, R28) -/

/-- The mute ramp count at sample `i` of a frame. -/
def rampCountAt (r : MuteRamp) (count i : Nat) : Nat :=
  match r with
  | .falling => count - (i + 1)
  | .rising => min 192 (count + (i + 1))
  | .silent => count
  | .unmuted => count

/-- One output sample: the banks' sum by the mute gain, saturated. -/
def outSample (count : Nat) (x : Four) : OutSample :=
  let g : Rat := (count : Rat) / 192
  let f := fun (q : Rat) => saturate (rnd (g * q))
  ⟨f x.1, f x.2.1, f x.2.2.1, f x.2.2.2⟩

/-- The 48 output samples: zero when no bank is LIVE. -/
def outputFrame (live : Bool) (r : MuteRamp) (count : Nat) (sum : List Four) : List OutSample :=
  if live then sum.zipIdx.map fun y => outSample (rampCountAt r count y.2) y.1
  else List.replicate 48 OutSample.zero

end Sys2Proof.Machine
end

