-- ==== Sys2Proof/Machine/Answers.lean ====
section
/-! DEFINITION. The answer to a firing entry and its BINDING_FIRED report (R137, R142, R211). -/

namespace Sys2Proof.Machine

inductive AnswerKind where
  | done
  | taken
  | failed (code : ResultCode)
deriving DecidableEq, Repr

/-- An owner's answer: the two marks, and what it says for the report's detail: the scene, lane or mute set, the
position, the target or bypass flag, and for TUNER_TOGGLE the tuner's on setting after it (R140), which the report of R211
has no place for. -/
structure Answer where
  kind : AnswerKind
  noticeDropped : Bool
  listFull : Bool
  first : Nat
  position : Nat
  value : Int
  on : Option Bool
deriving DecidableEq, Repr

def Answer.done (first position : Nat) (value : Int) : Answer := ⟨.done, false, false, first, position, value, none⟩
def Answer.taken (first : Nat) : Answer := ⟨.taken, false, false, first, 0, 0, none⟩
def Answer.failed (code : ResultCode) (first position : Nat) (value : Int) : Answer :=
  ⟨.failed code, false, false, first, position, value, none⟩

def AnswerKind.code : AnswerKind → Nat
  | .done => 0
  | .taken => 1
  | .failed _ => 2

/-- The code byte of a BINDING_FIRED report (R142, R211). DESIGN CHOICE (log 69): 0 for DONE and TAKEN, which have no code. -/
def AnswerKind.resultCode : AnswerKind → Nat
  | .failed c => c.code
  | _ => 0

def AnswerKind.isFailed : AnswerKind → Bool
  | .failed _ => true
  | _ => false

/-- The event kind codes of R211. -/
def ControlEvent.code : ControlEvent → Nat
  | .press _ => 1
  | .release _ => 2
  | .hold _ => 3
  | .rept _ => 4
  | .chord _ _ => 5
  | .pedal _ _ => 6
  | .link _ _ _ => 7

/-- The first four words of a BINDING_FIRED detail: the event (R211). Where the event has no such field (line b without a
CHORD, length and value of a line's event, the first payload byte of an empty message) the model shows 0 (log 69). -/
def ControlEvent.words (e : ControlEvent) : List Word :=
  match e with
  | .press n => [bytePair 1 n, 0, 0, 0]
  | .release n => [bytePair 2 n, 0, 0, 0]
  | .hold n => [bytePair 3 n, 0, 0, 0]
  | .rept n => [bytePair 4 n, 0, 0, 0]
  | .chord x y => [bytePair 5 x, bytePair y 0, 0, 0]
  | .pedal p v => [bytePair 6 p, 0, word v, 0]
  | .link _ sender m =>
    [bytePair 7 sender, bytePair 0 m.length, word m.topic, bytePair ((m.payload.getD 0 0).toNat) 0]

/-- The BINDING_FIRED report (R142, R211). The code of an answer that is not FAILED, and bytes 12 to 15
where the action has nothing to put there, show 0 (log 69). -/
def firedReport (f : Firing) (x : Answer) : Report :=
  { kind := 4,
    flags := natOfBool x.kind.isFailed + 2 * natOfBool f.follow + 4 * natOfBool x.noticeDropped + 8 * natOfBool x.listFull,
    source := sourceEntry f.ref, time := f.time,
    detail := f.event.words ++
      [bytePair f.action.code x.kind.code, bytePair x.kind.resultCode 0, bytePair x.first x.position, wordOfInt x.value] }

/-- An answer reaches the binding unit: it is reported when the entry asks for it, when it is FAILED, and always for
REPORT_ONLY (R142). -/
def answerFiring (f : Firing) (x : Answer) (s : State) : State :=
  if f.report || x.kind.isFailed || f.action == .reportOnly then appendReport (firedReport f x) s else s

end Sys2Proof.Machine
end

