-- ==== Sys2Proof/Machine/LaneEngine.lean ====
section
/-! DEFINITION. The lane engine (chapter 1): fill, prepare and release, stage orders and requests, the mute set and its
ramp, and the frame work. -/

namespace Sys2Proof.Machine

def setLane (e : LaneEngine) (s : State) : State := { s with lane := e }
def setBanks (p : PerBank Bank) (s : State) : State := { s with lane := { s.lane with banks := p } }

/-- The LIVE bank (R50). -/
def State.liveBank (s : State) : Option BankId :=
  if s.scene.banks.a.state = .live then some .a else if s.scene.banks.b.state = .live then some .b else none

def Lane.stageAt (k : Lane) (p : Nat) : Option Stage := k.stages.getD p none
def Bank.stageAt (k : Bank) (ln : LaneId) (p : Nat) : Option Stage := (k.lanes.get ln).stageAt p

def Lane.setStage (k : Lane) (p : Nat) (x : Stage) : Lane := { k with stages := k.stages.set p (some x) }
def Bank.setStage (k : Bank) (ln : LaneId) (p : Nat) (x : Stage) : Bank :=
  { k with lanes := k.lanes.set ln ((k.lanes.get ln).setStage p x) }

def Lane.mapStages (f : Stage → Stage) (k : Lane) : Lane := { k with stages := k.stages.map (Option.map f) }
def Bank.mapStages (f : Stage → Stage) (k : Bank) : Bank :=
  { k with lanes := ⟨k.lanes.one.mapStages f, k.lanes.two.mapStages f⟩ }

/-! ### Fill, prepare, release (R3, R5, R20) -/

/-- A stage as a fill makes it (R3). -/
def StageRecord.fill (cab : Option CabAnswer) (r : StageRecord) : Stage :=
  { kind := r.kind, bypass := r.bypass, trail := r.trail, params := r.params.map Param.fixed, ramp := 0, gate := .closed,
    gateHold := 0, gateGain := 0, reduction := 0, compGain := 0, peak := 0, phase := 0, beatCount := 0, rate := 0,
    tap := ⟨0, none, none, 0⟩, writePos := 0, history := [], tempoClamped := false,
    tapsClamped := (cab.map CabAnswer.clamped).getD false, tapsInUse := (cab.map CabAnswer.taps).getD 0 }

def LaneRecord.fill (ln : LaneId) (cabs : List CabAnswer) (r : LaneRecord) : Lane :=
  { enabled := r.enabled, source := r.source, level := r.level, pan := r.pan, assign := r.assign,
    stages := (List.range 12).map fun p =>
      if r.enabled then
        (r.stages.find? fun x => x.position == p).map fun x =>
          x.fill (cabs.find? fun c => c.lane == ln && c.position == p)
      else none }

def Lane.cost (k : Lane) : Nat :=
  if k.enabled then 20 + (k.stages.map fun x => match x with | some x => x.kind.cost x.tapsInUse | none => 0).sum else 0

def Lane.trailCost (k : Lane) : Nat :=
  (k.stages.map fun x => match x with | some x => if x.trail then x.kind.cost x.tapsInUse else 0 | none => 0).sum

/-- A fill (R3): the bank's data replaced, its costs worked out (R20); what the scene unit sets stays. -/
def Bank.fill (k : Bank) (r : SceneRecord) (cabs : List CabAnswer) : Bank :=
  let l1 := r.lanes.one.fill .one cabs
  let l2 := r.lanes.two.fill .two cabs
  { k with lanes := ⟨l1, l2⟩, bindings := r.bindings, notices := r.notices, cost := l1.cost + l2.cost,
           trailCost := l1.trailCost + l2.trailCost }

/-- A stage's run state at its starting point (R5). The frame peak of a GATE or COMP starts at 0, which is read as silence: the
model's choice (log 75). -/
def Stage.prepare (tempo : Nat) (x : Stage) : Stage :=
  let x := { x with params := x.params.map fun p => Param.fixed p.target, ramp := if x.bypass then 240 else 0,
                    gate := .closed, gateHold := 0, gateGain := x.target 3, reduction := 0, compGain := x.target 4,
                    peak := 0, phase := 0, beatCount := 0, writePos := 0, history := [] }
  let x := Stage.rework tempo x
  { x with tap := ⟨x.tap.inUse, none, none, x.tap.inUse⟩ }

def Bank.prepare (tempo : Nat) (k : Bank) : Bank := { k.mapStages (Stage.prepare tempo) with gain := 0 }

/-- A release (R3): the bank's data cleared. -/
def Bank.release (k : Bank) : Bank :=
  { k with lanes := ⟨Lane.cleared, Lane.cleared⟩, bindings := [], notices := [], cost := 0, trailCost := 0 }

def BankRequest.apply (tempo : Nat) (p : PerBank Bank) (r : BankRequest) : PerBank Bank :=
  match r with
  | .fill bk r cabs => p.set bk ((p.get bk).fill r cabs)
  | .prepare bk => p.set bk ((p.get bk).prepare tempo)
  | .release bk => p.set bk ((p.get bk).release)

def sendBankRequest (r : BankRequest) (s : State) : State :=
  { s with lane := { s.lane with bankRequests := s.lane.bankRequests ++ [r] } }

/-- The scene unit's requests that have reached the lane engine, in the order sent (R2). -/
def takeBankRequests (s : State) : State :=
  { s with lane := { s.lane with banks := s.lane.bankRequests.foldl (BankRequest.apply s.lane.notedTempo) s.lane.banks,
                                 bankRequests := [] } }

/-! ### The mute set (R25, R26, R27) -/

def MuteSet.isEmpty (m : MuteSet) : Bool := !m.order && !m.tuner && !m.switch && !m.link && !m.setup

/-- The mute set as the status block codes it (R212). -/
def MuteSet.code (m : MuteSet) : Nat :=
  natOfBool m.order + 2 * natOfBool m.tuner + 4 * natOfBool m.switch + 8 * natOfBool m.link + 16 * natOfBool m.setup

/-- The ramp turns when the set becomes empty or ceases to be (R26). -/
def MuteRamp.turn (r : MuteRamp) (before after : MuteSet) : MuteRamp :=
  if before.isEmpty && !after.isEmpty then .falling
  else if !before.isEmpty && after.isEmpty then .rising
  else r

/-- A request on the mute set, taken when it arrives (R25). -/
def changeMute (f : MuteSet → MuteSet) (s : State) : State :=
  { s with lane := { s.lane with mute := f s.lane.mute, ramp := s.lane.ramp.turn s.lane.mute (f s.lane.mute) } }

def muteOrder (on : Bool) : State → State := changeMute fun m => { m with order := on }
def muteTuner (on : Bool) : State → State := changeMute fun m => { m with tuner := on }
def muteLink (on : Bool) : State → State := changeMute fun m => { m with link := on }
def muteSetup (on : Bool) : State → State := changeMute fun m => { m with setup := on }
def toggleSwitchMute : State → State := changeMute fun m => { m with switch := !m.switch }

/-- MUTE_SET as taken in slot `i` (R27). -/
def takeMuteSet (i : Nat) (args : List Byte) (s : State) : State :=
  if 1 < byteAt args 0 then completeWith i .badArgument [] s
  else
    let s := muteOrder (byteAt args 0 == 1) s
    completeOk i [word s.lane.mute.code] s

/-! ### Requests on the LIVE bank (R21-R24) -/

/-- STAGE_SET or STAGE_BYPASS joins the request list, where a place is kept for it. -/
def pushRequest (r : LaneRequest) (s : State) : State :=
  { s with lane := { s.lane with requests := s.lane.requests ++ [r] } }

def LaneRequest.isBinding : LaneRequest → Bool
  | .setOrder _ _ _ _ _ => false
  | .bypassOrder _ _ _ _ => false
  | _ => true

/-- The 31 places for binding requests are full (R21). -/
def State.laneListFull (s : State) : Bool := decide (31 ≤ (s.lane.requests.filter LaneRequest.isBinding).length)

def takeStageSet (i : Nat) (args : List Byte) (s : State) : State :=
  pushRequest (.setOrder i (byteAt args 0) (byteAt args 1) (byteAt args 2) (signedAt args 4)) s

def takeStageBypass (i : Nat) (args : List Byte) (s : State) : State :=
  pushRequest (.bypassOrder i (byteAt args 0) (byteAt args 1) (byteAt args 2)) s

/-- Where a stage request lands: the stage of the LIVE bank, or the first failing check (R22, R24). -/
def State.findStage (s : State) (lane position : Nat) : Except ResultCode (BankId × LaneId × Stage) :=
  match laneOfNat lane with
  | none => .error .badArgument
  | some ln =>
    if 11 < position then .error .badArgument
    else match s.liveBank with
      | none => .error .notReady
      | some bk =>
        match (s.lane.banks.get bk).stageAt ln position with
        | none => .error .badArgument
        | some x => .ok (bk, ln, x)

def putStage (bk : BankId) (ln : LaneId) (p : Nat) (x : Stage) (s : State) : State :=
  setBanks (s.lane.banks.set bk ((s.lane.banks.get bk).setStage ln p x)) s

/-- A target taken by its class, clamped into the parameter's range (R9, R22). -/
def Stage.setTarget (tempo : Nat) (x : Stage) (i : Nat) (c : ParamClass) (v : Int) : Stage :=
  Stage.rework tempo { x with params := x.params.set i ((x.param i).retarget c v) }

/-- The range of a stage's parameter; a load-time one and one beyond the last are refused (R22). -/
def Stage.settable (x : Stage) (i : Nat) : Option ParamSpec :=
  match x.kind.param (x.target 0) i with
  | none => none
  | some p => if p.cls = .loadTime then none else some p

/-- Taps whose time in use has changed start or turn their crossfade when the stage runs (R16). -/
def Stage.followTap (x : Stage) : Stage := { x with tap := x.tap.follow }

/-- Each change of a running stage's time in use is followed by its tap at once (R16, R18); a frozen one follows when it
next runs. -/
def Stage.followIn (m : RunMode) (x : Stage) : Stage := if x.runsIn m then x.followTap else x

/-- A parameter change carried out: the state and the target taken, or the failing check. -/
def applyParam (lane position index : Nat) (v : Int) (s : State) : Except ResultCode (State × Int) :=
  match s.findStage lane position with
  | .error c => .error c
  | .ok (bk, ln, x) =>
    match x.settable index with
    | none => .error .badArgument
    | some p =>
      let w := clampInt p.min p.max v
      let y := (x.setTarget s.lane.notedTempo index p.cls w).followIn (s.lane.banks.get bk).runMode
      .ok (putStage bk ln position y s, w)

/-- A bypass change carried out: the state and the flag after it, or the failing check (R23, R24). -/
def applyBypass (lane position : Nat) (f : Bool → Bool) (s : State) : Except ResultCode (State × Bool) :=
  match s.findStage lane position with
  | .error c => .error c
  | .ok (bk, ln, x) => .ok (putStage bk ln position { x with bypass := f x.bypass } s, f x.bypass)

/-- The three settings of STAGE_BYPASS (R23, R209). -/
def bypassSetting : Nat → Option (Bool → Bool)
  | 0 => some fun _ => false
  | 1 => some fun _ => true
  | 2 => some fun x => !x
  | _ => none

/-- The answer to a bypass request: the flag after it; 0 in its place where a check fails and none is worked out (log
49). -/
def answerBypass (f : Firing) (lane position : Nat) (r : Except ResultCode (State × Bool)) (s : State) : State :=
  match r with
  | .error c => answerFiring f (.failed c lane position 0) s
  | .ok (t, flag) => answerFiring f (.done lane position (if flag then 1 else 0)) t

/-- One entry of the request list carried out (R22, R23, R24). -/
def applyRequest (s : State) (r : LaneRequest) : State :=
  match r with
  | .setOrder i lane p index v =>
    match applyParam lane p index v s with
    | .error c => completeWith i c [] s
    | .ok (t, w) => complete i .ok { ResultFlags.none with clamped := w != v } [wordOfInt w] t
  | .bypassOrder i lane p setting =>
    match bypassSetting setting with
    | none => completeWith i (match s.findStage lane p with | .error c => c | .ok _ => .badArgument) [] s
    | some f =>
      match applyBypass lane p f s with
      | .error c => completeWith i c [] s
      | .ok (t, flag) => completeOk i [wordOfBool flag] t
  | .toggle f lane p => answerBypass f lane p (applyBypass lane p (fun x => !x) s) s
  | .engage f lane p => answerBypass f lane p (applyBypass lane p (fun _ => false) s) s
  | .bypass f lane p => answerBypass f lane p (applyBypass lane p (fun _ => true) s) s
  | .param f lane p index v =>
    match applyParam lane p index v s with
    | .error c => answerFiring f (.failed c lane p v) s
    | .ok (t, w) => answerFiring f (.done lane p w) t

/-- Every entry that had arrived is taken, oldest first (R21; log 39). `choose` is the dispatcher's next choice for the lane
engine, which follows the completion of its order (R195). -/
def takeRequests (choose : State → State) (s : State) : State :=
  let due := s.lane.requests.take s.lane.arrived
  let s := { s with lane := { s.lane with requests := s.lane.requests.drop s.lane.arrived, arrived := 0 } }
  due.foldl (fun s r => choose (applyRequest s r)) s

/-! ### Tempo and beats (R15, R17, R21) -/

/-- The tempo is noted, for every synced stage at the next boundary (R85). -/
def noteTempo (tempo : Nat) (s : State) : State :=
  { s with lane := { s.lane with notedTempo := tempo, tempoNoted := true } }

def countBeat (s : State) : State := { s with lane := { s.lane with beats := s.lane.beats + 1 } }

/-- The stages of a bank that run in its mode; the others are frozen (R4; log 40). -/
def Bank.mapRunning (f : Stage → Stage) (k : Bank) : Bank :=
  let g := fun (ln : Lane) => if ln.enabled then ln.mapStages fun x => if x.runsIn k.runMode then f x else x else ln
  { k with lanes := ⟨g k.lanes.one, g k.lanes.two⟩ }

/-- At a boundary: the noted tempo reworks every stage of both banks, whose running taps follow, and each counted beat
reaches the MOD stages that run. -/
def applyTempoAndBeats (s : State) : State :=
  let e := s.lane
  let rework := fun (k : Bank) =>
    if e.tempoNoted then (k.mapStages (Stage.rework e.notedTempo)).mapRunning Stage.followTap else k
  let beats := fun (k : Bank) => iterate (Bank.mapRunning Stage.beat) e.beats k
  { s with lane := { e with banks := ⟨beats (rework e.banks.a), beats (rework e.banks.b)⟩, tempoNoted := false,
                            beats := 0 } }

/-! ### The frame work (R2) -/

/-- What the scene unit sets for a bank at a boundary. -/
structure BankPlay where
  mode : RunMode
  fadePoint : FadePoint
  gain : Nat
deriving DecidableEq, Repr

/-- The bank as the boundary's reading leaves it. -/
def Bank.read (k : Bank) (p : BankPlay) : Bank := { k with runMode := p.mode, fadePoint := p.fadePoint }

def frameInput (input : List (Sample × Sample)) (k : Bank) (p : BankPlay) : FrameInput :=
  { inA := input.map fun x => x.1.toInt, inB := input.map fun x => x.2.toInt, mode := k.runMode,
    fadePoint := k.fadePoint, gain0 := k.gain, gain1 := p.gain }

/-- Both banks over the frame, and the output (R2, R28). Stages that have been frozen follow their time in use first. -/
def playFrame (input : List (Sample × Sample)) (pa pb : BankPlay) (s : State) : State :=
  let e := s.lane
  let ka := e.banks.a.mapRunning Stage.followTap
  let kb := e.banks.b.mapRunning Stage.followTap
  let ra := ka.run s.lines .a (frameInput input ka pa) ⟨s.lines.samples, e.freeCount⟩
  let rb := kb.run { s.lines with samples := ra.2.2.samples } .b (frameInput input kb pb) ra.2.2
  { s with
    lines := { s.lines with samples := rb.2.2.samples },
    lane := { e with banks := ⟨{ ra.1 with gain := pa.gain }, { rb.1 with gain := pb.gain }⟩, freeCount := rb.2.2.fresh,
                     output := outputFrame s.liveBank.isSome e.ramp e.rampCount
                       (List.zipWith Four.add ra.2.1 rb.2.1),
                     rampCount := rampCountAt e.ramp e.rampCount 47 } }

/-- The lane engine's frame work (R2): it reads what the scene unit has set, takes what has reached it, and processes
48 samples. R2 takes the request list "together with" the beats and the tempo change noted; the model takes the tempo
and the beats before the list (log 47). -/
def laneFrame (choose : State → State) (input : List (Sample × Sample)) (pa pb : BankPlay) (s : State) : State :=
  let s := setBanks ⟨s.lane.banks.a.read pa, s.lane.banks.b.read pb⟩ s
  let s := takeBankRequests s
  let s := applyTempoAndBeats s
  let s := takeRequests choose s
  playFrame input pa pb s

/-! ### The gate's hold and the tap crossfade as events of their own -/

def State.stageAt (s : State) (bk : BankId) (ln : LaneId) (p : Nat) : Option Stage := (s.lane.banks.get bk).stageAt ln p

def updateStage (bk : BankId) (ln : LaneId) (p : Nat) (f : Stage → Stage) (s : State) : State :=
  match s.stageAt bk ln p with
  | none => s
  | some x => putStage bk ln p (f x) s

/-- A tap crossfade ends wherever it is due (R16). -/
def endTapFades (s : State) : State :=
  let f := fun (x : Stage) => if x.tap.fadeDone then { x with tap := x.tap.endFade } else x
  setBanks ⟨s.lane.banks.a.mapStages f, s.lane.banks.b.mapStages f⟩ s

end Sys2Proof.Machine
end

