-- ==== Sys2Proof/Machine/Tempo.lean ====
section
/-! DEFINITION. The tempo unit (chapter 4): the accumulator, beats, taps, the link beat, TEMPO_SET. -/

namespace Sys2Proof.Machine

/-- The load bank (R51). -/
def State.loadBank (s : State) : BankId :=
  match s.liveBank with
  | some k => otherBank k
  | none =>
    match s.scene.lastLive with
    | some k => otherBank k
    | none => .a

/-- The profile of a request whose scene's fade defaults are `d` (R66). -/
def Request.profile (r : Request) (d : Profile) : Profile := r.override.getD d

/-- The quantize point an armed request waits for: a lean switch has none (R67). -/
def Request.quantize (r : Request) (d : Profile) : Quantize := if r.lean then .none else (r.profile d).quantize

def setTempoUnit (t : TempoUnit) (s : State) : State := { s with tempo := t }

/-- Interval between two frame times, modulo 2^32 (R82). -/
def interval (later earlier : Long) : Nat := (later - earlier).toNat

/-! ### Beats (R84) -/

/-- An ARMED request's quantize mark on a beat (R67). -/
def markQuantize (b : Beat) (s : State) : State :=
  match s.scene.latch with
  | none => s
  | some r =>
    let hit := match r.quantize (s.scene.banks.get s.loadBank).profile with
      | .none => false
      | .beat => true
      | .bar => b.position == 0
    if s.scene.state = .armed ∧ hit = true then { s with scene := { s.scene with quantMark := true } } else s

/-- The lamp driver takes a beat (R177). -/
def openBeatWindow (s : State) : State := { s with lamps := { s.lamps with window := 100, windowOpen := true } }

/-- A beat event (R84): it carries its cause, the bar position and its frame time, the bar position advances, and the
beat reaches the scene unit, the lane engine and the lamps. -/
def produceBeat (cause : BeatCause) (s : State) : State :=
  let b : Beat := ⟨cause, s.tempo.bar, s.frameCounter⟩
  let s := setTempoUnit { s.tempo with bar := (b.position + 1) % 4, lastBeat := some b } s
  openBeatWindow (countBeat (markQuantize b s))

/-- A tempo set: a value different from the one before goes to the lane engine (R85). -/
def changeTempo (v : Nat) (s : State) : State :=
  if v = s.tempo.tempo then s else noteTempo v (setTempoUnit { s.tempo with tempo := v } s)

/-! ### The accumulator (R83) and the link watch (R90) -/

/-- The addition of the boundary that stands will give a beat. -/
def State.beatDue (s : State) : Bool := s.tempo.addDue && decide (600000 ≤ s.tempo.phase + s.tempo.tempo)

/-- The addition of the boundary that stands (R83): the tempo is added to the phase, and at 600000 or more 600000 is taken
off and a beat is produced in that event. It is made once (log 2). -/
def takeAddition (s : State) : State :=
  let p := s.tempo.phase + s.tempo.tempo
  if s.beatDue then produceBeat .accumulator (setTempoUnit { s.tempo with phase := p - 600000, addDue := false } s)
  else if s.tempo.addDue then setTempoUnit { s.tempo with phase := p, addDue := false } s
  else s

def countWatch (s : State) : State :=
  setTempoUnit { s.tempo with watch := s.tempo.watch.map (· - 1) } s

/-- The link beat counts as lost; the accumulator runs on (R90). -/
def linkWatchExpiry (s : State) : State :=
  if s.tempo.watch = some 0 then setTempoUnit { s.tempo with watch := none, linkLost := true } s else s

/-! ### Taps (R86-R88, R92) -/

def tempoReport (source : Nat) (before after cause count sum : Nat) (time : Long) : Report :=
  { kind := 8, flags := 0, source := source, time := time,
    detail := [word after, word before, bytePair cause count, word sum] }

/-- The tempo whose beat is the mean of a tap history, held within its range (R86). -/
def tapTempo (history : List Nat) : Nat := clampNat 400 3000 (roundDiv (600000 * history.length) history.sum)

/-- The tap history after a tap, or none for a repeat (R86). -/
def tapHistory (t : TempoUnit) (now : Long) : Option (List Nat) :=
  match t.lastTap with
  | none => some []
  | some last =>
    let d := interval now last
    if d = 0 then none else if d ≤ 2000 then some ((d :: t.history).take 3) else some []

/-- A TAP request while the source is INTERNAL (R86, R87, R92). -/
def takeTap (ref : EntryRef) (s : State) : State :=
  match tapHistory s.tempo s.frameCounter with
  | none => s
  | some h =>
    let before := s.tempo.tempo
    let s := setTempoUnit { s.tempo with lastTap := some s.frameCounter, history := h } s
    let s := if h = [] then s else changeTempo (tapTempo h) s
    let s := produceBeat .tap (setTempoUnit { s.tempo with phase := 0 } s)
    if s.tempo.tempo = before then s
    else appendReport (tempoReport (sourceEntry ref) before s.tempo.tempo 0 h.length h.sum s.frameCounter) s

/-! ### The link beat (R89) -/

/-- A link beat message handed over by the link controller (R89). -/
def takeLinkBeat (s : State) : State :=
  if s.tempo.source = .link then
    let before := s.tempo.tempo
    let d := s.tempo.prevBeat.map fun p => interval s.frameCounter p
    let s := match d with
      | none => s
      | some d => if 200 ≤ d ∧ d ≤ 1500 then changeTempo (roundDiv 600000 d) s else s
    let s := setTempoUnit { s.tempo with prevBeat := some s.frameCounter, phase := 0, watch := some 3000,
                                         linkLost := false } s
    let s := produceBeat .link s
    if s.tempo.tempo = before then s
    else appendReport (tempoReport sourceNone before s.tempo.tempo 1 1 (d.getD 0) s.frameCounter) s
  else s

/-! ### TEMPO_SET (R91) -/

def TempoSource.code : TempoSource → Nat
  | .internal => 0
  | .link => 1

/-- What a change of source does to the link following. -/
def TempoUnit.setSource (t : TempoUnit) (src : TempoSource) : TempoUnit :=
  if src = t.source then t
  else match src with
    | .link => { t with source := .link, prevBeat := none, watch := some 3000, linkLost := false }
    | .internal => { t with source := .internal, watch := none, linkLost := false }

/-- TEMPO_SET as taken in slot `i` (R91). -/
def takeTempoSet (i : Nat) (args : List Byte) (s : State) : State :=
  let v := wordAt args 0
  if 1 < byteAt args 2 then completeWith i .badArgument [] s
  else
    let w := if v = 0 then s.tempo.tempo else clampNat 400 3000 v
    let src := if byteAt args 2 = 1 then TempoSource.link else TempoSource.internal
    let s := changeTempo w s
    let s := setTempoUnit { s.tempo.setSource src with history := [], lastTap := none } s
    complete i .ok { ResultFlags.none with clamped := v != 0 && w != v } [word s.tempo.tempo, word s.tempo.source.code] s

end Sys2Proof.Machine
end

