-- ==== Sys2Proof/Machine/Tuner.lean ====
section
/-! DEFINITION. The tuner (chapter 5). -/

namespace Sys2Proof.Machine

def setTuner (t : Tuner) (s : State) : State := { s with tuner := t }

/-! ### The cell (R108, R213) -/

def CellStatus.code : CellStatus → Nat
  | .off => 0
  | .settling => 1
  | .silent => 2
  | .wander => 3
  | .stable => 4
  | .lowRange => 5
  | .highRange => 6

/-- A signed byte, 0x80 for absent (R213). -/
def signedByteCode (x : Option Int) : Nat :=
  match x with
  | none => 0x80
  | some v => (BitVec.ofInt 8 v).toNat

/-- The seven words of the cell, the reading counter last (R213). -/
def TunerCell.words (c : TunerCell) : List Word :=
  let f : Long := match c.frequency with
    | none => 0xFFFFFFFF
    | some v => BitVec.ofNat 32 v
  let t : Long := BitVec.ofNat 32 c.tickSum
  [bytePair c.status.code (signedByteCode c.note), bytePair (signedByteCode c.cents) c.n, lowWord f, highWord f,
    lowWord t, highWord t, c.counter]

def putCell (s : State) : State := putWords (wordsAt 0x100 s.tuner.cell.words) s

/-- A written reading: the fields, then the counter raised, and attention TUNER (R108). -/
def writeCell (status : CellStatus) (note cents : Option Int) (frequency : Option Nat) (tickSum : Nat) (s : State) : State :=
  let c : TunerCell := ⟨status, note, cents, frequency, tickSum, s.tuner.settings.n, s.tuner.cell.counter + 1⟩
  raiseTuner (putCell (setTuner { s.tuner with cell := c } s))

/-- A written reading with nothing measured in it. -/
def writeBare (status : CellStatus) (s : State) : State := writeCell status none none none 0 s

/-! ### Switching and settling (R97, R98, R107) -/

/-- The measuring state emptied: qualification, recorded crossing, group. -/
def Tuner.clearMeasure (t : Tuner) : Tuner :=
  { t with below := 0, counting := false, ticks := 0, wrapped := false, group := [] }

/-- A settle event (R107). -/
def settleTuner (s : State) : State :=
  let s := setTuner { s.tuner.clearMeasure with discard := true, silence := some 200 } s
  if s.tuner.cell.status = .settling then s else writeBare .settling s

def switchTunerOn (s : State) : State :=
  let s := settleTuner (setTuner { s.tuner with settings := { s.tuner.settings with on := true } } s)
  if s.tuner.settings.thru then s else muteTuner true s

def switchTunerOff (s : State) : State :=
  let s := setTuner { s.tuner.clearMeasure with settings := { s.tuner.settings with on := false }, discard := false,
                                                silence := none } s
  let s := writeBare .off s
  if s.tuner.settings.thru then s else muteTuner false s

/-- TUNER_TOGGLE (R97). -/
def toggleTuner (s : State) : State := if s.tuner.settings.on then switchTunerOff s else switchTunerOn s

/-- The scene-live notice at the tuner (R99). -/
def tunerAutoOff (s : State) : State :=
  if s.tuner.settings.on && s.tuner.settings.autoOff then switchTunerOff s else s

/-- The order of R96, from the settings before to the settings `n`. -/
def applyTunerSettings (n : TunerSettings) (s : State) : State :=
  let o := s.tuner.settings
  let s := setTuner { s.tuner with settings := { n with on := o.on } } s
  if !o.on && n.on then switchTunerOn s
  else if o.on && !n.on then
    -- the holder goes by the mode that put it there
    let s := switchTunerOff s
    if o.thru then s else muteTuner false s
  else
    let measure := fun (t : TunerSettings) => (t.sourceB, t.level, t.wide, t.n)
    let s := if o.on && measure o != measure n then settleTuner s else s
    if o.on && o.thru != n.thru then muteTuner (!n.thru) s else s

/-- TUNER_SET as taken in slot `i` (R96). -/
def takeTunerSet (i : Nat) (args : List Byte) (s : State) : State :=
  match firstFault (tunerFaults args) with
  | some f => completeWith i .badArgument [word f] s
  | none =>
    let s := applyTunerSettings (tunerSettingsOf args) s
    completeOk i [wordOfBool s.tuner.settings.on, word s.tuner.cell.status.code] s

/-! ### Crossings and periods (R100-R103) -/

/-- The hysteresis band of a threshold level (R100). -/
def hysteresis (level : Nat) : Int := 8192 * 2 ^ level

/-- Ticks per sample (R101). -/
def TunerSettings.ticksPerSample (t : TunerSettings) : Nat := if t.wide then 16 else 64

/-- The period counter `d` ticks on, wrapping past 65535 (R102). -/
def Tuner.addTicks (t : Tuner) (d : Nat) : Tuner :=
  { t with ticks := t.ticks + BitVec.ofNat 16 d, wrapped := t.wrapped || decide (65535 < t.ticks.toNat + d) }

/-- A qualifying crossing between the previous sample and `c`: it ends a period, or starts the first (R101-R103). The
counter stands at the ticks from the last crossing to the previous sample. -/
def Tuner.crossing (t : Tuner) (c : Int) : Tuner :=
  let per := t.settings.ticksPerSample
  let f := ((hysteresis t.settings.level - t.prev) * per / (c - t.prev)).toNat
  let at' := t.addTicks f
  let group := if t.counting then t.group ++ [⟨at'.ticks.toNat, at'.wrapped⟩] else t.group
  { t with below := 0, prev := c, counting := true, ticks := BitVec.ofNat 16 (per - f), wrapped := false, group := group,
           silence := some 200 }

/-- One source sample (R100). -/
def Tuner.sample (t : Tuner) (c : Int) : Tuner :=
  let h := hysteresis t.settings.level
  if h < c ∧ t.below = 3 then t.crossing c
  else
    let below := if t.below = 3 then 3 else if c < -h then t.below + 1 else 0
    let t := if t.counting then t.addTicks t.settings.ticksPerSample else t
    { t with below := below, prev := c }

/-- A boundary's samples of the source (R101), and the silence timer after them (R106): a boundary that sets the timer
does not count it down (log 18). -/
def tunerFrame (input : List (Sample × Sample)) (s : State) : State :=
  if s.tuner.settings.on then
    let t := s.tuner
    let xs := input.map fun x => if t.settings.sourceB then x.2.toInt else x.1.toInt
    let u := xs.foldl Tuner.sample { t with silence := none }
    let timer := match u.silence with
      | some v => some v
      | none => t.silence.map (· - 1)
    setTuner { u with silence := timer } s
  else s

/-! ### Readings (R104, R105, R106) -/

/-- floor (log2 (a / b)) for positive `a` and `b`. -/
def floorLog2 (a b : Nat) : Int :=
  if b ≤ a then Int.ofNat (Nat.log2 (a / b))
  else
    let l := Nat.log2 (b / a)
    if b ≤ a * 2 ^ l then -(Int.ofNat l) else -(Int.ofNat (l + 1))

/-- 1200 * log2 (f / r), rounded half up to a whole cent, for a frequency in hundredths of a Hz and a reference in
tenths (R105; log 19). -/
def centsFrom (frequency reference : Nat) : Int :=
  (floorLog2 (frequency ^ 2400) ((10 * reference) ^ 2400) + 1) / 2

def noteOf (dc : Int) : Int := 57 + (dc + 50) / 100
def centsOf (dc : Int) : Int := dc - 100 * (noteOf dc - 57)

/-- The reading of a complete group (R104, R105). -/
def makeReading (group : List Period) (s : State) : State :=
  let t := s.tuner.settings
  let counts := group.map Period.ticks
  let sum := counts.sum
  let rate := if t.wide then 768000 else 3072000
  let frequency := roundDiv (rate * t.n * 100) sum
  let spread := counts.foldl max 0 - counts.foldl min (counts.headD 0)
  let dc := centsFrom frequency t.reference
  if group.any Period.wrapped then writeCell .lowRange none none none 0 s
  else if 200000 < frequency then writeCell .highRange none none (some frequency) sum s
  else
    writeCell (if spread * 64 * t.n ≤ sum then .stable else .wander) (some (noteOf dc)) (some (centsOf dc))
      (some frequency) sum s

/-- A complete group is discarded after a settle, or read (R103, R107). -/
def groupComplete (s : State) : State :=
  let n := s.tuner.settings.n
  if s.tuner.settings.on && decide (0 < n) && decide (n ≤ s.tuner.group.length) then
    let group := s.tuner.group.take n
    let s := setTuner { s.tuner with group := s.tuner.group.drop n } s
    if s.tuner.discard then setTuner { s.tuner with discard := false } s else makeReading group s
  else s

/-- Silence found (R106). -/
def silenceExpiry (s : State) : State :=
  if s.tuner.silence = some 0 then
    writeBare .silent (setTuner { s.tuner.clearMeasure with silence := none } s)
  else s

/-! ### The indication (R109) -/

inductive Indication where
  | none | flat | inTune | sharp
deriving DecidableEq, Repr

def Tuner.indication (t : Tuner) : Indication :=
  match t.cell.status, t.cell.cents with
  | .stable, some c =>
    if c < -(t.settings.window : Int) then .flat else if (t.settings.window : Int) < c then .sharp else .inTune
  | _, _ => .none

end Sys2Proof.Machine
end

