-- ==== Sys2Proof/Machine/Link.lean ====
section
/-! DEFINITION. The link controller (chapter 8) but for what a received message does: states and counters, holds,
notices, sending, errors, configuration. -/

namespace Sys2Proof.Machine

def setLink (l : Link) (s : State) : State := { s with link := l }

/-! ### Codes (R209-R213) -/

def LinkState.code : LinkState → Nat
  | .active => 0
  | .caution => 1
  | .quiet => 2
  | .detached => 3

def errorCode : LinkErrorKind → Nat
  | .bit => 1
  | .stuff => 2
  | .check => 3
  | .form => 4
  | .noAck => 5

def Filter.flags (f : Filter) : Nat := natOfBool f.enable + 2 * f.dest.code

/-- The link configuration, laid out as the LINK_CONFIG arguments (R209, R213); bits 7 to 3 of a filter's flags and byte 0x187,
which the layout does not name, are 0 by the model's choice (log 62). -/
def LinkConfig.words (c : LinkConfig) : List Word :=
  let f := fun n => c.filters.getD n Filter.reset
  ((List.range 8).flatMap fun n => [(f n).code, (f n).mask]) ++
    ((List.range 4).map fun n => bytePair (f (2 * n)).flags (f (2 * n + 1)).flags) ++
    [word c.rate, word (c.beatTopic.getD 0xFFFF), bytePair c.address (natOfBool c.autoRejoin),
     bytePair (natOfBool c.loopback) 0]

/-! ### The link state (R158) -/

/-- The state the counters give; DETACHED is latched (R158). -/
def linkStateOf (tec rec_ : Nat) (was : LinkState) : LinkState :=
  if was = .detached ∨ 224 ≤ tec then .detached
  else if 128 ≤ tec ∨ 128 ≤ rec_ then .quiet
  else if 64 ≤ tec ∨ 64 ≤ rec_ then .caution
  else .active

/-- A LINK_STATE report (R158, R211). -/
def linkStateReport (before : LinkState) (l : Link) (cause holds notices : Nat) (time : Long) : Report :=
  { kind := 6, flags := 0, source := sourceNone, time := time,
    detail := [bytePair before.code l.state.code, bytePair l.tec l.rec_, bytePair cause holds, bytePair notices 0] }

def reportLinkState (before : LinkState) (cause holds notices : Nat) (s : State) : State :=
  raiseLink (appendReport (linkStateReport before s.link cause holds notices s.frameCounter) s)

/-- The causes of a LINK_STATE report beyond the error kinds (R211). -/
def causeSuccess : Nat := 6
def causeRejoin : Nat := 7

/-- Counters changed and the state worked out anew; a change that is not to DETACHED is reported at once. -/
def changeCounters (tec rec_ cause : Nat) (s : State) : State :=
  let before := s.link.state
  let after := linkStateOf tec rec_ before
  let s := setLink { s.link with tec := tec, rec_ := rec_, state := after } s
  if after = before ∨ after = .detached then s else reportLinkState before cause 0 0 s

/-! ### Holds (R161) -/

def State.hold (s : State) (h : Nat) : Hold := s.link.holds.getD h Hold.empty

def setHold (h : Nat) (x : Hold) (s : State) : State := setLink { s.link with holds := putAt 3 h x Hold.empty s.link.holds } s

/-- A candidate for a hold: a WAITING LINK_SEND, or an entry of the notice list. -/
inductive Candidate where
  | order (slot : Nat)
  | notice (index : Nat)
deriving DecidableEq, Repr

/-- The checks of R163: the code an order fails with, or none. -/
def State.linkSendFault (s : State) (m : Message) : Option ResultCode :=
  if s.disp.mode = .setup then some .wrongMode
  else if 1023 < m.topic ∨ 6 < m.length then some .badArgument
  else if s.link.state = .detached then some .linkDetached
  else none

/-- A WAITING routable LINK_SEND's message. -/
def Slot.linkSend (x : Slot) : Option Message :=
  if x.state = .waiting ∧ x.routable = true ∧ x.kind = some .linkSend then
    x.order.map fun o => linkSendMessage o.args
  else none

/-- The candidates, with topic and age (R161). -/
def State.candidates (s : State) : List (Candidate × Nat × Nat) :=
  ((List.range 32).filterMap fun i =>
    match (s.slot i).linkSend with
    | none => none
    | some m => if s.linkSendFault m = none then some (.order i, m.topic, (s.slot i).stamp) else none) ++
  s.link.notices.zipIdx.map fun x => (.notice x.2, x.1.message.topic, x.1.stamp)

/-- The lowest topic, the older between equal topics. -/
def firstByTopic {α : Type} : List (α × Nat × Nat) → Option (α × Nat × Nat)
  | [] => none
  | x :: rest =>
    match firstByTopic rest with
    | none => some x
    | some y => if y.2.1 < x.2.1 ∨ (y.2.1 = x.2.1 ∧ y.2.2 < x.2.2) then some y else some x

/-- An EMPTY hold takes a candidate: the order becomes RUNNING, the notice leaves the list. -/
def fillHold (h : Nat) (c : Candidate) (s : State) : State :=
  match c with
  | .order i =>
    let x := s.slot i
    match x.linkSend with
    | none => s
    | some m => setHold h ⟨.pending, m, .slot i, x.stamp, 0, 0, false⟩ (writeSlot i { x with state := .running } s)
  | .notice n =>
    match s.link.notices[n]? with
    | none => s
    | some x =>
      let s := setLink { s.link with notices := s.link.notices.eraseIdx n } s
      setHold h ⟨.pending, x.message, .notice, x.stamp, 0, 0, false⟩ s

/-- Every EMPTY hold takes the best candidate then left; none while DETACHED (R161). Of several EMPTY holds the
lowest-numbered is filled first, which is the model's choice (log 73). -/
def fillHolds (s : State) : State :=
  if s.link.state = .detached then s
  else forEach 3 (fun h s =>
    if (s.hold h).state = .empty then
      match firstByTopic s.candidates with
      | none => s
      | some c => fillHold h c.1 s
    else s) s

/-- WAITING LINK_SEND orders that fail a check complete at once (R163). Several that fail in one event complete in the order
of their slot numbers, which is the model's choice (log 65). -/
def refuseLinkSends (s : State) : State :=
  forEach 32 (fun i s =>
    match (s.slot i).linkSend with
    | none => s
    | some m =>
      match s.linkSendFault m with
      | none => s
      | some c => completeWith i c [] s) s

/-! ### The notice list (R165) -/

/-- A notice offered: none when it joins the list, or the code it is dropped with. -/
def State.noticeFault (s : State) : Option ResultCode :=
  if s.link.state = .detached then some .linkDetached
  else if 8 ≤ s.link.notices.length then some .notReady
  else none

/-- A notice that is accepted joins the list, and moves on into an EMPTY hold (R165). -/
def offerNotice (m : Message) (s : State) : State :=
  if s.noticeFault = none then
    fillHolds { s with stamp := s.stamp + 1,
                       link := { s.link with notices := s.link.notices ++ [⟨m, s.stamp⟩] } }
  else s

/-! ### Sending (R162) -/

def State.sendingHold (s : State) : Option Nat := (List.range 3).find? fun h => (s.hold h).state == .sending

/-- The link controller is not sending, and a SETUP request is pending: its answer sets link clear (R172, R202). -/
def answerNotSending (s : State) : State :=
  if s.link.inhibit && s.disp.setupPending && s.sendingHold.isNone then
    { s with disp := { s.disp with linkClear := true } }
  else s

/-- Which PENDING hold starts next (R162). -/
def State.nextHold (s : State) : Option Nat :=
  (firstByTopic ((List.range 3).filterMap fun h =>
    if (s.hold h).state = .pending then some (h, (s.hold h).message.topic, (s.hold h).stamp) else none)).map fun x => x.1

/-- A message may start after this many recessive bits: a QUIET node that has just sent waits 24 (R151), in loopback too,
where R168 speaks of 16 for every message (log 52). -/
def Link.startRun (l : Link) : Nat := if l.justSent && l.state == .quiet then 24 else 16

/-- The conditions of R162. -/
def State.mayStart (s : State) (recessiveRun : Nat) : Bool :=
  s.link.engagement == .onBus && s.link.state != .detached && !s.link.inhibit && s.link.lineFree &&
    decide (s.link.startRun ≤ recessiveRun) && s.sendingHold.isNone && !s.link.receiving

def messageStart (recessiveRun : Nat) (s : State) : State :=
  if s.mayStart recessiveRun then
    match s.nextHold with
    | none => s
    | some h =>
      let s := setHold h { s.hold h with state := .sending } s
      setLink { s.link with lineFree := false, justSent := false, errorMark := none,
                            sendBits := sentBits s.link.config.address (s.hold h).message } s
  else s

/-- The attempt under way has ended: nothing is driven, and the QUIET wait will apply. -/
def attemptOver (s : State) : State := setLink { s.link with sendBits := [], justSent := true } s

/-- A hold is emptied; its order completes with a code. `choose` is the dispatcher's next choice for the link controller,
which follows the completion (R195). -/
def emptyHold (choose : State → State) (h : Nat) (code : ResultCode) (words : List Word) (s : State) : State :=
  let x := s.hold h
  let s := setHold h Hold.empty s
  match x.origin with
  | .slot i => choose (completeWith i code words s)
  | .notice => s

def Hold.isNotice (x : Hold) : Bool := x.state != .empty && x.origin == .notice

/-- Arbitration lost (R152, R162). -/
def arbitrationLost (choose : State → State) (s : State) : State :=
  match s.sendingHold with
  | none => s
  | some h =>
    if s.link.config.loopback then s
    else
      let x := s.hold h
      let s := attemptOver s
      let s := setLink { s.link with receiving := true, ackDriven := false } s
      let s := if x.cancelMark then emptyHold choose h .cancelled [] s
        else setHold h { x with state := .pending, losses := min 255 (x.losses + 1) } s
      answerNotSending s

/-- A message sent with success, but for its reception in loopback (R154, R157, R162, R168). -/
def sentOk (choose : State → State) (h : Nat) (s : State) : State :=
  let x := s.hold h
  let s := attemptOver s
  let s := setLink { s.link with sent := s.link.sent + 1 } s
  let rec' := if s.link.config.loopback then s.link.rec_ - 1 else s.link.rec_
  let s := changeCounters (s.link.tec - 1) rec' causeSuccess s
  let t := s.frameCounter
  answerNotSending (emptyHold choose h .ok [word x.attempts, word x.losses, lowWord t, highWord t] s)

/-! ### Errors (R155-R159) -/

/-- Entering DETACHED (R159, R160): the rejoin mark, the holds in order, the notice list, then the report. -/
def detach (choose : State → State) (before : LinkState) (cause : Nat) (s : State) : State :=
  let filled := (s.link.holds.filter fun x => x.state != .empty).length
  let held := (s.link.holds.filter Hold.isNotice).length
  let listed := s.link.notices.length
  let s := setLink { s.link with sendBits := [], errorMark := none, receiving := false,
                                 rejoinMark := s.link.config.autoRejoin, rejoinCount := 0 } s
  let s := forEach 3 (fun h s => if (s.hold h).state = .empty then s else emptyHold choose h .linkDetached [] s) s
  let s := setLink { s.link with notices := [], failed := s.link.failed + word (held + listed) } s
  reportLinkState before cause filled listed s

/-- What an errored attempt does to its hold (R162). -/
def failAttempt (choose : State → State) (h : Nat) (kind : LinkErrorKind) (s : State) : State :=
  let x := s.hold h
  let n := x.attempts + 1
  if x.cancelMark then emptyHold choose h .cancelled [] s
  else if 4 ≤ n then
    let s := if x.origin = .notice then setLink { s.link with failed := s.link.failed + 1 } s else s
    emptyHold choose h .linkFailed [word n, word (errorCode kind)] s
  else setHold h { x with state := .pending, attempts := n } s

/-- The counters after an error detected as transmitter or as receiver (R157). -/
def errorCounters (sending : Bool) (kind : LinkErrorKind) (l : Link) : Nat × Nat :=
  if sending then
    if kind = .noAck ∧ l.state = .quiet then (l.tec, l.rec_) else (min 255 (l.tec + 8), l.rec_)
  else (l.tec, min 255 (l.rec_ + 1))

/-- A node detects an error of this kind in this role (R155). -/
def errorFits (sending : Bool) (kind : LinkErrorKind) : Bool :=
  match kind with
  | .bit => sending
  | .stuff => true
  | .check => !sending
  | .form => true
  | .noAck => sending

/-- The node drives marks and acknowledge slots: it is ACTIVE or in CAUTION (R153, R156). -/
def Link.drives (l : Link) : Bool := l.state == .active || l.state == .caution

/-- The error mark a node sends (R156; log 29): 8 dominant bits from the next bit on, or from the first end-field bit for
a CHECK error; a QUIET node sends none. -/
def markFor (l : Link) (kind : LinkErrorKind) : Option ErrorMark :=
  if l.drives then some ⟨if kind = .check then .firstEndBit else .nextBit, List.replicate 8 false⟩ else none

/-- An error counted, in the role it is detected in. -/
def countError (sending : Bool) (kind : LinkErrorKind) (s : State) : State :=
  let n := errorCounters sending kind s.link
  changeCounters n.1 n.2 (errorCode kind)
    (setLink { s.link with errorMark := markFor s.link kind, lastError := some kind, lastErrorTime := s.frameCounter,
                           receiving := false, sendBits := [], justSent := s.link.justSent || sending } s)

/-- A link error (R155-R159, R162). `tail` says that it falls behind the acknowledge slot: a receiver has then read the
check without error, and driven the slot where its state lets it (R153). -/
def linkError (choose : State → State) (kind : LinkErrorKind) (tail : Bool) (s : State) : State :=
  if s.link.config.loopback then s
  else match s.sendingHold with
    | some h =>
      if errorFits true kind then
        let before := s.link.state
        let s := countError true kind s
        let s := if s.link.state = .detached ∧ before ≠ .detached then detach choose before (errorCode kind) s
          else failAttempt choose h kind s
        answerNotSending s
      else s
    | none =>
      if s.link.receiving && errorFits false kind then
        countError false kind (setLink { s.link with ackDriven := tail && kind == .form && s.link.drives } s)
      else s

/-! ### The line (R151, R160, R171) -/

/-- An idle run completes (R151, R160). It does not end AWAITING_IDLE: that is LINK_JOIN_BUS (log 72). -/
def idleRun (s : State) : State :=
  if s.sendingHold.isSome ∨ s.link.receiving = true ∨ s.link.engagement = .offBus then s
  else
    let n := if s.link.state = .detached ∧ s.link.rejoinMark = true ∧ s.disp.mode = .run then min 32 (s.link.rejoinCount + 1)
      else s.link.rejoinCount
    setLink { s.link with rejoinCount := n, errorMark := none,
                          lineFree := s.link.lineFree || s.link.engagement == .onBus } s

/-- Another node's start bit (R151). It ends the QUIET wait for the node's own next start (log 51). -/
def startBit (s : State) : State :=
  if s.link.lineFree && s.link.engagement == .onBus && !s.link.config.loopback then
    setLink { s.link with lineFree := false, receiving := s.link.state != .detached, justSent := false,
                          ackDriven := false } s
  else s

/-- Joining the bus (R171). The 16 bits that end AWAITING_IDLE are counted as an idle run by LINE_IDLE_RUN alone (log 72). -/
def joinBus (s : State) : State :=
  if s.link.engagement = .awaitingIdle then setLink { s.link with engagement := .onBus, lineFree := true } s else s

/-- The rejoin count of a DETACHED node has reached `n` in RUN, its rejoin mark set (R160). -/
def State.rejoinAt (s : State) (n : Nat) : Bool :=
  s.link.state == .detached && s.link.rejoinMark && s.disp.mode == .run && decide (n ≤ s.link.rejoinCount)

/-- The end of a rejoin (R160). -/
def rejoin (s : State) : State :=
  reportLinkState .detached causeRejoin 0 0
    (setLink { s.link with tec := 0, rec_ := 0, state := .active, rejoinMark := false, rejoinCount := 0,
                           engagement := .onBus, lineFree := true } s)

/-! ### Orders, cancels and modes (R163, R164, R169-R172) -/

def putLinkConfig (s : State) : State := putWords (wordsAt 0x158 s.link.config.words) s

/-- LINK_CONFIG as taken in slot `i` (R169). -/
def takeLinkConfig (i : Nat) (args : List Byte) (s : State) : State :=
  if s.disp.mode = .run then completeWith i .wrongMode [] s
  else match firstFault (linkConfigFaults args) with
    | some f => completeWith i .badArgument [word f] s
    | none =>
      let c := linkConfigOf args
      let begins := c.autoRejoin && !s.link.config.autoRejoin && s.link.state == .detached
      completeOk i [] (putLinkConfig
        (setLink { s.link with config := c, addressSeen := false, rejoinMark := s.link.rejoinMark || begins,
                               rejoinCount := if begins then 0 else s.link.rejoinCount } s))

/-- LINK_REJOIN as taken in slot `i` (R170). -/
def takeLinkRejoin (i : Nat) (s : State) : State :=
  if s.disp.mode = .setup then completeWith i .wrongMode [] s
  else
    let s := if s.link.state = .detached ∧ s.link.rejoinMark = false then
        setLink { s.link with rejoinMark := true, rejoinCount := 0 } s
      else s
    completeOk i [word s.link.state.code, word s.link.tec, word s.link.rec_, word s.link.rejoinCount] s

/-- A CANCEL for the slot of a RUNNING LINK_SEND (R164). -/
def cancelLinkSend (choose : State → State) (i : Nat) (s : State) : State :=
  match (List.range 3).find? fun h => (s.hold h).state != .empty && (s.hold h).origin == .slot i with
  | none => s
  | some h =>
    if (s.hold h).state = .pending then emptyHold choose h .cancelled [] s
    else setHold h { s.hold h with cancelMark := true } s

/-- A SETUP request is pending (R172). -/
def linkSetupPending (s : State) : State := answerNotSending (setLink { s.link with inhibit := true } s)

/-- The SETUP request is withdrawn (R172). -/
def linkSetupWithdrawn (s : State) : State := setLink { s.link with inhibit := false } s

/-- The mode becomes SETUP (R171). The 24 recessive bits that a QUIET node owes after a message of its own (R151) are dropped
here by the model's choice (log 63). -/
def linkModeSetup (s : State) : State :=
  setLink { s.link with engagement := .offBus, receiving := false, inhibit := false, lineFree := false,
                        justSent := false, errorMark := none } s

/-- The mode becomes RUN (R171). -/
def linkModeRun (s : State) : State :=
  setLink { s.link with engagement := if s.link.config.loopback then .onBus else .awaitingIdle, lineFree := false } s

/-- The link controller after a soft reset (R174). -/
def Link.softReset (l : Link) : Link :=
  { Link.reset with config := l.config, tec := l.tec, rec_ := l.rec_, state := linkStateOf l.tec l.rec_ l.state,
                    rejoinMark := l.config.autoRejoin && linkStateOf l.tec l.rec_ l.state == .detached }

end Sys2Proof.Machine
end

