-- ==== Sys2Proof/Machine/SceneCore.lean ====
section
/-! DEFINITION. The scene unit (chapter 3) but for the swap and the end of a lean fade: requests, loads, cuts, fades,
the set list. -/

namespace Sys2Proof.Machine

def setScene (u : SceneUnit) (s : State) : State := { s with scene := u }

def State.bankCtl (s : State) (k : BankId) : BankControl := s.scene.banks.get k

def setBankCtl (k : BankId) (x : BankControl) (s : State) : State :=
  setScene { s.scene with banks := s.scene.banks.set k x } s

def setSceneState (x : SceneState) (s : State) : State := setScene { s.scene with state := x } s
def setLatch (x : Option Request) (s : State) : State := setScene { s.scene with latch := x } s

/-- The active scene: the LIVE bank's (R50). -/
def State.activeScene (s : State) : Option Nat := s.liveBank.bind fun k => (s.bankCtl k).scene

/-- FETCHING to PREPARING (R60). -/
def SceneState.isLoading : SceneState → Bool
  | .fetching => true
  | .allocating => true
  | .zeroing => true
  | .preparing => true
  | _ => false

/-! ### Completions of requests (R53, R59, R64) -/

/-- A request's slot, when its origin is one. -/
def Request.slot (r : Request) : Option Nat :=
  match r.origin with
  | .slot i => some i
  | _ => none

def completeSlot (i : Option Nat) (code : ResultCode) (flags : ResultFlags) (words : List Word) (s : State) : State :=
  match i with
  | none => s
  | some i => complete i code flags words s

/-- A request replaced: its order, and its attached load, are SUPERSEDED (R53). -/
def supersede (r : Request) (s : State) : State :=
  completeSlot r.attached .superseded ResultFlags.none [] (completeSlot r.slot .superseded ResultFlags.none [] s)

def RequestKind.code : RequestKind → Nat
  | .go => 0
  | .load => 1

def sceneFailedReport (r : Request) (code : ResultCode) (words : List Word) (time : Long) : Report :=
  { kind := 3, flags := 0, source := r.origin.source, time := time,
    detail := [bytePair r.scene code.code, bytePair r.kind.code 0] ++ fourWords words }

def bankWord (k : BankId) : Word := word (bankNumber k)

/-- A SCENE_LOAD completes OK with its bank (R57, R64). -/
def completeLoad (i : Option Nat) (r : Request) (k : BankId) (s : State) : State :=
  completeSlot i .ok { ResultFlags.none with trailCut := r.trailCut } [word r.scene, bankWord k] s

/-! ### Abandon, fetch, fail (R51, R55, R58, R59) -/

/-- A bank emptied: blocks, users and queued zeroing returned, and its data released (R51, R58, R71, R73). -/
def emptyBank (k : BankId) (release : Bool) (s : State) : State :=
  let s := setBankCtl k BankControl.reset (freeBank k s)
  if release then sendBankRequest (.release k) s else s

/-- The load is abandoned (R58): a CUTTING bank finishes its cut, any other is emptied. -/
def abandonLoad (s : State) : State :=
  let k := s.loadBank
  let s1 := match (s.bankCtl k).state with
    | .loading => emptyBank k s.scene.fillSent s
    | .ready => emptyBank k true s
    | _ => s
  setScene { s1.scene with record := none, cabs := [], fillSent := false } s1

/-- FETCHING begins for a request already in the latch (R55). -/
def beginFetch (scene : Nat) (s : State) : State :=
  let k := s.loadBank
  let s1 := if (s.bankCtl k).state = .cutting then s
    else setBankCtl k { BankControl.reset with state := .loading, scene := some scene } s
  let serial := s1.scene.serial + 1
  askBurst (.sceneFetch scene serial)
    (setScene { s1.scene with state := .fetching, serial := serial, record := none, cabs := [], fillSent := false } s1)

/-- A bank becomes CUTTING; the cut's first frame is the next the lane engine plays (R73; log 20). -/
def startCut (k : BankId) (s : State) : State :=
  setBankCtl k { s.bankCtl k with state := .cutting, cutFrom := if s.opened then s.frames else s.frames + 1 } s

/-- ARMED (R67). -/
def enterArmed (s : State) : State :=
  setScene { s.scene with state := .armed, quantMark := false, armedAt := s.frames } s

/-- A load fails (R59). -/
def failLoad (code : ResultCode) (words : List Word) (s : State) : State :=
  let k := s.loadBank
  let s1 := if (s.bankCtl k).state = .loading then setBankCtl k BankControl.reset s else s
  let s2 := setScene { s1.scene with state := .idle, latch := none, record := none, cabs := [], fillSent := false,
                                     leanLoad := false } s1
  match s.scene.latch with
  | none => s2
  | some r =>
    let s3 := match r.origin with
      | .slot i => completeWith i code words s2
      | .preload => appendReport (sceneFailedReport r code words s.frameCounter)
          (setScene { s2.scene with preloadMark := false } s2)
      | _ => appendReport (sceneFailedReport r code words s.frameCounter) s2
    completeSlot r.attached code ResultFlags.none words s3

/-! ### Taking a request (R54, R55, R60-R62) -/

/-- A GO for the LIVE scene, but for that of a SCENE_SWAP, is done at once in IDLE (R54, R65). -/
def State.doneAtOnce (s : State) (r : Request) : Bool := r.kind == .go && !r.reswap && s.activeScene == some r.scene

/-- The words of a SCENE_GO that made no swap (R210). -/
def noSwapWords (scene : Nat) (k : Option BankId) : List Word := [word scene, bankWord (k.getD .a), 0xFFFF]

/-- A request taken as in IDLE, with an empty latch (R54, R55). -/
def takeInIdle (r : Request) (s0 : State) : State :=
  let s := setScene { s0.scene with state := .idle, latch := none, leanLoad := s0.scene.leanLoad && r.lean } s0
  if s.doneAtOnce r then
    completeSlot r.attached .superseded ResultFlags.none []
      (completeSlot r.slot .ok ResultFlags.none (noSwapWords r.scene s.liveBank) s)
  else
    let k := s.loadBank
    let c := s.bankCtl k
    match c.state with
    | .ready =>
      if c.scene = some r.scene then
        match r.kind with
        | .go => enterArmed (setLatch (some r) s)
        | .load => completeLoad r.slot r k s
      else beginFetch r.scene (setLatch (some r) (emptyBank k true s))
    | .trailing => beginFetch r.scene (setLatch (some { r with trailCut := true }) (startCut k s))
    | _ => beginFetch r.scene (setLatch (some r) s)

/-- The new request over the old for the same scene: the marks stay with the load, and an attached load carries over to
a GO (R53, R60). -/
def Request.over (new old : Request) : Request :=
  { new with trailCut := old.trailCut, lean := old.lean && new.kind == .go,
             attached := if new.kind = .go then old.attached else none }

/-- Completions of the request that a new one replaces; its attached load carries over to a GO for the same scene. -/
def endReplaced (new old : Request) (s : State) : State :=
  let s := completeSlot old.slot .superseded ResultFlags.none [] s
  if new.kind = .go ∧ new.scene = old.scene then s
  else completeSlot old.attached .superseded ResultFlags.none [] s

/-- The work in progress abandoned for a request of another scene (R60, R61). -/
def replaceWork (new old : Request) (s : State) : State :=
  takeInIdle { new with lean := s.scene.leanLoad && new.kind == .go } (supersede old (abandonLoad s))

/-- A request that passes its checks while the scene unit is loading (R60). -/
def takeWhileLoading (new old : Request) (s : State) : State :=
  if new.scene = old.scene then
    match old.kind, new.kind with
    | .load, .go => setLatch (some { new.over old with attached := old.slot }) s
    | .go, .load =>
      match new.slot with
      | none => s
      | some i => setLatch (some { old with attached := some i }) (completeSlot old.attached .superseded ResultFlags.none [] s)
    | _, _ => setLatch (some (new.over old)) (endReplaced new old s)
  else replaceWork new old s

/-- A request that passes its checks while ARMED (R61). -/
def takeWhileArmed (new old : Request) (s : State) : State :=
  if new.scene = old.scene then
    match new.kind with
    | .go =>
      let s := endReplaced new old s
      setScene { s.scene with latch := some (new.over old), quantMark := false } s
    | .load => completeLoad new.slot old s.loadBank s
  else replaceWork new old s

/-- A request that waits in the latch during FADING (R62) or LEAN_EMPTYING (R75). The LEAN mark passes to a new GO; the
mark TRAIL_CUT, of which R75 does not speak, does not pass (log 50). -/
def takeIntoLatch (new : Request) (s : State) : State :=
  let lean := s.scene.state == .leanEmptying && new.kind == .go
  match s.scene.latch with
  | none => setLatch (some { new with lean := lean }) s
  | some old =>
    let carried := if new.kind = .go ∧ new.scene = old.scene then old.attached else none
    setLatch (some { new with lean := lean, attached := carried }) (endReplaced new old s)

/-- A request that passes its checks, taken by the state of the scene unit (R54). -/
def takeRequest (r : Request) (s0 : State) : State :=
  let s := if r.origin = .preload then s0 else setScene { s0.scene with preloadMark := false } s0
  match s.scene.state with
  | .idle => takeInIdle r s
  | .fading => takeIntoLatch r s
  | .leanEmptying =>
    let s := takeIntoLatch r s
    setScene { s.scene with lean := s.scene.lean.map fun x => { x with replaced := true } } s
  | .armed =>
    match s.scene.latch with
    | none => takeInIdle r s
    | some old => takeWhileArmed r old s
  | _ =>
    match s.scene.latch with
    | none => takeInIdle r s
    | some old => takeWhileLoading r old s

/-- Whether a GO for a scene completes at once when it is taken now: in IDLE, or after the abandon of another scene's
work (R54, R60). -/
def State.goAtOnce (s : State) (r : Request) : Bool :=
  s.doneAtOnce r && match s.scene.state with
    | .idle => true
    | .fading => false
    | .leanEmptying => false
    | _ => match s.scene.latch with
      | none => true
      | some old => old.scene != r.scene

def newRequest (kind : RequestKind) (scene : Nat) (override : Option Profile) (origin : Origin) : Request :=
  ⟨kind, scene, override, origin, none, false, false, false⟩

/-! ### Loading (R49, R56, R57) -/

/-- Fill and prepare sent; PREPARING (R57). -/
def sendFill (s : State) : State :=
  match s.scene.record with
  | none => s
  | some r =>
    let k := s.loadBank
    let s1 := sendBankRequest (.prepare k) (sendBankRequest (.fill k r s.scene.cabs) s)
    let s2 := setBankCtl k { s1.bankCtl k with profile := r.profile, tailHold := r.tailHold } s1
    setScene { s2.scene with state := .preparing, preparingAt := s.frames, fillSent := true, record := none, cabs := [] } s2

/-- A lean switch begins (R74). -/
def startLean (r : Request) (d : Profile) (s : State) : State :=
  let p := r.profile d
  setScene { s.scene with state := .leanEmptying, latch := some { r with lean := true },
                          lean := some ⟨s.frames + 1, if p.mode = .cut then 1 else p.f, false⟩ } s

/-- The blocks the LIVE bank holds. -/
def State.liveBlocks (s : State) : Nat :=
  match s.liveBank with
  | none => 0
  | some k => s.lines.bankBlocks k

/-- The allocate request and its answer (R56). -/
def allocateLoad (s : State) : State :=
  match s.scene.record, s.scene.latch with
  | some rec', some r =>
    let a := s.lines.allocate s.loadBank rec'.needs
    let s1 := setLines a.1 s
    match a.2 with
    | .ok cabs tookNone =>
      let s2 := setScene { s1.scene with state := .zeroing, cabs := cabs } s1
      if tookNone then sendFill s2 else s2
    | .missingImpulse ln p id => failLoad .missingImpulse [word (laneNumber ln), word p, word id] s1
    | .noLineMemory needed free =>
      if r.kind = .go ∧ r.origin ≠ .preload ∧ s.scene.leanLoad = false ∧ needed ≤ free + s.liveBlocks then
        startLean r rec'.profile s1
      else failLoad .noLineMemory [word needed, word free] s1
  | _, _ => s

/-- ALLOCATING: the request goes out once the load bank is LOADING (R56). -/
def enterAllocating (s : State) : State :=
  let s := setSceneState .allocating s
  if (s.bankCtl s.loadBank).state = .loading then allocateLoad s else s

/-- The checks of R49 on directory entry and record as a memory holds them: the record, or the failure. -/
def fetchCheck (m : Memory) (scene : Nat) : Except (ResultCode × List Word) SceneRecord :=
  let offset := (m.readWord (0x4000 + 4 * scene)).toNat
  let length := (m.readWord (0x4002 + 4 * scene)).toNat
  if length = 0 then .error (.emptyEntry, [])
  else if 1024 < length ∨ offset < 0x4100 ∨ 0xFFFF < offset + length - 1 then .error (.badRecord, [0])
  else
    let l := m.bytes offset length
    if length < 48 ∨ wordAt l 0 ≠ length then .error (.badRecord, [0])
    else match recordWalk l length with
      | .error f => .error (.badRecord, [word f])
      | .ok r => if 1960 < r.cost then .error (.overBudget, [word r.cost]) else .ok r

/-- The end of the fetch (R49); a fetch the scene unit no longer waits for is not used. -/
def fetchEnd (m : Memory) (scene serial : Nat) (s : State) : State :=
  if s.scene.state = .fetching ∧ s.scene.serial = serial then
    match fetchCheck m scene with
    | .error e => failLoad e.1 e.2 s
    | .ok r => enterAllocating (setScene { s.scene with record := some r } s)
  else s

/-- A zeroed answer (R57); one for a bank that is not being loaded is ignored (R39). -/
def zeroedAnswer (s : State) : State :=
  match s.lines.answers with
  | [] => s
  | k :: rest =>
    let s := setLines { s.lines with answers := rest } s
    if s.scene.state = .zeroing ∧ k = s.loadBank then sendFill s else s

def State.prepareDue (s : State) : Bool := s.scene.state == .preparing && decide (s.scene.preparingAt + 2 ≤ s.frames)

/-- The load bank becomes READY (R57). -/
def prepareDone (s : State) : State :=
  match s.scene.latch with
  | none => s
  | some r =>
    let k := s.loadBank
    let s := setBankCtl k { s.bankCtl k with state := .ready } s
    match r.kind with
    | .load => completeLoad r.slot r k (setScene { s.scene with state := .idle, latch := none } s)
    | .go => completeLoad r.attached r k (enterArmed (setLatch (some { r with attached := none }) s))

/-! ### Trails and cuts (R73) -/

def State.trailDue (s : State) (k : BankId) : Bool :=
  (s.bankCtl k).state == .trailing && decide ((s.bankCtl k).trailEnd ≤ s.frames)

def State.cutDue (s : State) (k : BankId) : Bool :=
  (s.bankCtl k).state == .cutting && decide ((s.bankCtl k).cutFrom + 16 ≤ s.frames)

/-- The end of a cut (R73). -/
def cutEnd (k : BankId) (s : State) : State :=
  let s1 := emptyBank k true s
  match s1.scene.latch with
  | none => s1
  | some r =>
    if k = s1.loadBank ∧ (s1.scene.state = .fetching ∨ s1.scene.state = .allocating) then
      let s2 := setBankCtl k { BankControl.reset with state := .loading, scene := some r.scene } s1
      if s2.scene.state = .allocating then allocateLoad s2 else s2
    else s1

/-! ### The fade (R70-R72) -/

/-- The fade's end (R70). -/
def Fade.endAt (f : Fade) : Nat :=
  match f.oldBank, f.mode with
  | none, _ => f.swapAt + f.f
  | some _, .blend => f.swapAt + f.f
  | some _, _ => f.swapAt + 2 * f.f + f.g

def State.fadeOutDue (s : State) : Bool :=
  match s.scene.fade with
  | none => false
  | some f =>
    match f.oldBank with
    | none => false
    | some k => (s.bankCtl k).state == .outgoing && decide (f.swapAt + f.f ≤ s.frames)

def State.gapFadeInDue (s : State) : Bool :=
  match s.scene.fade with
  | none => false
  | some f => f.heldBack && decide (f.swapAt + f.f + f.g ≤ s.frames)

def State.fadeEndDue (s : State) : Bool :=
  match s.scene.fade with
  | none => false
  | some f => s.scene.state == .fading && decide (f.endAt ≤ s.frames)

/-- The held-back bank starts to run (R70). -/
def gapFadeIn (s : State) : State :=
  setScene { s.scene with fade := s.scene.fade.map fun f => { f with heldBack := false } } s

/-- The old bank's fade-out ends (R71). A trailing bank's gain stands at 1000 from there on (log 44). -/
def fadeOutEnd (s : State) : State :=
  match s.scene.fade with
  | none => s
  | some f =>
    match f.oldBank with
    | none => s
    | some k =>
      if f.trailsKept then
        let c := s.bankCtl k
        let s := setBankCtl k { c with state := .trailing, trailEnd := s.frames + c.tailHold } (freeUntrailed k s)
        setBanks (s.lane.banks.set k { s.lane.banks.get k with gain := 1000 }) s
      else emptyBank k true s

def Fade.flags (f : Fade) : ResultFlags :=
  { ResultFlags.none with fadeDowngraded := f.downgraded, trailDropped := f.trailDropped, trailCut := f.owner.trailCut,
                          lean := f.owner.lean }

/-- The owner of a fade that ends (R72). `choose` is the dispatcher's next choice for the scene unit, the last part of a
completion (R195); what it hands over here waits in the latch, as R62 lets a request that arrives with the fade's end. -/
def Fade.endOwner (choose : State → State) (f : Fade) (s : State) : State :=
  match f.owner.origin with
  | .slot i => choose (complete i .ok f.flags [word f.owner.scene, bankWord f.newBank, word f.mode.code] s)
  | .setList _ => setScene { s.scene with preloadMark := s.scene.preloadMark || s.scene.setList.preload } s
  | _ => s

/-- The fade ends (R72); the preload check follows at the end of the event. -/
def fadeEnd (choose : State → State) (s : State) : State :=
  match s.scene.fade with
  | none => s
  | some f =>
    let s1 := f.endOwner choose s
    let s2 := setScene { s1.scene with state := .idle, fade := none } s1
    match s2.scene.latch with
    | none => s2
    | some r => takeRequest r (setLatch none s2)

/-! ### The set list (R77-R79) -/

/-- The end of the set-list copy for slot `i` (R77). -/
def setListCopied (m : Memory) (i : Nat) (s : State) : State :=
  let l := m.bytes 0x1500 68
  let count := byteAt l 0
  let entries := (List.range count).map fun n => wordAt l (4 + 2 * n)
  if 32 < count ∨ entries.any (fun e => decide (63 < e)) = true then completeWith i .badArgument [] s
  else
    completeOk i [word count]
      (setScene { s.scene with setList := ⟨count, bitsOf (byteAt l 1) 0 1 == 1, bitsOf (byteAt l 1) 1 1 == 1, entries⟩,
                               cursor := 0, preloadMark := false } s)

/-- Where a move lands, or its refusal (R78). -/
def SetList.move (l : SetList) (cursor : Nat) (absolute : Bool) (v : Int) : Except ResultCode Nat :=
  if l.count = 0 then .error .emptyEntry
  else
    let t : Int := if absolute then v else cursor + v
    if 0 ≤ t ∧ t < l.count then .ok t.toNat
    else if absolute = false ∧ l.wrap = true then .ok (t % l.count).toNat
    else .error .badArgument

/-- A move taken: the cursor, and the GO for the entry there (R78). -/
def moveCursor (n : Nat) (s : State) : State :=
  takeRequest (newRequest .go (s.scene.setList.entries.getD n 0) none (.setList n))
    (setScene { s.scene with cursor := n } s)

/-- The entry after the cursor (R79). -/
def SetList.next (l : SetList) (cursor : Nat) : Option Nat :=
  if cursor + 1 < l.count then some (cursor + 1) else if l.wrap ∧ 0 < l.count then some 0 else none

/-- The preload check (R79). -/
def preloadCheck (s : State) : State :=
  if s.scene.state = .idle ∧ s.scene.latch = none ∧ s.scene.preloadMark = true ∧
      (s.bankCtl s.loadBank).state = .empty then
    let s1 := setScene { s.scene with preloadMark := false } s
    match s.scene.setList.next s.scene.cursor with
    | none => s1
    | some n =>
      let scene := s.scene.setList.entries.getD n 0
      if s.activeScene = some scene then s1 else takeRequest (newRequest .load scene none .preload) s1
  else s

/-! ### Orders and cancels (R63-R65, R78) -/

/-- The fade override of a scene order, and its faults (R209). -/
def overrideFaults (args : List Byte) : List (Nat × Bool) :=
  [(1, decide (1 < byteAt args 1))] ++ if byteAt args 1 = 1 then profileFaults args 2 else []

def overrideAt (args : List Byte) : Option Profile := if byteAt args 1 = 1 then some (profileAt args 2) else none

def takeSceneGo (i : Nat) (args : List Byte) (s : State) : State :=
  if 63 < byteAt args 0 ∨ (firstFault (overrideFaults args)).isSome = true then completeWith i .badArgument [] s
  else takeRequest (newRequest .go (byteAt args 0) (overrideAt args) (.slot i)) s

def takeSceneLoad (i : Nat) (args : List Byte) (s : State) : State :=
  if 63 < byteAt args 0 then completeWith i .badArgument [] s
  else takeRequest (newRequest .load (byteAt args 0) none (.slot i)) s

/-- SCENE_SWAP (R65). -/
def takeSceneSwap (i : Nat) (args : List Byte) (s : State) : State :=
  let c := s.bankCtl s.loadBank
  if (firstFault (overrideFaults args)).isSome then completeWith i .badArgument [] s
  else if c.state = .ready ∧ (s.scene.state = .idle ∨ s.scene.state = .armed) then
    takeRequest { newRequest .go (c.scene.getD 0) (overrideAt args) (.slot i) with reswap := true } s
  else completeWith i .notReady [] s

/-- SETLIST_LOAD: its copy is asked for (R77). -/
def takeSetlistLoad (i : Nat) (s : State) : State := askBurst (.setlistCopy i) s

/-- SETLIST_MOVE (R78, R209). -/
def takeSetlistMove (i : Nat) (args : List Byte) (s : State) : State :=
  let how := byteAt args 0
  let v := signedAt args 2
  if 1 < how ∨ (how = 0 ∧ outsideInt v (-31) 31 = true) then completeWith i .badArgument [] s
  else match s.scene.setList.move s.scene.cursor (how == 1) v with
    | .error c => completeWith i c [] s
    | .ok n => completeOk i [word n, word (s.scene.setList.entries.getD n 0)] (moveCursor n s)

/-- A CANCEL for the slot of a RUNNING scene order (R63). It is too late while the unit loads for a lean switch, which is
FETCHING to PREPARING (R60, R76); in ARMED it abandons a lean load like any other. -/
def cancelScene (i : Nat) (s : State) : State :=
  match s.scene.latch with
  | none => s
  | some r =>
    if r.attached = some i then completeWith i .cancelled [] (setLatch (some { r with attached := none }) s)
    else if r.slot = some i then
      if s.scene.state = .fading then completeWith i .cancelled [] (setLatch none s)
      else if (s.scene.state.isLoading = true ∧ s.scene.leanLoad = false) ∨ s.scene.state = .armed then
        let s := abandonLoad s
        let s := setScene { s.scene with state := .idle, latch := none, leanLoad := false } s
        completeSlot r.attached .superseded ResultFlags.none [] (completeWith i .cancelled [] s)
      else s
    else s

/-! ### What the scene unit sets at a boundary (R50, R70, R73, R74) -/

/-- The LIVE bank's gain target for the frame that begins at boundary `n`. -/
def State.liveGain (s : State) (n : Nat) : Nat :=
  match s.scene.state, s.scene.fade, s.scene.lean with
  | .fading, some f, _ =>
    if f.heldBack then 0
    else
      let from' := if f.oldBank = none ∨ f.mode = .blend then f.swapAt else f.swapAt + f.f + f.g
      min 1000 (1000 * (n - from' + 1) / f.f)
  | .leanEmptying, _, some l => if n < l.first then 1000 else 1000 - 1000 * (n - l.first + 1) / l.f
  | _, _, _ => 1000

/-- What the scene unit sets for a bank at the boundary that now stands. -/
def State.bankPlay (s : State) (k : BankId) : BankPlay :=
  let c := s.bankCtl k
  match c.state with
  | .live =>
    let held := match s.scene.fade with | some f => f.heldBack | none => false
    ⟨if held then .held else .full, .laneOut, s.liveGain s.frames⟩
  | .outgoing =>
    match s.scene.fade with
    | none => ⟨.full, .laneOut, 0⟩
    | some f => ⟨.full, if f.trailsKept then .trailInput else .laneOut, 1000 - 1000 * (s.frames - f.swapAt + 1) / f.f⟩
  | .trailing => ⟨.trails, .laneOut, 1000⟩
  | .cutting => ⟨.trails, .laneOut, 1000 - 1000 * (s.frames + 1 - c.cutFrom) / 16⟩
  | _ => ⟨.held, .laneOut, 0⟩

/-- The scene unit after a soft reset (R81). -/
def SceneUnit.softReset (u : SceneUnit) : SceneUnit := { SceneUnit.reset with setList := u.setList }

end Sys2Proof.Machine
end

