-- ==== Sys2Proof/Machine/Binding.lean ====
section
/-! DEFINITION. The binding unit's tables (chapter 7): matching, spans, BIND_LOAD, the none-live notice; and the bound pairs
that the tables give the switch scanner (R120). What an entry does when it fires is in Firing.lean. -/

namespace Sys2Proof.Machine

def setBind (b : BindingUnit) (s : State) : State := { s with bind := b }

/-- The local bindings in view (R131). -/
def State.localEntries (s : State) : List (Option Entry) :=
  match s.bind.view with
  | none => []
  | some k => (s.lane.banks.get k).bindings

/-! ### Matching (R134, R135) -/

def Trigger.hits (t : Trigger) (e : ControlEvent) : Bool :=
  match t, e with
  | .press n, .press m => n == m
  | .release n, .release m => n == m
  | .hold n, .hold m => n == m
  | .rept n, .rept m => n == m
  | .chord x y, .chord u v => (x == u && y == v) || (x == v && y == u)
  | .pedal p, .pedal q _ => p == q
  | .link code mask first, .link _ _ m =>
    Nat.land m.topic mask == Nat.land code mask &&
      (match first with
      | none => true
      | some x => decide (1 ≤ m.length) && m.payload.head? == some x)
  | _, _ => false

/-- The first entry of a table that an event matches. -/
def firstMatch (e : ControlEvent) (l : List (Option Entry)) : Option (Nat × Entry) :=
  (l.zipIdx.filterMap fun x => x.1.bind fun y => if y.trigger.hits e then some (x.2, y) else none).head?

/-- The firing entry: the local view first, then the global table (R135). -/
def State.lookup (s : State) (e : ControlEvent) : Option (EntryRef × Entry) :=
  match firstMatch e s.localEntries with
  | some x => some (⟨.localTable, x.1⟩, x.2)
  | none => (firstMatch e s.bind.global).map fun x => (⟨.globalTable, x.1⟩, x.2)

/-! ### Spans (R139) -/

/-- An entry's span against the LIVE bank. -/
def State.resolveSpan (s : State) (e : Option Entry) : Span :=
  match e with
  | none => none
  | some e =>
    match e.action with
    | .paramFromPedal lane p index lo hi =>
      match s.findStage lane p with
      | .error _ => none
      | .ok (_, _, x) =>
        (x.settable index).map fun r => (clampInt r.min r.max lo, clampInt r.min r.max hi)
    | _ => none

def State.resolveAll (s : State) (l : List (Option Entry)) : List Span := l.map s.resolveSpan

def State.spanOf (s : State) (r : EntryRef) : Span :=
  match r.table with
  | .localTable => s.bind.localSpans.getD r.index none
  | .globalTable => s.bind.globalSpans.getD r.index none

/-- lo + (hi - lo) * v / 1000, rounded to the nearest whole number, halves upward (R139). -/
def pedalTarget (lo hi : Int) (v : Nat) : Int := lo + ((hi - lo) * v * 2 + 1000) / 2000

/-! ### Bound pairs (R120) -/

def chordPair (e : Option Entry) : Option (Nat × Nat) :=
  match e with
  | none => none
  | some e =>
    match e.trigger with
    | .chord x y => if x = y then none else some (min x y, max x y)
    | _ => none

/-- The bound pairs of the local view and the global table. -/
def State.pairsNow (s : State) : List (Nat × Nat) := ((s.localEntries ++ s.bind.global).filterMap chordPair).dedup

def derivePairs (s : State) : State := { s with scanner := { s.scanner with pairs := s.pairsNow } }

/-! ### Scene changes and BIND_LOAD (R143, R144) -/

/-- The none-live notice at the binding unit (R143). -/
def bindNoneLive (s : State) : State :=
  setBind { s.bind with view := none, localSpans := [], globalSpans := s.bind.global.map fun _ => none } s

/-- BIND_LOAD: its copy is asked for (R144). -/
def takeBindLoad (i : Nat) (s : State) : State := askBurst (.bindingCopy i) s

/-- The end of the binding copy for slot `i` (R144). -/
def bindingCopied (m : Memory) (i : Nat) (s : State) : State :=
  let l := m.bytes 0x1200 768
  match (List.range 48).find? fun e => (firstFault (entryFaults l (16 * e))).isSome with
  | some e => completeWith i .badArgument [word e] s
  | none =>
    let g := (List.range 48).map fun e => entryAt l (16 * e)
    let s := setBind { s.bind with global := g } s
    let s := derivePairs (setBind { s.bind with globalSpans := s.resolveAll g } s)
    completeOk i [word (g.filter Option.isSome).length] s

/-- The binding unit after a soft reset (R146). -/
def BindingUnit.softReset (b : BindingUnit) : BindingUnit :=
  ⟨b.global, none, b.global.map fun _ => none, [], 0⟩

end Sys2Proof.Machine
end

