-- ==== Sys2Proof/Machine/Switch.lean ====
section
/-! DEFINITION. The switch scanner's lines (chapter 6): debouncing, timers, configuration, modes. The events that reach the
binding unit, and the chords, are in FloorEvents.lean. -/

namespace Sys2Proof.Machine

def setScanner (x : Scanner) (s : State) : State := { s with scanner := x }
def State.line (s : State) (n : Nat) : Line := s.scanner.lines.getD n Line.reset
def setLine (n : Nat) (x : Line) (s : State) : State := setScanner { s.scanner with lines := putAt 8 n x Line.reset s.scanner.lines } s

/-- A line's sample under a polarity: true for ACTIVE (R113). -/
def lineSample (c : LineConfig) (pins : BitVec 8) (n : Nat) : Bool := pins.getLsbD n == c.activeHigh

/-- All the timers of a line stopped. -/
def Line.stopTimers (x : Line) : Line := { x with settle := none, hold := none, rept := none }

/-! ### Debounced changes and timers (R113-R118) -/

def Line.debounceDue (x : Line) : Bool :=
  x.state != .off && decide (0 < x.config.debounce) && decide (x.config.debounce ≤ x.run)

def Line.holdStart (x : Line) : Option Nat := if x.config.holdTime = 0 then none else some x.config.holdTime

def Line.settleDue (x : Line) : Bool := x.state == .settling && x.settle == some 0 && !x.debounceDue

/-- The end of a line's settle: its reference decides (R114). -/
def settleEnd (n : Nat) (s : State) : State :=
  let x := s.line n
  if x.settleDue then
    let next := match x.config.mode with
      | .latching => LineState.watching
      | _ => if x.level then .blocked else .up
    setLine n { x with state := next, settle := none } s
  else s

def Line.holdDue (x : Line) : Bool := x.state == .down && x.hold == some 0 && !x.debounceDue

def Line.reptDue (x : Line) : Bool := x.state == .held && x.rept == some 0 && !x.debounceDue

/-- The chord window ends with no chord formed (R121). At its last boundary every line's debounced change comes first, that of
a line which is no partner of the waiting one too: the model's choice (log 76). -/
def State.windowDue (s : State) : Bool :=
  match s.scanner.waiting with
  | none => false
  | some w => w.left == 0 && !s.scanner.lines.any Line.debounceDue

/-- One boundary of a line: its debounce count, then its timers (R113, R114). -/
def Line.tick (pins : BitVec 8) (n : Nat) (x : Line) : Line :=
  if x.state = .off then x
  else
    { x with run := if lineSample x.config pins n = x.level then 0 else min 31 (x.run + 1),
             settle := x.settle.map (· - 1), hold := x.hold.map (· - 1), rept := x.rept.map (· - 1) }

/-- One boundary of the scanner; what falls due are events of their own. -/
def scannerFrame (pins : BitVec 8) (s : State) : State :=
  setScanner { s.scanner with lines := s.scanner.lines.zipIdx.map fun x => x.1.tick pins x.2, pins := pins,
                              waiting := s.scanner.waiting.map fun w => { w with left := w.left - 1 } } s

/-! ### Configuration and modes (R114, R115, R128, R130) -/

/-- A line under a new configuration (R128). A line that becomes OFF keeps its debounced level (log 10), and its run count is 0
(log 77): the model's choices. -/
def Line.configure (pins : BitVec 8) (n : Nat) (c : LineConfig) (x : Line) : Line :=
  if c.mode = .off then { x.stopTimers with config := c, state := .off, run := 0 }
  else { x.stopTimers with config := c, state := .standby, level := lineSample c pins n, run := 0 }

/-- The mode becomes SETUP (R115). -/
def Line.standby (x : Line) : Line := if x.state = .off then x else { x.stopTimers with state := .standby }

def scannerModeSetup (s : State) : State :=
  setScanner { s.scanner with lines := s.scanner.lines.map Line.standby, waiting := none, chord := none } s

/-- The part enters RUN (R114). -/
def Line.beginSettle (x : Line) : Line :=
  if x.state = .standby then { x with state := .settling, settle := some 20 } else x

def scannerModeRun (s : State) : State :=
  setScanner { s.scanner with lines := s.scanner.lines.map Line.beginSettle } s

/-- The scanner after a soft reset, but for the pairs (R130). -/
def Scanner.softReset (x : Scanner) : Scanner :=
  { x with lines := x.lines.zipIdx.map fun y => y.1.configure x.pins y.2 y.1.config, waiting := none, chord := none }

end Sys2Proof.Machine
end

