-- ==== Sys2Proof/Machine/Pedal.lean ====
section
/-! DEFINITION. The pedal converter (chapter 6), and CONTROL_CONFIG, which both blocks share (R128). -/

namespace Sys2Proof.Machine

def State.pedal (s : State) (p : Nat) : Pedal := s.pedals.getD p Pedal.reset
def setPedal (p : Nat) (x : Pedal) (s : State) : State := { s with pedals := putAt 2 p x Pedal.reset s.pedals }

/-- The value of a position reading (R124). -/
def PedalConfig.value (c : PedalConfig) (raw : Nat) : Nat :=
  (clampInt 0 1000 (Int.tdiv (((raw : Int) - c.heel) * 1000) ((c.toe : Int) - c.heel))).toNat

/-- SETTLING with four readings to discard (R125). -/
def Pedal.beginSettle (x : Pedal) : Pedal := { x with state := .settling, discard := 4 }

/-- A value that gives a PEDAL event (R126). -/
def Pedal.gives (x : Pedal) (v : Nat) : Bool :=
  decide (x.config.deadband ≤ ((v : Int) - x.lastEvent).natAbs) || ((v == 0 || v == 1000) && v != x.lastEvent)

/-- A used reading of a READY pedal, and whether it gives an event (R125, R126). -/
def Pedal.use (x : Pedal) (v : Nat) (running : Bool) : Pedal × Bool :=
  if x.used then
    if running && x.gives v then ({ x with value := v, lastEvent := v }, true) else ({ x with value := v }, false)
  else ({ x with value := v, lastEvent := v, used := true }, false)

/-- A reading of an enabled pedal, and the value of the event it gives (R124-R127). -/
def Pedal.reading (x : Pedal) (raw : Nat) (running : Bool) : Pedal × Option Nat :=
  if 1020 < raw then ({ x with raw := raw, high := min 25 (x.high + 1), low := 0 }, none)
  else
    let y := { x with raw := raw, high := 0, low := min 25 (x.low + 1) }
    match y.state with
    | .settling => ({ y with discard := y.discard - 1 }, none)
    | .ready =>
      let v := y.config.value raw
      let z := y.use v running
      (z.1, if z.2 then some v else none)
    | _ => (y, none)

def Pedal.settleDue (x : Pedal) : Bool := x.state == .settling && x.discard == 0
def Pedal.disconnectDue (x : Pedal) : Bool :=
  (x.state == .settling || x.state == .ready) && decide (25 ≤ x.high)
def Pedal.reconnectDue (x : Pedal) : Bool := x.state == .disconnected && decide (25 ≤ x.low)

/-- The discard count reaches 0: READY, its first reading yet to be used (R125). -/
def pedalSettleEnd (p : Nat) (s : State) : State :=
  let x := s.pedal p
  if x.settleDue then setPedal p { x with state := .ready, used := false } s else s

def pedalDisconnect (p : Nat) (s : State) : State :=
  let x := s.pedal p
  if x.disconnectDue then setPedal p { x with state := .disconnected } s else s

def pedalReconnect (p : Nat) (s : State) : State :=
  let x := s.pedal p
  if x.reconnectDue then setPedal p x.beginSettle s else s

/-! ### Configuration and modes (R125, R128, R130) -/

/-- A pedal under a new configuration (R128). A pedal that becomes DISABLED keeps its counts and its last event value, which is
the model's choice (log 77). -/
def Pedal.configure (c : PedalConfig) (x : Pedal) : Pedal :=
  if !c.enable then
    if x.config.enable then { x with config := c, state := .disabled, raw := 0, value := 0 } else { x with config := c }
  else if !x.config.enable || x.config.internalRef != c.internalRef then
    { x.beginSettle with config := c, high := 0, low := 0 }
  else { x with config := c }

/-- The part enters RUN (R125). -/
def Pedal.enterRun (x : Pedal) : Pedal :=
  match x.state with
  | .settling => x.beginSettle
  | .ready => x.beginSettle
  | _ => x

def pedalsModeRun (s : State) : State := { s with pedals := s.pedals.map Pedal.enterRun }

/-- A pedal after a soft reset (R130; log 45). A DISABLED one keeps all its fields (log 77). -/
def Pedal.softReset (x : Pedal) : Pedal :=
  if x.config.enable then { x.beginSettle with high := 0, low := 0, used := false } else x

/-! ### CONTROL_CONFIG (R128) -/

/-- A line's configuration as a 32-bit entry (R209). -/
def LineConfig.entry (c : LineConfig) : Nat :=
  c.mode.code + 4 * natOfBool c.activeHigh + 8 * natOfBool c.report + 2 ^ 4 * c.debounce + 2 ^ 9 * c.repeatInterval +
    2 ^ 19 * c.holdTime

def PedalConfig.words (c : PedalConfig) : List Word :=
  [word (natOfBool c.enable + 2 * natOfBool c.internalRef + 4 * natOfBool c.report + 256 * c.deadband), word c.heel,
    word c.toe]

/-- The switch and pedal configuration, laid out as the CONTROL_CONFIG arguments (R213). The bits and bytes that the layout
does not name, bit 31 of a line entry, the other bits of a pedal's flags word and bytes 0x156 and 0x157, are 0 by the
model's choice (log 62). -/
def State.controlWords (s : State) : List Word :=
  ((List.range 8).flatMap fun n =>
      let e : Long := BitVec.ofNat 32 (s.line n).config.entry
      [lowWord e, highWord e]) ++
    [word s.scanner.window] ++ (s.pedal 0).config.words ++ (s.pedal 1).config.words ++ [0]

def putControlConfig (s : State) : State := putWords (wordsAt 0x128 s.controlWords) s

/-- CONTROL_CONFIG as taken in slot `i` (R128). -/
def takeControlConfig (i : Nat) (args : List Byte) (s : State) : State :=
  if s.disp.mode = .run then completeWith i .wrongMode [] s
  else match firstFault (controlFaults args) with
    | some f => completeWith i .badArgument [word f] s
    | none =>
      let lines := s.scanner.lines.zipIdx.map fun x =>
        x.1.configure s.scanner.pins x.2 (lineConfigOf (longAt args (4 * x.2)))
      let s := setScanner { s.scanner with lines := lines, window := wordAt args 0x20 } s
      let s := setPedal 0 ((s.pedal 0).configure (pedalConfigAt args 0x22)) s
      let s := setPedal 1 ((s.pedal 1).configure (pedalConfigAt args 0x28)) s
      completeOk i [] (putControlConfig s)

end Sys2Proof.Machine
end

