-- ==== Sys2Proof/Machine/Lamp.lean ====
section
/-! DEFINITION. The lamp driver (chapter 9). -/

namespace Sys2Proof.Machine

def setLamps (x : LampDriver) (s : State) : State := { s with lamps := x }

/-! ### Evaluation (R176-R178) -/

/-- The LIVE bank holds an engaged stage there. -/
def State.stageEngaged (s : State) (lane p : Nat) : Bool :=
  match s.findStage lane p with
  | .error _ => false
  | .ok (_, _, x) => !x.bypass

/-- A source's condition (R176). -/
def State.lampCondition (s : State) (src : LampSource) : Bool :=
  match src with
  | .off => false
  | .fixed => true
  | .stage lane p => s.stageEngaged lane p
  | .sceneIs n => s.activeScene == some n
  | .setlistAt i => decide (i < s.scene.setList.count) && s.scene.cursor == i
  | .tunerFlat => s.tuner.indication == .flat
  | .tunerIn => s.tuner.indication == .inTune
  | .tunerSharp => s.tuner.indication == .sharp
  | .beat => decide (0 < s.lamps.window)
  | .linkOk => s.link.state == .active || s.link.state == .caution
  | .muted => !s.lane.mute.isEmpty

/-- The lit half of the fast phase (R178). -/
def State.fastLit (s : State) : Bool := decide (s.frameCounter.toNat % 250 < 125)

/-- The level a lamp should show (R178). -/
def State.lampLevel (s : State) (c : LampConfig) (cond : Bool) : Level :=
  if c.source = .off then .off
  else if !cond then c.offLevel
  else match c.blink with
    | .none => c.onLevel
    | .beat => if 0 < s.lamps.window then c.onLevel else c.offLevel
    | .fast => if s.fastLit then c.onLevel else c.offLevel

def State.evaluate (s : State) (x : Lamp) : Lamp :=
  let cond := s.lampCondition x.config.source
  { x with cond := cond, worked := s.lampLevel x.config cond }

/-- One boundary: every lamp evaluated, then the beat window timer lowered (R177). The evaluations go by the timer; the
window that is shown closes as an event of its own (log 54). -/
def lampFrame (s : State) : State :=
  setLamps { s.lamps with lamps := s.lamps.lamps.map s.evaluate, window := s.lamps.window - 1 } s

/-- The beat window that is shown closes (R177): by its own event, or at the next boundary's arrival (log 54). -/
def beatWindowClose (s : State) : State :=
  if s.lamps.windowOpen && s.lamps.window == 0 then setLamps { s.lamps with windowOpen := false } s else s

/-! ### Period starts (R179, R180) -/

/-- Lit half counts of a level (R179). -/
def Level.halfCounts : Level → Nat
  | .off => 0
  | .on l h => 2 * l + natOfBool h + 1

/-- The partner's pulse beside an even lamp lit for `e` half counts (R180). -/
def pairedLoad (e gap : Nat) : Load :=
  if 4 * gap < 4096 - e then .paired (e + 2 * gap) (4096 - 2 * gap) else .paired 0 0

def LampDriver.lamp (d : LampDriver) (n : Nat) : Lamp := d.lamps.getD n ⟨LampConfig.reset, false, .off, .level .off⟩

/-- What generator `n` loads: its lamp's level, or the pulse its even partner leaves it. -/
def LampDriver.loadOf (d : LampDriver) (n : Nat) : Load :=
  let even := d.lamp (n - 1)
  if n % 2 = 1 ∧ even.config.complement = true then pairedLoad even.worked.halfCounts even.config.gap
  else .level (d.lamp n).worked

def LampDriver.loadAll (d : LampDriver) : LampDriver :=
  { d with lamps := d.lamps.zipIdx.map fun x => { x.1 with load := d.loadOf x.2 }, periodCounter := 0 }

/-! ### LAMP_CONFIG (R181, R213) -/

def LampSource.code : LampSource → Nat
  | .off => 0
  | .fixed => 1
  | .stage _ _ => 2
  | .sceneIs _ => 3
  | .setlistAt _ => 4
  | .tunerFlat => 5
  | .tunerIn => 6
  | .tunerSharp => 7
  | .beat => 8
  | .linkOk => 9
  | .muted => 10

/-- The argument byte as shown (R213); bits 7 and 6 of a STAGE argument are shown 0 (log 56). -/
def LampSource.arg : LampSource → Nat
  | .stage lane p => p + 16 * lane
  | .sceneIs n => n
  | .setlistAt n => n
  | _ => 0

/-- A level as shown; OFF has its L and H bits 0 (log 56). -/
def Level.bits : Level → Nat
  | .off => 0x8000
  | .on l h => l + 2048 * natOfBool h

/-- A lamp's configuration, laid out as a lamp entry of LAMP_CONFIG (R213). The argument byte of a source that reads none,
and bits 14 to 12 of the off level, are 0 (log 56). -/
def LampConfig.words (c : LampConfig) : List Word :=
  [bytePair c.source.code c.source.arg,
    word (c.onLevel.bits + 4096 * c.blink.code + 16384 * natOfBool c.complement), word c.offLevel.bits]

def LampDriver.configWords (d : LampDriver) : List Word := (List.range 12).flatMap fun n => (d.lamp n).config.words
def LampDriver.gapWords (d : LampDriver) : List Word :=
  (List.range 3).map fun k => bytePair (d.lamp (4 * k)).config.gap (d.lamp (4 * k + 2)).config.gap

/-- An install writes the configuration and gap words of all twelve lamps, also of those it leaves as they were (log 57). -/
def putLampConfig (s : State) : State :=
  putWords (wordsAt 0x188 s.lamps.configWords ++ wordsAt 0x1D0 s.lamps.gapWords) s

/-- LAMP_CONFIG as taken in slot `i`: refused, or pending until the next period start (R181). -/
def takeLampConfig (i : Nat) (args : List Byte) (s : State) : State :=
  let first := byteAt args 0
  let count := byteAt args 1
  if 11 < first ∨ outside count 1 6 = true ∨ 12 < first + count then completeWith i .badArgument [] s
  else match firstFault ((List.range count).flatMap fun k => lampFaults args k (first + k)) with
    | some f => completeWith i .badArgument [word f] s
    | none =>
      setLamps { s.lamps with
        pending := some ⟨i, first, (List.range count).map fun k => lampConfigAt args k (first + k)⟩ } s

/-- The lamps under a pending LAMP_CONFIG: each installed lamp is evaluated by its new source, and so is the odd partner
of an even lamp that goes from COMPLEMENT to SINGLE (R181). -/
def State.installLamps (s : State) (p : PendingLamps) : List Lamp :=
  s.lamps.lamps.zipIdx.map fun x =>
    let n := x.2
    let newConfig := fun (k : Nat) => if p.first ≤ k then p.configs[k - p.first]? else none
    match newConfig n with
    | some c => s.evaluate { x.1 with config := c }
    | none =>
      let freed := n % 2 == 1 && (s.lamps.lamp (n - 1)).config.complement &&
        (match newConfig (n - 1) with | some c => !c.complement | none => false)
      if freed then s.evaluate x.1 else x.1

/-- A period start (R179, R181): pending configurations are installed, and every generator loads. An install evaluates its
lamps also between a reset and the first boundary after it, where R183 has every level worked out OFF; that R181 goes first
there is the model's choice (log 68). -/
def periodStart (s : State) : State :=
  match s.lamps.pending with
  | none => setLamps s.lamps.loadAll s
  | some p =>
    let s := setLamps { s.lamps with lamps := s.installLamps p, pending := none } s
    let s := putLampConfig (setLamps s.lamps.loadAll s)
    completeOk p.slot [word p.first, word p.configs.length] s

end Sys2Proof.Machine
end

