-- ==== Sys2Proof/Machine/Orders.lean ====
section
/-! DEFINITION. Orders: posting, capture, dispatch, cancel, reclaim, the report pages (R189-R197). -/

namespace Sys2Proof.Machine

def setDisp (d : Dispatcher) (s : State) : State := { s with disp := d }

/-- An order as its owner takes it (R194). A LINK_SEND is not handed over in this way (R161). -/
def takeOrder (k : OrderKind) (i : Nat) (args : List Byte) (s : State) : State :=
  match k with
  | .sceneLoad => takeSceneLoad i args s
  | .sceneGo => takeSceneGo i args s
  | .sceneSwap => takeSceneSwap i args s
  | .setlistLoad => takeSetlistLoad i s
  | .setlistMove => takeSetlistMove i args s
  | .stageSet => takeStageSet i args s
  | .stageBypass => takeStageBypass i args s
  | .muteSet => takeMuteSet i args s
  | .tunerSet => takeTunerSet i args s
  | .tempoSet => takeTempoSet i args s
  | .bindLoad => takeBindLoad i s
  | .impulseLoad => takeImpulseLoad i args s
  | .impulseDrop => takeImpulseDrop i args s
  | .linkSend => s
  | .linkConfig => takeLinkConfig i args s
  | .linkRejoin => takeLinkRejoin i s
  | .controlConfig => takeControlConfig i args s
  | .lampConfig => takeLampConfig i args s

/-! ### Dispatch (R194) -/

/-- The owners in the order of R194's table, in which free owners with orders WAITING are served: the model's choice (log
74). -/
def Owner.all : List Owner :=
  [.sceneUnit, .laneEngine, .lineMemory, .tuner, .tempoUnit, .bindingUnit, .link, .switchScanner, .lampDriver]

/-- The RUNNING orders of an owner. -/
def State.runningCount (s : State) (o : Owner) : Nat :=
  (s.disp.slots.filter fun x => x.state == .running && x.owner == some o).length

/-- An owner is free with no RUNNING order, the link controller with fewer than three. -/
def State.ownerFree (s : State) (o : Owner) : Bool :=
  decide (s.runningCount o < if o = .link then 3 else 1)

/-- A slot the choice of R194 can hand to an owner: WAITING, routable, and no LINK_SEND. -/
def Slot.offeredTo (x : Slot) (o : Owner) : Bool :=
  x.state == .waiting && x.routable && x.owner == some o && x.kind != some .linkSend

/-- The lowest priority number; between equal ones the earliest in the list. -/
def mostUrgent (pri : Nat → Nat) : List Nat → Option Nat
  | [] => none
  | i :: rest =>
    match mostUrgent pri rest with
    | none => some i
    | some j => if pri j < pri i then some j else some i

def Slot.priority (x : Slot) : Nat := (x.order.map Order.priority).getD 0

/-- The order an owner is handed next. -/
def State.choice (s : State) (o : Owner) : Option Nat :=
  mostUrgent (fun i => (s.slot i).priority) (s.disp.ageList.filter fun i => (s.slot i).offeredTo o)

/-- An order handed over: RUNNING, and taken by its owner. -/
def handOver (i : Nat) (s : State) : State :=
  let x := s.slot i
  match x.kind, x.order with
  | some k, some o => takeOrder k i o.args (writeSlot i { x with state := .running } s)
  | _, _ => s

/-- Step 5 of a completion (R195): while the owner is free it is handed its next order (R194). Each hand-over ends the
WAITING of one of 32 slots, so 33 rounds are enough. -/
def chooseFor (o : Owner) : Nat → State → State
  | 0, s => s
  | n + 1, s => if s.ownerFree o then (s.choice o).elim s fun i => chooseFor o n (handOver i s) else s

def chooseLane : State → State := chooseFor .laneEngine 33
def chooseScene : State → State := chooseFor .sceneUnit 33
def chooseLink : State → State := chooseFor .link 33

/-- The next choice of some free owner, if there is one. -/
def State.nextHandOver (s : State) : Option Nat :=
  (Owner.all.filterMap fun o => if s.ownerFree o then s.choice o else none).head?

/-- The choices that are no hand-over: LINK_SEND refusals and holds, and the preload check. -/
def openChoices (s : State) : State := preloadCheck (fillHolds (refuseLinkSends s))

/-- Every choice that stands open is made, hand-overs one at a time, until none is left. Each hand-over ends a WAITING
order, so 32 rounds reach the end. -/
def settleOrders : Nat → State → State
  | 0, s => s
  | n + 1, s =>
    let s := openChoices s
    s.nextHandOver.elim s fun i => settleOrders n (handOver i s)

/-! ### Posting and capture (R190) -/

/-- A slot as a POST makes it: result fields keep the last result (R189). -/
def Slot.posted (x : Slot) (number : Word) (time stamp : Nat) : Slot :=
  { x with state := .waiting, cancelMark := false, postNumber := number, postTime := time, stamp := stamp, order := none,
           routable := false }

def postSlot (slot : BitVec 8) (s : State) : State :=
  let i := slot.toNat
  if 31 < i then misuse .slotRange slot s
  else if (s.slot i).state ≠ .free then misuse .postBusy slot s
  else
    let number := s.disp.postCounter + 1
    let x := (s.slot i).posted number s.frames s.stamp
    let s1 := putWord (slotBase i + 0x36) number (writeSlot i x s)
    askBurst (.orderCapture i s.stamp)
      { s1 with stamp := s.stamp + 1, disp := { s1.disp with postCounter := number, ageList := s1.disp.ageList ++ [i] } }

/-- The order record of a slot's 52 order bytes (R208). -/
def orderOf (l : List Byte) : Order := ⟨byteAt l 0, byteAt l 1, word (wordAt l 2), l.drop 4⟩

/-- The end of an order capture (R190); the capture of an older post is not used. DESIGN CHOICE (log 79): of a copy whose
kind is unknown and whose priority is above 7, the kind decides. -/
def captured (m : Memory) (i stamp : Nat) (s : State) : State :=
  let x := s.slot i
  if x.state = .waiting ∧ x.stamp = stamp then
    let o := orderOf (m.bytes (slotBase i) 52)
    if (OrderKind.ofCode o.kind).isNone then
      completeWith i .badArgument [word o.kind] (setSlot i { x with order := some o } s)
    else if 7 < o.priority then
      completeWith i .badArgument [word o.priority] (setSlot i { x with order := some o } s)
    else setSlot i { x with order := some o, routable := true } s
  else s

/-! ### Passed cancels, reclaim, take (R191, R192, R197) -/

/-- A cancel passed to the owner of a RUNNING order: only these two can still end it (R63, R164). -/
def passCancel (i : Nat) (s : State) : State :=
  match (s.slot i).kind with
  | some .sceneLoad => cancelScene i s
  | some .sceneGo => cancelScene i s
  | some .sceneSwap => cancelScene i s
  | some .linkSend => cancelLinkSend chooseLink i s
  | _ => s

def reclaimSlot (slot : BitVec 8) (s : State) : State :=
  let i := slot.toNat
  let x := s.slot i
  if 31 < i then misuse .slotRange slot s
  else if x.state = .done then writeSlot i { x with state := .free } s
  else misuse .reclaimEarly slot s

/-- The pages exchanged: the FILLING one is frozen, the other empty and FILLING (R197). -/
def Pages.exchange (p : Pages) : Pages :=
  if p.fillingOne then ⟨false, 0, p.count1⟩ else ⟨true, p.count0, 0⟩

def takePage (s : State) : State :=
  let p := s.disp.pages.exchange
  putWords [(0x0A00, p.header false), (0x0E00, p.header true)] (setDisp { s.disp with pages := p } s)

/-! ### Registers (R188, R199, R200) -/

def writeAttn (v : Word) (s : State) : State :=
  setDisp { s.disp with attention := s.disp.attention.clear v,
                        misuse := if v.getLsbD 3 then none else s.disp.misuse,
                        dropped := if v.getLsbD 2 then 0 else s.disp.dropped } s

def writeAttnen (v : Word) (s : State) : State := setDisp { s.disp with attnEnable := v.setWidth 6 } s

def clearPor (v : Word) (s : State) : State := setDisp { s.disp with por := s.disp.por && !v.getLsbD 0 } s

/-! ### The host port (R184, R187) -/

/-- A host access to exchange memory: carried out, or held on WAIT while a burst runs. -/
def hostMemory (acc : HostAccess) (s : State) : State :=
  if s.disp.port.running.isNone then hostAccess acc s
  else if s.disp.port.hostWait.isNone then
    setDisp { s.disp with port := { s.disp.port with hostWait := some acc } } s
  else s

/-- The oldest waiting burst starts on the free port (R187). -/
def startOldest (s : State) : State :=
  match s.disp.port.queue with
  | [] => s
  | b :: rest => setDisp { s.disp with port := { s.disp.port with running := some b, queue := rest } } s

/-- BURST_START (R187): the oldest waiting burst starts when the port is free. No row of the table ends the
initialization burst: this one finds it over, and the host access that waited for it carried out (log 6). -/
def startBurst (s : State) : State :=
  match s.disp.port.running with
  | none => startOldest s
  | some .initialization => startOldest (endBurst s)
  | some _ => s

/-! ### Bursts' ends (R186) -/

/-- The running burst ends: its copy is of memory as it stands, the waiting host access follows, then the event. -/
def endOrderCapture (s : State) : State :=
  match s.disp.port.running with
  | some (.orderCapture i stamp) => captured s.mem i stamp (endBurst s)
  | _ => s

def endImpulseChunk (s : State) : State :=
  match s.disp.port.running with
  | some (.impulseChunk id) => impulseChunkEnd s.mem id (endBurst s)
  | _ => s

def endFetch (s : State) : State :=
  match s.disp.port.running with
  | some (.sceneFetch scene serial) => fetchEnd s.mem scene serial (endBurst s)
  | _ => s

def endSetlistCopy (s : State) : State :=
  match s.disp.port.running with
  | some (.setlistCopy i) => setListCopied s.mem i (endBurst s)
  | _ => s

def endBindingCopy (s : State) : State :=
  match s.disp.port.running with
  | some (.bindingCopy i) => bindingCopied s.mem i (endBurst s)
  | _ => s

end Sys2Proof.Machine
end

