-- ==== Sys2Proof/Machine/Firing.lean ====
section
/-! DEFINITION. What an entry does when it fires (R135, R137-R142), and the scene-live notice at the binding unit (R143). -/

namespace Sys2Proof.Machine

/-! ### Actions (R137-R141) -/

/-- A request for the lane engine's list, or its refusal when the list is full (R138). -/
def sendStage (f : Firing) (r : LaneRequest) (lane p : Nat) (v : Int) (s : State) : State :=
  if s.laneListFull then answerFiring f { Answer.failed .notReady lane p v with listFull := true } s
  else pushRequest r s

/-- The scene byte of a report on a set-list action that was refused (log 30). -/
def noScene : Nat := 0xFF

/-- A cursor move for an entry (R137). The scene order that its GO supersedes is followed by the scene unit's next order
(R195) once the GO is taken, and before the answer (log 31). -/
def fireMove (f : Firing) (absolute : Bool) (v : Int) (s : State) : State :=
  match s.scene.setList.move s.scene.cursor absolute v with
  | .error c => answerFiring f (.failed c noScene 0 0) s
  | .ok n => answerFiring f (.taken (s.scene.setList.entries.getD n 0)) (chooseScene (moveCursor n s))

/-- A fade override whose fields lie in the ranges of R66. -/
def profileOk : Option Profile → Bool
  | none => true
  | some p => decide (1 ≤ p.f) && decide (p.f ≤ 250) && decide (p.g ≤ 250)

/-- SCENE_GO of an entry (R137). The scene order that it supersedes is followed by the scene unit's next order (R195) once
the GO is taken, and before the answer (log 31). -/
def fireSceneGo (f : Firing) (n : Nat) (p : Option Profile) (s : State) : State :=
  if 63 < n ∨ profileOk p = false then answerFiring f (.failed .badArgument n 0 0) s
  else
    let r := newRequest .go n p (.binding f.ref)
    let atOnce := s.goAtOnce r
    answerFiring f (if atOnce then .done n 0 0 else .taken n) (chooseScene (takeRequest r s))

def fireMute (f : Firing) (change : State → State) (s : State) : State :=
  let s := change s
  answerFiring f (.done s.lane.mute.code 0 0) s

/-- TUNER_TOGGLE: its answer carries the on setting after it (R140). -/
def fireTuner (f : Firing) (s : State) : State :=
  let s := toggleTuner s
  answerFiring f { Answer.done 0 0 0 with on := some s.tuner.settings.on } s

/-- A PARAM_FROM_PEDAL entry fired with a pedal's value (R139). With no span no target is worked out, and the answer
carries 0 in its place (log 49). -/
def firePedal (f : Firing) (lane p index v : Nat) (s : State) : State :=
  match s.spanOf f.ref with
  | none => answerFiring f (.failed (if s.liveBank.isNone then .notReady else .badArgument) lane p 0) s
  | some x =>
    let t := pedalTarget x.1 x.2 v
    sendStage f (.param f lane p index t) lane p t s

def fireNotice (f : Firing) (m : Message) (s : State) : State :=
  match s.noticeFault with
  | some c => answerFiring f { Answer.failed c 0 0 0 with noticeDropped := true } s
  | none => answerFiring f (.done 0 0 0) (offerNotice m s)

def ControlEvent.pedalValue : ControlEvent → Nat
  | .pedal _ v => v
  | _ => 0

/-- A firing entry's action, sent to its owner. A stage action that the list has no place for has no flag worked out, and its
answer carries 0 in its place (log 49). -/
def fireAction (f : Firing) (s : State) : State :=
  match f.action with
  | .sceneGo n p => fireSceneGo f n p s
  | .setlistStep v => fireMove f false v s
  | .setlistJump i => fireMove f true i s
  | .stageToggle lane p => sendStage f (.toggle f lane p) lane p 0 s
  | .stageOn lane p => sendStage f (.engage f lane p) lane p 0 s
  | .stageOff lane p => sendStage f (.bypass f lane p) lane p 0 s
  | .paramFromPedal lane p index _ _ => firePedal f lane p index f.event.pedalValue s
  | .tunerToggle => fireTuner f s
  | .muteToggle => fireMute f toggleSwitchMute s
  | .linkMuteOn => fireMute f (muteLink true) s
  | .linkMuteOff => fireMute f (muteLink false) s
  | .tap =>
    match s.tempo.source with
    | .internal => answerFiring f (.done 0 0 0) (takeTap f.ref s)
    | .link => answerFiring f (.failed .wrongMode 0 0 0) s
  | .notice m => fireNotice f m s
  | .reportOnly => answerFiring f (.done 0 0 0) s

/-- An entry fires: the fire counter rises and its action goes out (R142). -/
def fireEntry (r : EntryRef) (e : Entry) (ev : ControlEvent) (time : Long) (follow : Bool) (s : State) : State :=
  fireAction ⟨r, e.report, ev, time, follow, e.action⟩ (setBind { s.bind with fires := s.bind.fires + 1 } s)

/-! ### Events (R135) -/

/-- The source of an unmatched event's report: its line or pedal. -/
def ControlEvent.source : ControlEvent → Nat
  | .press n => sourceLine n
  | .release n => sourceLine n
  | .hold n => sourceLine n
  | .rept n => sourceLine n
  | .chord x _ => sourceLine x
  | .pedal p _ => sourcePedal p
  | .link _ _ _ => sourceNone

/-- The SWITCH_EVENT report (R135, R211). Line b without a CHORD and the value without a pedal show 0 (log 69). -/
def switchEventReport (e : ControlEvent) (time : Long) : Report :=
  { kind := 7, flags := 0, source := e.source, time := time, detail := e.words.take 3 }

/-- An event reaches the binding unit: the firing entry acts, or an unmatched event is reported when its line or pedal
asks for it (R135). -/
def bindingEvent (e : ControlEvent) (time : Long) (report : Bool) (s : State) : State :=
  match s.lookup e with
  | some x => fireEntry x.1 x.2 e time false s
  | none => if report then appendReport (switchEventReport e time) s else s

/-! ### The scene-live notice (R143) -/

/-- The follow of one pedal (R143). -/
def followPedal (p : Nat) (s : State) : State :=
  let x := s.pedals.getD p Pedal.reset
  if x.state = .ready then
    let e := ControlEvent.pedal p x.value
    match s.lookup e with
    | none => s
    | some y =>
      match y.2.action with
      | .paramFromPedal _ _ _ _ _ => if y.2.follow then fireEntry y.1 y.2 e s.frameCounter true s else s
      | _ => s
  else s

/-- The scene-live notice at the binding unit (R143). -/
def bindSceneLive (k : BankId) (s : State) : State :=
  let s := setBind { s.bind with view := some k } s
  let s := setBind { s.bind with localSpans := s.resolveAll s.localEntries, globalSpans := s.resolveAll s.bind.global } s
  followPedal 1 (followPedal 0 s)

end Sys2Proof.Machine
end

