-- ==== Sys2Proof/Machine/FloorEvents.lean ====
section
/-! DEFINITION. The switch scanner's events and chords (R116-R122) and the pedals' readings (R124-R126), as they reach the
binding unit. -/

namespace Sys2Proof.Machine

/-! ### Delivery and chords (R119, R121, R122) -/

/-- A switch event reaches the binding unit with its line's report flag. -/
def deliverLine (e : ControlEvent) (n : Nat) (time : Long) (s : State) : State :=
  bindingEvent e time (s.line n).config.report s

/-- The waiting press is delivered late, with its own frame time. -/
def deliverWaiting (s : State) : State :=
  match s.scanner.waiting with
  | none => s
  | some w => deliverLine (.press w.line) w.line w.time (setScanner { s.scanner with waiting := none } s)

def Chord.has (c : Chord) (n : Nat) : Bool := c.a == n || c.b == n

/-- A line is in the formed chord: its events are withheld (R122). -/
def State.inChord (s : State) (n : Nat) : Bool :=
  match s.scanner.chord with
  | none => false
  | some c => c.has n

def Scanner.isMember (x : Scanner) (n : Nat) : Bool := x.pairs.any fun p => p.1 == n || p.2 == n
def Scanner.isPair (x : Scanner) (m n : Nat) : Bool := x.pairs.contains (min m n, max m n)

/-- The chord, cleared when both its lines are marked released (R122). -/
def Chord.keep (c : Chord) : Option Chord := if c.releasedA && c.releasedB then none else some c

/-- A chord of a waiting line and a second one: delivered, and formed (R121, R122). -/
def formChord (m n : Nat) (s : State) : State :=
  let latching := fun (k : Nat) => (s.line k).config.mode == .latching
  let c : Chord := ⟨m, n, latching m, latching n⟩
  let s := setScanner { s.scanner with waiting := none, chord := c.keep } s
  bindingEvent (.chord m n) s.frameCounter ((s.line m).config.report || (s.line n).config.report) s

def startWaiting (n : Nat) (s : State) : State :=
  setScanner { s.scanner with waiting := some ⟨n, s.frameCounter, s.scanner.window⟩ } s

/-- A PRESS of a line (R121). A line that is no member, or whose chord blocks a new one, presses at once, also before an
older press of its own that still waits from the time it was a member: R121 is followed there, not the order of R119 (log
53). -/
def pressLine (n : Nat) (s : State) : State :=
  if s.inChord n then s
  else if s.scanner.chord.isSome || !s.scanner.isMember n then deliverLine (.press n) n s.frameCounter s
  else match s.scanner.waiting with
    | none => startWaiting n s
    | some w =>
      if w.line ≠ n ∧ s.scanner.isPair w.line n = true then formChord w.line n s
      else startWaiting n (deliverWaiting s)

/-- The marks of a formed chord when a line is released. -/
def Chord.release (c : Chord) (n : Nat) : Chord :=
  { c with releasedA := c.releasedA || c.a == n, releasedB := c.releasedB || c.b == n }

/-- A RELEASE of a line: a waiting press goes first, a chord's line is marked released (R121, R122). -/
def releaseLine (n : Nat) (s : State) : State :=
  if s.inChord n then
    setScanner { s.scanner with chord := s.scanner.chord.bind fun c => (c.release n).keep } s
  else
    let waits := match s.scanner.waiting with | some w => w.line == n | none => false
    let s := if waits then deliverWaiting s else s
    deliverLine (.release n) n s.frameCounter s

/-- A HOLD or REPEAT of a line, withheld while it is in a chord. -/
def timerEvent (e : ControlEvent) (n : Nat) (s : State) : State :=
  if s.inChord n then s else deliverLine e n s.frameCounter s

/-! ### Debounced changes and expiries (R113, R114, R116-R118) -/

/-- A debounced change of a line (R113) and what its state makes of it (R114, R116-R118). -/
def debouncedChange (n : Nat) (s : State) : State :=
  let old := s.line n
  let x := { old with level := !old.level, run := 0 }
  match x.state, x.level with
  | .up, true => pressLine n (setLine n { x with state := .down, hold := x.holdStart } s)
  | .down, false => releaseLine n (setLine n { x with state := .up, hold := none } s)
  | .held, false => releaseLine n (setLine n { x with state := .up, rept := none } s)
  | .blocked, false => setLine n { x with state := .up } s
  | .watching, _ => pressLine n (setLine n x s)
  | _, _ => setLine n x s

/-- The hold timer of a DOWN line reaches 0 (R116, R117). -/
def holdExpiry (n : Nat) (s : State) : State :=
  let x := s.line n
  let rept := if x.config.mode = .repeating then some x.config.repeatInterval else none
  timerEvent (.hold n) n (setLine n { x with state := .held, hold := none, rept := rept } s)

/-- The repeat timer of a HELD line reaches 0 (R117). -/
def repeatExpiry (n : Nat) (s : State) : State :=
  let x := s.line n
  timerEvent (.rept n) n (setLine n { x with rept := some x.config.repeatInterval } s)

/-! ### The pedals -/

/-- The boundary's reading: pedal 0 at an even frame counter, pedal 1 at an odd one (R124). The raw field is written at
each reading. -/
def pedalFrame (raw : BitVec 10) (s : State) : State :=
  let p := s.frames % 2
  let x := s.pedal p
  if x.config.enable then
    let r := x.reading raw.toNat (s.disp.mode == .run)
    let s := putWord (0x11E + 6 * p) (word raw.toNat) (setPedal p r.1 s)
    match r.2 with
    | none => s
    | some v => bindingEvent (.pedal p v) s.frameCounter x.config.report s
  else s

end Sys2Proof.Machine
end

