-- ==== Sys2Proof/Machine/SceneSwap.lean ====
section
/-! DEFINITION. The swap (R67-R69) and the end of a lean fade-out (R75), with the notices they send. -/

namespace Sys2Proof.Machine

/-- The armed swap is due at the boundary that now stands (R67). -/
def State.swapDue (s : State) : Bool :=
  match s.scene.latch with
  | none => false
  | some r =>
    s.scene.state == .armed && decide (s.scene.armedAt < s.frames) &&
      (s.scene.quantMark || r.quantize (s.bankCtl s.loadBank).profile == .none)

/-- The fade that a swap starts, with the two checks made (R68). -/
def State.swapFade (s : State) (r : Request) : Fade :=
  let new := s.loadBank
  let p := r.profile (s.bankCtl new).profile
  let newCost := (s.lane.banks.get new).cost
  let fade : Fade :=
    { owner := r, mode := p.mode, f := if p.mode = .cut then 1 else p.f, g := if p.mode = .cut then 0 else p.g,
      swapAt := s.frames, oldBank := none, newBank := new, trailsKept := false, heldBack := false, downgraded := false,
      trailDropped := false }
  match s.liveBank with
  | none => fade
  | some old =>
    let k := s.lane.banks.get old
    let down := p.mode == .blend && decide (1960 < k.cost + newCost)
    let mode := if down then .gap else p.mode
    let rings := (k.lanes.one.hasTrail || k.lanes.two.hasTrail) && decide (0 < (s.bankCtl old).tailHold) && !r.lean
    let fits := decide (newCost + k.trailCost ≤ 1960)
    { fade with mode := mode, oldBank := some old, trailsKept := rings && fits, heldBack := mode != .blend,
                downgraded := down, trailDropped := rings && !fits }

def Fade.marks (f : Fade) : Nat :=
  natOfBool f.downgraded + 2 * natOfBool f.trailDropped + 4 * natOfBool f.owner.trailCut + 8 * natOfBool f.owner.lean

/-- A SCENE_LIVE report (R69, R211; log 22). -/
def sceneLiveReport (f : Fade) (dropped : Nat) (time : Long) : Report :=
  { kind := 2, flags := if dropped = 0 then 0 else 16, source := f.owner.origin.source, time := time,
    detail := [bytePair f.owner.scene (bankNumber f.newBank), bytePair f.mode.code f.marks, word f.f, word f.g,
      bytePair dropped 0] }

/-- The new bank's notices queued in record order: the count of those dropped (R69, R165). -/
def queueNotices : List Message → State → State × Nat
  | [], s => (s, 0)
  | m :: rest, s =>
    let dropped := if s.noticeFault = none then 0 else 1
    let r := queueNotices rest (offerNotice m s)
    (r.1, r.2 + dropped)

/-- The scene-live notice (R69): the binding unit, the switch scanner, the tuner. -/
def sceneLive (k : BankId) (s : State) : State := tunerAutoOff (derivePairs (bindSceneLive k s))

/-- The none-live notice (R75): the binding unit and the switch scanner. -/
def noneLive (s : State) : State := derivePairs (bindNoneLive s)

/-- The roles after a swap (R69). -/
def swapBanks (f : Fade) (s : State) : State :=
  let s := match f.oldBank with
    | none => s
    | some old => setBankCtl old { s.bankCtl old with state := .outgoing } s
  let s := setBankCtl f.newBank { s.bankCtl f.newBank with state := .live } s
  setScene { s.scene with state := .fading, latch := none, lastLive := some f.newBank, fade := some f, quantMark := false,
                          fillSent := false, leanLoad := false } s

/-- The swap (R69). -/
def swap (s : State) : State :=
  match s.scene.latch with
  | none => s
  | some r =>
    let f := s.swapFade r
    let s := sceneLive f.newBank (swapBanks f s)
    let q := queueNotices (s.lane.banks.get f.newBank).notices s
    appendReport (sceneLiveReport f q.2 q.1.frameCounter) q.1

def State.leanDue (s : State) : Bool :=
  match s.scene.lean with
  | none => false
  | some l => s.scene.state == .leanEmptying && decide (l.first + l.f ≤ s.frames)

/-- The lean fade-out reaches silence (R75). -/
def leanSilence (s : State) : State :=
  match s.scene.lean with
  | none => s
  | some l =>
    let s1 := match s.liveBank with
      | none => s
      | some k => emptyBank k true s
    let s2 := noneLive (setScene { s1.scene with lean := none } s1)
    match s2.scene.latch with
    | none => setSceneState .idle s2
    | some r =>
      let go := r.kind == .go
      let s3 := setScene { s2.scene with leanLoad := go, latch := some { r with lean := go } } s2
      if l.replaced then beginFetch r.scene s3 else enterAllocating s3

end Sys2Proof.Machine
end

