-- ==== Sys2Proof/Machine/LinkRx.lean ====
section
/-! DEFINITION. What a received message does (R154, R166, R167), and the end of a sent one, which loopback receives
(R168). -/

namespace Sys2Proof.Machine

/-- The 16-bit header (R148). -/
def headerOf (sender : Nat) (m : Message) : Word := word (64 * m.topic + sender)

def Filter.hits (f : Filter) (h : Word) : Bool := f.enable && (h &&& f.mask) == (f.code &&& f.mask)

/-- The first filter hit, by index order (R167). -/
def LinkConfig.firstHit (c : LinkConfig) (h : Word) : Option (Nat × Filter) :=
  (c.filters.zipIdx.find? fun x => x.1.hits h).map fun x => (x.2, x.1)

/-- A LINK_MESSAGE report (R167, R211); the payload bytes that the message does not have show 0 (log 69). -/
def linkMessageReport (filter sender : Nat) (m : Message) (time : Long) : Report :=
  let p := fun i => (m.payload.getD i 0).toNat
  { kind := 5, flags := 0, source := sourceFilter filter, time := time,
    detail := [word m.topic, bytePair sender m.length, bytePair (p 0) (p 1), bytePair (p 2) (p 3),
      bytePair (p 4) (p 5)] }

/-- The acceptance filters (R167). -/
def filterMessage (sender : Nat) (m : Message) (s : State) : State :=
  match s.link.config.firstHit (headerOf sender m) with
  | none => s
  | some x =>
    let report := fun s => appendReport (linkMessageReport x.1 sender m s.frameCounter) s
    let event := fun s => bindingEvent (.link x.1 sender m) s.frameCounter false s
    match x.2.dest with
    | .report => report s
    | .bind => event s
    | .both => event (report s)

/-- A message received with success, passed on (R166). -/
def passOn (sender : Nat) (m : Message) (s : State) : State :=
  if sender = s.link.config.address ∧ s.link.config.loopback = false then setLink { s.link with addressSeen := true } s
  else
    let s := if s.link.config.beatTopic = some m.topic then takeLinkBeat s else s
    filterMessage sender m s

def countReceived (s : State) : State := setLink { s.link with received := s.link.received + 1 } s

/-- A message read from the line passes its end without error (R153, R154); bits that spell no message are no success
(log 28). -/
def messageReceived (bits : List Bool) (s : State) : State :=
  if s.link.receiving && s.link.engagement == .onBus && s.link.state != .detached && !s.link.config.loopback then
    match decodeLine bits with
    | none => s
    | some x =>
      let s := setLink { s.link with receiving := false, ackDriven := s.link.drives } s
      let s := countReceived (changeCounters s.link.tec (s.link.rec_ - 1) causeSuccess s)
      passOn x.1 x.2 s
  else s

/-- The message being sent passes its end without error (R154, R162); in loopback it is then received (R168). -/
def messageSent (choose : State → State) (s : State) : State :=
  match s.sendingHold with
  | none => s
  | some h =>
    let m := (s.hold h).message
    let sender := s.link.config.address
    let s := sentOk choose h s
    if s.link.config.loopback then passOn sender m (countReceived s) else s

end Sys2Proof.Machine
end

