-- ==== Sys2Proof/Machine/Status.lean ====
section
/-! DEFINITION. The status block, the control cell and the status extension as functions of the state (R206, R212,
R213), and how an event's writes reach exchange memory. -/

namespace Sys2Proof.Machine

/-- A byte that shows NONE as 0xFF (R212). -/
def orNone (x : Option Nat) : Nat := x.getD 0xFF

def bytesOfWord (w : Word) : List Nat := [w.toNat % 256, w.toNat / 256]
def bytesOfWords (l : List Word) : List Nat := l.flatMap bytesOfWord
def bytesOfLong (l : Long) : List Nat := bytesOfWords [lowWord l, highWord l]

/-- Bytes, two to a word. -/
def wordsOfBytes : List Nat → List Word
  | [] => []
  | [x] => [bytePair x 0]
  | x :: y :: rest => bytePair x y :: wordsOfBytes rest

/-! ### The status block (R212)

Bits of a packed byte that the tables of R212 and R213 do not name are 0 by the model's choice (log 62). -/

def MisuseCause.code : MisuseCause → Nat
  | .postBusy => 1
  | .cancelFree => 2
  | .reclaimEarly => 3
  | .slotRange => 4
  | .badOperation => 5

def State.slotCount (s : State) (x : SlotState) : Nat := (s.disp.slots.filter fun y => y.state == x).length

/-- The slot whose order a hold carries. -/
def Hold.slot (x : Hold) : Option Nat :=
  if x.state = .empty then none
  else match x.origin with
    | .slot i => some i
    | .notice => none

/-- Bytes 0x00 to 0x19: the order dispatcher. While the misuse record is empty its slot and frame time have no value in the
spec, and show 0 by the model's choice (log 67). R212 gives the link controller three RUNNING-slot bytes in no order, and the
model shows hold k's slot in byte k (log 71). -/
def State.dispatcherBytes (s : State) : List Nat :=
  let m := s.disp.misuse
  [s.modeBits, (match m with | none => 0 | some m => m.cause.code + 128 * natOfBool m.more),
    (match m with | none => 0 | some m => m.slot.toNat), s.disp.dropped] ++
  bytesOfLong (match m with | none => 0 | some m => m.time) ++
  [s.slotCount .free, s.slotCount .waiting, s.slotCount .running, s.slotCount .done] ++
  bytesOfWord s.disp.postCounter ++
  [orNone (s.runningSlot .sceneUnit), orNone (s.runningSlot .laneEngine), orNone (s.runningSlot .lineMemory),
    orNone (s.runningSlot .tuner), orNone (s.runningSlot .tempoUnit), orNone (s.runningSlot .bindingUnit),
    orNone (s.runningSlot .switchScanner), orNone (s.runningSlot .lampDriver), orNone (s.hold 0).slot,
    orNone (s.hold 1).slot, orNone (s.hold 2).slot, 0]

def MuteRamp.code : MuteRamp → Nat
  | .unmuted => 0
  | .falling => 1
  | .silent => 2
  | .rising => 3

def RunMode.code : RunMode → Nat
  | .held => 0
  | .full => 1
  | .trails => 2

/-- A stage byte. -/
def stageByte (x : Option Stage) : Nat :=
  match x with
  | none => 0
  | some x => x.kind.code + 16 * natOfBool x.bypass + 32 * natOfBool x.tempoClamped + 64 * natOfBool x.tapsClamped

/-- A DELAY's time in use. -/
def delayTime (x : Option Stage) : Nat :=
  match x with
  | none => 0
  | some x => if x.kind = .delay then x.tap.inUse else 0

/-- The 24 positions of the LIVE bank, all empty when none is LIVE (R29). -/
def State.liveStages (s : State) : List (Option Stage) :=
  match s.liveBank with
  | none => List.replicate 24 none
  | some k =>
    let l := (s.lane.banks.get k).lanes
    ((List.range 12).map l.one.stageAt) ++ ((List.range 12).map l.two.stageAt)

/-- Bytes 0x1A to 0x6B: the lane engine. -/
def State.laneBytes (s : State) : List Nat :=
  let e := s.lane
  [e.mute.code, e.ramp.code + 4 * e.banks.a.runMode.code + 16 * e.banks.b.runMode.code] ++
    bytesOfWords [word e.banks.a.cost, word e.banks.a.trailCost, word e.banks.b.cost, word e.banks.b.trailCost] ++
    s.liveStages.map stageByte ++ bytesOfWords (s.liveStages.map fun x => word (delayTime x))

def ImpulseState.code : ImpulseState → Nat
  | .empty => 0
  | .loading => 1
  | .resident => 2

/-- Bytes 0x6C to 0xB5: the line memory manager. -/
def State.lineBytes (s : State) : List Nat :=
  let l := s.lines
  bytesOfWords [word l.freeCount, word (l.bankBlocks .a), word (l.bankBlocks .b), word l.impulseBlocks,
    word l.zeroQueue.length] ++
  (List.range 16).flatMap fun id =>
    let e := l.impulse id
    bytesOfWord (word e.taps) ++ [e.state.code + 4 * countHolders (· == .impulse id) l.map, l.usersOf id]

def BankState.code : BankState → Nat
  | .empty => 0
  | .loading => 1
  | .ready => 2
  | .live => 3
  | .outgoing => 4
  | .trailing => 5
  | .cutting => 6

def SceneState.code : SceneState → Nat
  | .idle => 0
  | .fetching => 1
  | .allocating => 2
  | .zeroing => 3
  | .preparing => 4
  | .armed => 5
  | .fading => 6
  | .leanEmptying => 7

/-- The latch's four bytes; an empty latch shows kind bit 0, scene 0xFF and origin 0 (log 30). -/
def latchBytes (x : Option Request) : List Nat :=
  match x with
  | none => [0, 0xFF, 0, 0]
  | some r => [1 + 2 * r.kind.code, r.scene] ++ bytesOfWord (word r.origin.source)

/-- Bytes 0xB6 to 0xC3: the scene unit. -/
def State.sceneBytes (s : State) : List Nat :=
  let u := s.scene
  [orNone s.activeScene, u.state.code, u.banks.a.state.code, orNone u.banks.a.scene, u.banks.b.state.code,
    orNone u.banks.b.scene] ++ latchBytes u.latch ++
  [u.setList.count, natOfBool u.setList.wrap + 2 * natOfBool u.setList.preload + 4 * natOfBool u.preloadMark, u.cursor, 0]

/-- Bytes 0xC4 to 0xC7: the tempo unit. -/
def State.tempoBytes (s : State) : List Nat :=
  let t := s.tempo
  bytesOfWord (word t.tempo) ++
    [t.source.code + 2 * t.bar + 16 * t.history.length + 64 * natOfBool t.linkLost, 0]

/-- Bytes 0xC8 to 0xCB: the tuner. -/
def State.tunerBytes (s : State) : List Nat :=
  let t := s.tuner.settings
  [natOfBool t.on + 2 * natOfBool t.thru + 4 * natOfBool t.sourceB + 8 * natOfBool t.wide + 16 * natOfBool t.autoOff +
    32 * t.level, t.window + 16 * t.n] ++ bytesOfWord (word t.reference)

/-- Bytes 0xCC to 0xCF: the binding unit. -/
def State.bindBytes (s : State) : List Nat :=
  let view := match s.bind.view with
    | none => 0
    | some k => bankNumber k + 1
  [(s.bind.global.filter Option.isSome).length, view + 4 * s.localEntries.length] ++ bytesOfWord s.bind.fires

def Engagement.code : Engagement → Nat
  | .offBus => 0
  | .awaitingIdle => 1
  | .onBus => 2

def HoldState.code : HoldState → Nat
  | .empty => 0
  | .pending => 1
  | .sending => 2

def holdBytes (x : Hold) : List Nat :=
  [x.state.code + 4 * natOfBool x.isNotice, orNone x.slot] ++ bytesOfWord (word x.message.topic) ++ [x.attempts, x.losses]

/-- Bytes 0xD0 to 0xF1: the link controller. -/
def State.linkBytes (s : State) : List Nat :=
  let l := s.link
  [l.state.code + 4 * l.engagement.code + 16 * natOfBool l.rejoinMark + 32 * natOfBool l.addressSeen, l.tec, l.rec_,
    l.rejoinCount, l.notices.length, orNone (l.lastError.map errorCode)] ++
  bytesOfLong l.lastErrorTime ++ bytesOfWords [l.sent, l.received, l.failed] ++
  holdBytes (s.hold 0) ++ holdBytes (s.hold 1) ++ holdBytes (s.hold 2)

/-- Bytes 0xF2 to 0xFF: the lamp driver, then zeros. With no LAMP_CONFIG pending its count and first lamp show 0 (log 30). -/
def State.lampBytes (s : State) : List Nat :=
  let conds := (List.range 12).map fun n => natOfBool (s.lamps.lamp n).cond * 2 ^ n
  bytesOfWord (word conds.sum) ++
    [natOfBool s.lamps.windowOpen,
      (match s.lamps.pending with | none => 0 | some p => 128 + 16 * p.configs.length + p.first)] ++ List.replicate 10 0

def State.statusBlock (s : State) : List Nat :=
  s.dispatcherBytes ++ s.laneBytes ++ s.lineBytes ++ s.sceneBytes ++ s.tempoBytes ++ s.tunerBytes ++ s.bindBytes ++
    s.linkBytes ++ s.lampBytes

/-! ### The control cell and the status extension (R129, R213) -/

def LineState.code : LineState → Nat
  | .off => 0
  | .standby => 1
  | .settling => 2
  | .up => 3
  | .down => 4
  | .held => 5
  | .blocked => 6
  | .watching => 7

def PedalState.code : PedalState → Nat
  | .disabled => 0
  | .settling => 1
  | .ready => 2
  | .disconnected => 3

def pedalBytes (x : Pedal) : List Nat := [x.state.code, 0] ++ bytesOfWords [word x.raw, word x.value]

/-- Bytes 0x110 to 0x127. -/
def State.controlCell (s : State) : List Nat :=
  ((List.range 8).map fun n => (s.line n).state.code + 128 * natOfBool (s.line n).level) ++
    [orNone (s.scanner.waiting.map Waiting.line), orNone (s.scanner.chord.map Chord.a),
      orNone (s.scanner.chord.map Chord.b), 0] ++ pedalBytes (s.pedal 0) ++ pedalBytes (s.pedal 1)

/-- What a generator holds, as shown: a level, or the PAIRED mark alone (log 56). -/
def Load.bits : Load → Nat
  | .level l => l.bits
  | .paired _ _ => 0x4000

/-- The words from 0x128 to 0x1FF. -/
def State.extensionWords (s : State) : List Word :=
  s.controlWords ++ s.link.config.words ++ s.lamps.configWords ++ s.lamps.gapWords ++ [0] ++
    ((List.range 12).map fun n => word (s.lamps.lamp n).load.bits) ++ List.replicate 8 0

/-- The whole of the status block and the control cell's area but for the tuner cell, as (address, word). -/
def State.statusWords (s : State) : List (Nat × Word) :=
  wordsAt 0x000 (wordsOfBytes s.statusBlock) ++ wordsAt 0x110 (wordsOfBytes s.controlCell) ++
    wordsAt 0x128 s.extensionWords

/-! ### The writes of an event (R184, R206; log 34) -/

/-- The status words that an event has changed. -/
def changedWords (before after : State) : List (Nat × Word) :=
  (List.zipWith (fun x y => if x.2 = y.2 then none else some y) before.statusWords after.statusWords).filterMap id

/-- The end of an event: its writes, and the status words it changed, reach exchange memory, and the bursts it asked for
join the port's queue (R187). -/
def publish (before after : State) : State :=
  { after with mem := after.mem.partWrites (after.writes ++ changedWords before after), writes := [],
               disp := { after.disp with port := after.disp.port.queueAsked } }

/-- Everything an initialization burst writes into the part-written areas but the report cells (R205, R208): status,
tuner cell, slots, page headers. -/
def State.initWords (s : State) : List (Nat × Word) :=
  s.statusWords ++ wordsAt 0x100 (s.tuner.cell.words ++ [0]) ++
    ((List.range 32).flatMap fun i => wordsAt (slotBase i + 0x34) [0, 0, 0, 0, 0, 0]) ++
    ((List.range 16).map fun k => (0x0A00 + 2 * k, if k = 0 then s.disp.pages.header false else 0)) ++
    ((List.range 16).map fun k => (0x0E00 + 2 * k, if k = 0 then s.disp.pages.header true else 0))

end Sys2Proof.Machine
end

