-- ==== Sys2Proof/Machine/Modes.lean ====
section
/-! DEFINITION. The modes (R201-R203), the mute ramp's ends (R26), and the resets (R204, R205). -/

namespace Sys2Proof.Machine

/-! ### Modes (R201-R203) -/

/-- Both condition marks are set: the mode becomes SETUP (R202). -/
def becomeSetup (s : State) : State :=
  if s.disp.setupPending && s.disp.silenceSeen && s.disp.linkClear then
    linkModeSetup (scannerModeSetup (raiseMode
      (setDisp { s.disp with mode := .setup, setupPending := false, setupAck := true, silenceSeen := false,
                             linkClear := false } s)))
  else s

/-- The end of an event that may have completed an order, made one routable, set a condition mark or offered a notice
(log 31). -/
def finish (s : State) : State := settleOrders 33 (becomeSetup s)

/-- An event that acts only when it is due, whole. -/
def force (due : State → Bool) (f : State → State) (s : State) : State := if due s then finish (f s) else s

/-- A CANCEL (R191). -/
def cancelSlot (slot : BitVec 8) (s : State) : State :=
  let i := slot.toNat
  let x := s.slot i
  if 31 < i then misuse .slotRange slot s
  else match x.state with
    | .free => misuse .cancelFree slot s
    | .waiting => finish (completeWith i .cancelled [] s)
    | .running => if x.cancelMark then s else finish (passCancel i (writeSlot i { x with cancelMark := true } s))
    | .done => s

/-- A SETUP request starts the handshake in RUN with nothing pending (R201). -/
def State.setupStarts (s : State) : Bool := s.disp.mode == .run && !s.disp.setupPending

/-- The start of the handshake (R202). -/
def requestSetup (s : State) : State :=
  let s := muteSetup true s
  linkSetupPending
    (setDisp { s.disp with setupPending := true, silenceSeen := s.lane.ramp == .silent, linkClear := false } s)

/-- The mode becomes RUN (R203). -/
def enterRun (s : State) : State :=
  let s := pedalsModeRun (scannerModeRun (linkModeRun (muteSetup false s)))
  raiseMode (setDisp { s.disp with mode := .run, setupAck := false } s)

/-- A RUN request acts in SETUP, and in RUN while a SETUP request is pending (R201). -/
def State.runActs (s : State) : Bool := s.disp.mode == .setup || s.disp.setupPending

/-- A RUN request (R203): in SETUP it enters RUN, in RUN it withdraws the SETUP request. -/
def requestRun (s : State) : State :=
  match s.disp.mode with
  | .setup => enterRun s
  | .run =>
    let s := muteSetup false s
    linkSetupWithdrawn (setDisp { s.disp with setupPending := false, silenceSeen := false, linkClear := false } s)

/-! ### The ends of the mute ramp (R26) -/

def State.silentDue (s : State) : Bool := s.lane.ramp == .falling && s.lane.rampCount == 0
def State.unmutedDue (s : State) : Bool := s.lane.ramp == .rising && s.lane.rampCount == 192

/-- The ramp enters SILENT, and the dispatcher is told (R26, R202). -/
def rampSilent (s : State) : State :=
  setDisp { s.disp with silenceSeen := s.disp.silenceSeen || s.disp.setupPending }
    (setLane { s.lane with ramp := .silent } s)

def rampUnmuted (s : State) : State := if s.unmutedDue then setLane { s.lane with ramp := .unmuted } s else s

/-! ### Resets (R204, R205, and the reset rule of each block) -/

/-- Every block in its reset state; what a soft reset keeps, and what no reset changes, stays. -/
def resetBlocks (soft : Bool) (s : State) : State :=
  let s1 : State :=
    { s with
      writes := [], frames := 0, opened := false, resetHeld := false, stamp := 0,
      disp := { Dispatcher.reset with por := s.disp.por, port := { Port.reset with hostData := s.disp.port.hostData } },
      lane := { LaneEngine.reset with freeCount := s.lane.freeCount },
      lines := if soft then s.lines.softReset else { LineMemory.reset with samples := s.lines.samples },
      scene := if soft then s.scene.softReset else SceneUnit.reset,
      tempo := TempoUnit.reset,
      tuner := Tuner.resetWith (if soft then { s.tuner.settings with on := false } else TunerSettings.reset),
      scanner := if soft then s.scanner.softReset else { Scanner.reset with pins := s.scanner.pins },
      pedals := if soft then s.pedals.map Pedal.softReset else [Pedal.reset, Pedal.reset],
      bind := if soft then s.bind.softReset else BindingUnit.reset,
      link := if soft then s.link.softReset else Link.reset,
      lamps := if soft then (LampDriver.resetWith (s.lamps.lamps.map Lamp.config)).loadAll else LampDriver.reset }
  derivePairs s1

/-- The initialization burst's writes (R205): they are made at the burst's start, and the burst holds the port until
`startBurst` (log 6). -/
def initBurst (s : State) : State := { s with mem := s.mem.partWrites s.initWords }

/-- The release of the RESET line, or a soft reset: the burst in progress ends, a waiting host access is carried out,
every block is reset, and the initialization burst writes and runs (R187, R204, R205). -/
def resetPart (soft : Bool) (s : State) : State := initBurst (resetBlocks soft (endBurst s))

/-- Power-on (R205): a host access on WAIT is carried out (R187), exchange memory zeroed, POR set, every block reset, and
the initialization burst writes and runs. -/
def powerUp (s : State) : State :=
  let s1 := resetBlocks false { endBurst s with mem := [] }
  initBurst (setDisp { s1.disp with por := true } s1)

/-- The assertion of the RESET line (R205, R174): the burst ends, the queue is emptied, and a message being sent stops
mid-bit; the rest of the reset comes at the release (log 9). -/
def assertReset (s : State) : State :=
  let s := endBurst s
  let s := setDisp { s.disp with port := { s.disp.port with queue := [], asked := [] } } s
  { s with resetHeld := true, link := { s.link with sendBits := [], errorMark := none } }

end Sys2Proof.Machine
end

