-- ==== Sys2Proof/Machine/Boundary.lean ====
section
/-! DEFINITION. The frame boundary (R1, R2): its arrival, the events due at it, and the frame's work (log 2). -/

namespace Sys2Proof.Machine

/-! ### The tap crossfade and the gate's hold at one stage -/

/-- The end of a tap crossfade (R16, R18). -/
def tapFadeEnd (bk : BankId) (ln : LaneId) (p : Nat) (s : State) : State :=
  match s.stageAt bk ln p with
  | none => s
  | some x => if x.tap.fadeDone then putStage bk ln p { x with tap := x.tap.endFade } s else s

/-- The gate there runs in the frame that begins, and its hold timer reaches 0 (R12). -/
def State.gateHoldDue (s : State) (bk : BankId) (ln : LaneId) (p : Nat) : Bool :=
  (s.bankPlay bk).mode == .full && ((s.lane.banks.get bk).lanes.get ln).enabled &&
    (match s.stageAt bk ln p with | none => false | some x => x.holdDue)

def gateHoldEnd (bk : BankId) (ln : LaneId) (p : Nat) (s : State) : State := updateStage bk ln p Stage.holdEnd s

/-! ### What is still due from the boundary before -/

def State.answerDue (s : State) : Bool := !s.lines.answers.isEmpty

/-- The events that a boundary's work has made due, and that no command has taken since: the next boundary finds them
taken (log 2). -/
def settlePost (s : State) : State :=
  let s := force State.silentDue rampSilent s
  let s := rampUnmuted s
  let s := endTapFades s
  let s := force State.answerDue zeroedAnswer (force State.answerDue zeroedAnswer s)
  let s := iterate groupComplete 12 s
  let s := silenceExpiry s
  let s := linkWatchExpiry s
  let s := forEach 8 (fun n => force (fun s => (s.line n).debounceDue) (debouncedChange n)) s
  let s := forEach 8 settleEnd s
  let s := forEach 8 (fun n => force (fun s => (s.line n).holdDue) (holdExpiry n)) s
  let s := forEach 8 (fun n => force (fun s => (s.line n).reptDue) (repeatExpiry n)) s
  let s := force State.windowDue deliverWaiting s
  let s := forEach 2 (fun p s => pedalReconnect p (pedalSettleEnd p (pedalDisconnect p s))) s
  beatWindowClose s

/-- A boundary arrives (R1): the counter advances, the requests that have reached the lane engine are counted, the
accumulator's addition becomes due (R83) and a LOADING set asks for its chunk (R42). It arrives once: until its frame work is done the
boundary stands. What the boundary before had made due has asked for its bursts earlier (R187). -/
def openBoundary (s : State) : State :=
  if s.opened then s
  else
    let s := settlePost s
    let s := { s with frames := s.frames + 1, opened := true, lane := { s.lane with arrived := s.lane.requests.length },
                      disp := { s.disp with port := s.disp.port.queueAsked } }
    askImpulseChunk (setTempoUnit { s.tempo with addDue := true } s)

/-! ### The scene unit's events at the boundary that stands -/

/-- An event that falls at a boundary, as a command of its own: the boundary arrives with it. When it is not due at that
boundary nothing happens (log 1). -/
def atBoundary (due : State → Bool) (f : State → State) (s : State) : State :=
  let t := openBoundary s
  if due t then f t else s

/-- An event that opens no choice, when it is due. -/
def whenDue (due : State → Bool) (f : State → State) (s : State) : State := if due s then f s else s

/-- The end of a fade, with an old bank that still is OUTGOING leaving it first (R71, R72). -/
def fadeEndWhole (s : State) : State := fadeEnd chooseScene (force State.fadeOutDue fadeOutEnd s)

/-- Every event of the scene unit that is due at the boundary (R2, R70-R73, R75), each as its command has it. -/
def sceneWork (s : State) : State :=
  let s := whenDue (fun s => s.trailDue .a) (startCut .a) s
  let s := whenDue (fun s => s.trailDue .b) (startCut .b) s
  let s := force (fun s => s.cutDue .a) (cutEnd .a) s
  let s := force (fun s => s.cutDue .b) (cutEnd .b) s
  let s := force State.fadeOutDue fadeOutEnd s
  let s := whenDue State.gapFadeInDue gapFadeIn s
  let s := force State.leanDue leanSilence s
  let s := force State.prepareDue prepareDone s
  let s := force State.fadeEndDue fadeEndWhole s
  force State.swapDue swap s

/-- The 48 samples of the frame just ended; zeros when the converters deliver none (R1; log 11). -/
def inputFrame (i : BoundaryInput) : List (Sample × Sample) :=
  match i.samples with
  | none => List.replicate 48 (0, 0)
  | some l => (l ++ List.replicate 48 (0, 0)).take 48

/-- The rest of the frame's work, once the scene unit's is done: line memory, the lane engine, the tuner, the scanner, the
pedals and the choices these open, then the lamps, and last the accumulator's addition where no event of its own has taken
it. R176 and R84 let the lamps and the beat be first; this order is the model's (logs 2, 55). -/
def frameWork (i : BoundaryInput) (s : State) : State :=
  let s := setLines s.lines.zeroFour (countWatch s)
  let s := laneFrame chooseLane (inputFrame i) (s.bankPlay .a) (s.bankPlay .b) s
  let s := { s with opened := false, delivering := i.samples.isSome }
  let s := tunerFrame (inputFrame i) s
  let s := scannerFrame i.pins s
  let s := finish (pedalFrame i.pedal s)
  takeAddition (lampFrame s)

/-- The frame boundary (R1, R2). -/
def frameBoundary (i : BoundaryInput) (s : State) : State := frameWork i (sceneWork (openBoundary s))

end Sys2Proof.Machine
end

