-- ==== Sys2Proof/Machine/PortCommands.lean ====
section
/-! DEFINITION. How a command runs, and the meanings of power, reset and the host's commands. -/

namespace Sys2Proof.Machine

abbrev Result := Host.Outcome State Fault Refusal

/-- An event with nothing left to choose at its end; it has no effect while the RESET line is held (log 9). -/
def plain (f : State → State) (s : State) : Result := .next (if s.resetHeld then s else publish s (f s))

/-- An event whose end makes the choices that stand open (log 31). -/
def whole (f : State → State) (s : State) : Result := plain (fun s => finish (f s)) s

/-- POWER_ON (R205). -/
def execPowerOn (s : State) : Result := .next (powerUp s)

/-- RESET_LINE (R205). -/
def execResetLine (s : State) : Result := .next (resetPart false s)

/-- RESET_LINE_ASSERT (R205). -/
def execResetLineAssert (s : State) : Result := plain assertReset s

/-- SOFT_RESET (R204). -/
def execSoftReset (s : State) : Result := .next (if s.resetHeld then s else resetPart true s)

/-- SETUP_REQUEST (R202). -/
def execSetupRequest (s : State) : Result := plain (force State.setupStarts requestSetup) s

/-- RUN_REQUEST (R203). -/
def execRunRequest (s : State) : Result := plain (force State.runActs requestRun) s

/-- POR_CLEAR (R188). -/
def execPorClear (value : Word) (s : State) : Result := plain (clearPor value) s

/-- ATTN_WRITE (R199). -/
def execAttnWrite (value : Word) (s : State) : Result := plain (writeAttn value) s

/-- ATTNEN_WRITE (R200). -/
def execAttnenWrite (value : Word) (s : State) : Result := plain (writeAttnen value) s

/-- POST (R190). -/
def execPost (slot : BitVec 8) (s : State) : Result := plain (postSlot slot) s

/-- CANCEL (R191). -/
def execCancel (slot : BitVec 8) (s : State) : Result := plain (cancelSlot slot) s

/-- RECLAIM (R192). -/
def execReclaim (slot : BitVec 8) (s : State) : Result := plain (reclaimSlot slot) s

/-- TAKE (R197); its slot field is ignored. -/
def execTake (_slot : BitVec 8) (s : State) : Result := plain takePage s

/-- BAD_OPERATION (R193): an operation code of R192 is no bad operation, and leaves the state (log 1). -/
def execBadOperation (op : BitVec 4) (slot : BitVec 8) (s : State) : Result :=
  plain (fun s => if badOperationCode op then misuse .badOperation slot s else s) s

/-- HOST_MEMORY_ACCESS (R184). -/
def execHostMemoryAccess (access : HostAccess) (s : State) : Result := plain (hostMemory access) s

/-- BURST_START (R187). -/
def execBurstStart (s : State) : Result := plain startBurst s

/-- ORDER_CAPTURE (R190). -/
def execOrderCapture (s : State) : Result := whole endOrderCapture s

/-- IMPULSE_CHUNK (R42, R43). -/
def execImpulseChunk (s : State) : Result := whole endImpulseChunk s

/-- FETCH_END (R49). -/
def execFetchEnd (s : State) : Result := whole endFetch s

/-- SETLIST_COPY_END (R77). -/
def execSetlistCopyEnd (s : State) : Result := whole endSetlistCopy s

/-- BINDING_COPY_END (R144). -/
def execBindingCopyEnd (s : State) : Result := whole endBindingCopy s

end Sys2Proof.Machine
end

