-- ==== Sys2Proof/Machine/FloorCommands.lean ====
section
/-! DEFINITION. The meanings of the switch scanner's and the pedal converter's events. -/

namespace Sys2Proof.Machine

/-- DEBOUNCED_CHANGE (R113-R118). -/
def execDebouncedChange (line : Fin 8) (s : State) : Result := plain (force (fun s => (s.line line).debounceDue) (debouncedChange line)) s

/-- SWITCH_SETTLE_END (R114). -/
def execSwitchSettleEnd (line : Fin 8) (s : State) : Result := plain (settleEnd line) s

/-- HOLD_TIMER_EXPIRY (R116, R117). -/
def execHoldTimerExpiry (line : Fin 8) (s : State) : Result := plain (force (fun s => (s.line line).holdDue) (holdExpiry line)) s

/-- REPEAT_TIMER_EXPIRY (R117). -/
def execRepeatTimerExpiry (line : Fin 8) (s : State) : Result := plain (force (fun s => (s.line line).reptDue) (repeatExpiry line)) s

/-- CHORD_WINDOW_EXPIRY (R121). -/
def execChordWindowExpiry (s : State) : Result := plain (force State.windowDue deliverWaiting) s

/-- PEDAL_SETTLE_END (R125). -/
def execPedalSettleEnd (pedal : Fin 2) (s : State) : Result := plain (pedalSettleEnd pedal) s

/-- PEDAL_DISCONNECT (R127). -/
def execPedalDisconnect (pedal : Fin 2) (s : State) : Result := plain (pedalDisconnect pedal) s

/-- PEDAL_RECONNECT (R127). -/
def execPedalReconnect (pedal : Fin 2) (s : State) : Result := plain (pedalReconnect pedal) s

end Sys2Proof.Machine
end

