-- ==== Sys2Proof/Machine/FrameCommands.lean ====
section
/-! DEFINITION. The meanings of the frame boundary and of what falls due in the lane engine, line memory, the tempo unit,
the tuner and the lamp driver. -/

namespace Sys2Proof.Machine

/-- FRAME_BOUNDARY (R1, R2). -/
def execFrameBoundary (input : BoundaryInput) (s : State) : Result := whole (frameBoundary input) s

/-- CONVERTER_SAMPLES_STOP (R1; log 11). -/
def execConverterSamplesStop (s : State) : Result := plain (fun s => { s with delivering := false }) s

/-- MUTE_RAMP_SILENT (R26). -/
def execMuteRampSilent (s : State) : Result := plain (force State.silentDue rampSilent) s

/-- MUTE_RAMP_UNMUTED (R26). -/
def execMuteRampUnmuted (s : State) : Result := plain rampUnmuted s

/-- GATE_HOLD_EXPIRY (R12). -/
def execGateHoldExpiry (bank : BankId) (lane : LaneId) (position : Fin 12) (s : State) : Result :=
  plain (atBoundary (fun s => s.gateHoldDue bank lane position) (gateHoldEnd bank lane position)) s

/-- TAP_CROSSFADE_END (R16). -/
def execTapCrossfadeEnd (bank : BankId) (lane : LaneId) (position : Fin 12) (s : State) : Result :=
  plain (tapFadeEnd bank lane position) s

/-- ZEROED_ANSWER (R37, R57). -/
def execZeroedAnswer (s : State) : Result := plain (force State.answerDue zeroedAnswer) s

/-- ACCUMULATOR_BEAT (R83, R84): at the boundary that stands or arrives with it, the addition that gives a beat. -/
def execAccumulatorBeat (s : State) : Result := plain (atBoundary State.beatDue takeAddition) s

/-- LINK_WATCH_EXPIRY (R90). -/
def execLinkWatchExpiry (s : State) : Result := plain linkWatchExpiry s

/-- GROUP_COMPLETE (R103, R104). -/
def execGroupComplete (s : State) : Result := plain groupComplete s

/-- SILENCE_TIMER_EXPIRY (R106). -/
def execSilenceTimerExpiry (s : State) : Result := plain silenceExpiry s

/-- BEAT_WINDOW_CLOSE (R177). -/
def execBeatWindowClose (s : State) : Result := plain beatWindowClose s

/-- PERIOD_START (R179-R181). -/
def execPeriodStart (s : State) : Result := whole periodStart s

end Sys2Proof.Machine
end

