-- ==== Sys2Proof/Machine/LinkCommands.lean ====
section
/-! DEFINITION. The meanings of the rack-link commands. -/

namespace Sys2Proof.Machine

/-- LINK_MESSAGE_START (R162). -/
def execLinkMessageStart (recessiveRun : Nat) (s : State) : Result := plain (messageStart recessiveRun) s

/-- LINK_ARBITRATION_LOST (R152, R162). -/
def execLinkArbitrationLost (s : State) : Result := whole (arbitrationLost chooseLink) s

/-- LINK_MESSAGE_SENT (R154, R162, R168). -/
def execLinkMessageSent (s : State) : Result := whole (messageSent chooseLink) s

/-- LINK_MESSAGE_RECEIVED (R154, R166). -/
def execLinkMessageReceived (bits : List Bool) (s : State) : Result := whole (messageReceived bits) s

/-- LINK_ERROR (R155-R159, R162). -/
def execLinkError (error : LinkErrorSeen) (s : State) : Result :=
  whole (linkError chooseLink error.kind error.tail) s

/-- An idle run completes, and a DETACHED node whose count it brings to 32 rejoins in that event (R160). -/
def completeIdleRun (s : State) : State := force (fun s => s.rejoinAt 32) rejoin (idleRun s)

/-- REJOIN (R160): the idle run that brings the count to 32. -/
def execRejoin (s : State) : Result := plain (fun s => if s.rejoinAt 31 then completeIdleRun s else s) s

/-- LINK_JOIN_BUS (R171). -/
def execLinkJoinBus (s : State) : Result := plain joinBus s

/-- LINE_IDLE_RUN (R151, R160). -/
def execLineIdleRun (s : State) : Result := plain completeIdleRun s

/-- START_BIT_RECEIVED (R151). -/
def execStartBitReceived (s : State) : Result := plain startBit s

end Sys2Proof.Machine
end

