-- ==== Sys2Proof/Machine/SceneCommands.lean ====
section
/-! DEFINITION. The meanings of the scene unit's events at frame boundaries. -/

namespace Sys2Proof.Machine

/-- PREPARE_DONE (R57). -/
def execPrepareDone (s : State) : Result := plain (atBoundary State.prepareDue fun s => finish (prepareDone s)) s

/-- SWAP (R69). -/
def execSwap (s : State) : Result := plain (atBoundary State.swapDue fun s => finish (swap s)) s

/-- GAP_FADE_IN_START (R70). -/
def execGapFadeInStart (s : State) : Result := plain (atBoundary State.gapFadeInDue gapFadeIn) s

/-- FADE_OUT_END (R71). -/
def execFadeOutEnd (s : State) : Result := plain (atBoundary State.fadeOutDue fun s => finish (fadeOutEnd s)) s

/-- FADE_END (R72). An old bank that has not left OUTGOING at this boundary leaves it first. -/
def execFadeEnd (s : State) : Result :=
  plain (atBoundary State.fadeEndDue fun s => finish (fadeEndWhole s)) s

/-- TRAIL_TIMER_EXPIRY (R73). -/
def execTrailTimerExpiry (bank : BankId) (s : State) : Result :=
  plain (atBoundary (fun s => s.trailDue bank) (startCut bank)) s

/-- CUT_END (R73). -/
def execCutEnd (bank : BankId) (s : State) : Result := plain (atBoundary (fun s => s.cutDue bank) fun s => finish (cutEnd bank s)) s

/-- LEAN_SILENCE (R75). -/
def execLeanSilence (s : State) : Result := plain (atBoundary State.leanDue fun s => finish (leanSilence s)) s

end Sys2Proof.Machine
end

