-- ==== Sys2Proof/Machine/Dispatch.lean ====
section
/-! DEFINITION. Every command's meaning, one arm each. -/

namespace Sys2Proof.Machine

/-- What a command does to everything but the queue of waiting commands. -/
def exec (i : Instr) (s : State) : Host.Outcome State Fault Refusal :=
  match i with
  | .powerOn => Sys2Proof.Machine.execPowerOn s
  | .resetLine => Sys2Proof.Machine.execResetLine s
  | .softReset => Sys2Proof.Machine.execSoftReset s
  | .setupRequest => Sys2Proof.Machine.execSetupRequest s
  | .runRequest => Sys2Proof.Machine.execRunRequest s
  | .porClear value => Sys2Proof.Machine.execPorClear value s
  | .attnWrite value => Sys2Proof.Machine.execAttnWrite value s
  | .attnenWrite value => Sys2Proof.Machine.execAttnenWrite value s
  | .post slot => Sys2Proof.Machine.execPost slot s
  | .cancel slot => Sys2Proof.Machine.execCancel slot s
  | .reclaim slot => Sys2Proof.Machine.execReclaim slot s
  | .take slot => Sys2Proof.Machine.execTake slot s
  | .badOperation op slot => Sys2Proof.Machine.execBadOperation op slot s
  | .hostMemoryAccess access => Sys2Proof.Machine.execHostMemoryAccess access s
  | .burstStart => Sys2Proof.Machine.execBurstStart s
  | .orderCapture => Sys2Proof.Machine.execOrderCapture s
  | .frameBoundary input => Sys2Proof.Machine.execFrameBoundary input s
  | .muteRampSilent => Sys2Proof.Machine.execMuteRampSilent s
  | .muteRampUnmuted => Sys2Proof.Machine.execMuteRampUnmuted s
  | .gateHoldExpiry bank lane position => Sys2Proof.Machine.execGateHoldExpiry bank lane position s
  | .tapCrossfadeEnd bank lane position => Sys2Proof.Machine.execTapCrossfadeEnd bank lane position s
  | .zeroedAnswer => Sys2Proof.Machine.execZeroedAnswer s
  | .impulseChunk => Sys2Proof.Machine.execImpulseChunk s
  | .fetchEnd => Sys2Proof.Machine.execFetchEnd s
  | .prepareDone => Sys2Proof.Machine.execPrepareDone s
  | .swap => Sys2Proof.Machine.execSwap s
  | .gapFadeInStart => Sys2Proof.Machine.execGapFadeInStart s
  | .fadeOutEnd => Sys2Proof.Machine.execFadeOutEnd s
  | .fadeEnd => Sys2Proof.Machine.execFadeEnd s
  | .trailTimerExpiry bank => Sys2Proof.Machine.execTrailTimerExpiry bank s
  | .cutEnd bank => Sys2Proof.Machine.execCutEnd bank s
  | .leanSilence => Sys2Proof.Machine.execLeanSilence s
  | .setlistCopyEnd => Sys2Proof.Machine.execSetlistCopyEnd s
  | .accumulatorBeat => Sys2Proof.Machine.execAccumulatorBeat s
  | .linkWatchExpiry => Sys2Proof.Machine.execLinkWatchExpiry s
  | .groupComplete => Sys2Proof.Machine.execGroupComplete s
  | .silenceTimerExpiry => Sys2Proof.Machine.execSilenceTimerExpiry s
  | .debouncedChange line => Sys2Proof.Machine.execDebouncedChange line s
  | .switchSettleEnd line => Sys2Proof.Machine.execSwitchSettleEnd line s
  | .holdTimerExpiry line => Sys2Proof.Machine.execHoldTimerExpiry line s
  | .repeatTimerExpiry line => Sys2Proof.Machine.execRepeatTimerExpiry line s
  | .chordWindowExpiry => Sys2Proof.Machine.execChordWindowExpiry s
  | .pedalSettleEnd pedal => Sys2Proof.Machine.execPedalSettleEnd pedal s
  | .pedalDisconnect pedal => Sys2Proof.Machine.execPedalDisconnect pedal s
  | .pedalReconnect pedal => Sys2Proof.Machine.execPedalReconnect pedal s
  | .bindingCopyEnd => Sys2Proof.Machine.execBindingCopyEnd s
  | .linkMessageStart recessiveRun => Sys2Proof.Machine.execLinkMessageStart recessiveRun s
  | .linkArbitrationLost => Sys2Proof.Machine.execLinkArbitrationLost s
  | .linkMessageSent => Sys2Proof.Machine.execLinkMessageSent s
  | .linkMessageReceived bits => Sys2Proof.Machine.execLinkMessageReceived bits s
  | .linkError error => Sys2Proof.Machine.execLinkError error s
  | .rejoin => Sys2Proof.Machine.execRejoin s
  | .linkJoinBus => Sys2Proof.Machine.execLinkJoinBus s
  | .beatWindowClose => Sys2Proof.Machine.execBeatWindowClose s
  | .periodStart => Sys2Proof.Machine.execPeriodStart s
  | .resetLineAssert => Sys2Proof.Machine.execResetLineAssert s
  | .converterSamplesStop => Sys2Proof.Machine.execConverterSamplesStop s
  | .lineIdleRun => Sys2Proof.Machine.execLineIdleRun s
  | .startBitReceived => Sys2Proof.Machine.execStartBitReceived s

end Sys2Proof.Machine
end

