-- ==== Sys2Proof/Safety.lean ====
section
/-! DEFINITION. What a safe step, a well-kept state and a calm state are. -/

namespace Sys2Proof.Machine

/-- A step that neither faults nor is refused. -/
def SafeStep (s : State) : Prop := ∃ t, step s = .next t

/-- Exchange memory is in its canonical form, and an event has left over no write of the part (log 34) and no burst that it
asked for (log 8). -/
def State.Kept (s : State) : Prop := Memory.wf s.mem = true ∧ s.writes = [] ∧ s.disp.port.asked = []

/-- The RESET line is not held, and no host access waits on WAIT. -/
def State.Free (s : State) : Prop := s.resetHeld = false ∧ s.disp.port.hostWait = none

/-- No choice stands open: no order is WAITING, no notice is listed, no preload is marked, and the SETUP handshake does
not have both its conditions. -/
def State.Calm (s : State) : Prop :=
  (∀ i, (s.slot i).state ≠ .waiting) ∧ s.link.notices = [] ∧ s.scene.preloadMark = false ∧
    (s.disp.setupPending && s.disp.silenceSeen && s.disp.linkClear) = false

/-- What a misuse leaves (R193): ABNORMAL set, the record filled when it was empty, MORE set when it was not, all else as it
was. -/
def afterMisuse (cause : MisuseCause) (slot : BitVec 8) (s : State) : State :=
  { s with disp := { s.disp with
    attention := { s.disp.attention with abnormal := true },
    misuse := match s.disp.misuse with
      | none => some ⟨cause, slot, s.frameCounter, false⟩
      | some m => some { m with more := true } } }

end Sys2Proof.Machine
end

