-- ==== Sys2Proof/Certificates/Slice0/Obligations.lean ====
section
/-! DEFINITION. The statements for the provers. An event's outcome is given as `publish s u`: the state `u` with the
event's writes and the status words it changed put to exchange memory, from the state `s` before it. Where `finish`
stands around `u`, the choices left open at the end of the event are made (R194, R161, R163, R79, R202). -/

open Sys2Proof Sys2Proof.Machine

/-! ### The queue and the outcome of a command -/

/-- A step runs the command at the front of the queue on the state with the queue's rest. The part idles on an empty
queue (log 3), and no word of bits spells a command (log 4). -/
def Obligations.StepTakesFrontCommand : Prop :=
  (∀ (c : Instr) (rest : List Instr) (s : State), s.pending = c :: rest → step s = exec c { s with pending := rest }) ∧
  ((∀ s : State, s.pending = [] → step s = .next s) ∧
    ∀ (s : State) (nbits w : Nat), decodeTableWord nbits w = none ∧ s.withFetchWord nbits w = s)

/-- Every command answers a next state, in every state and for all operands, and leaves the queue. That a command whose
event is not due, and a BAD_OPERATION with one of the four operation codes, answers a next state is the model's choice
(log 1). -/
def Obligations.EveryCommandAnswersNext : Prop :=
  ∀ (c : Instr) (s : State), ∃ t, exec c s = .next t ∧ t.pending = s.pending

/-! ### What every step keeps -/

/-- Exchange memory stays in its canonical form, and no write of the part and no burst asked for is left over. -/
def Obligations.EveryStepKeepsMemoryForm : Prop := ∀ s t : State, s.Kept → step s = .next t → t.Kept

/-- The reset state has the canonical memory form, and all 512 line blocks are FREE. -/
def Obligations.ResetHasMemoryForm : Prop :=
  (State.reset.Kept) ∧
  (State.reset.lines.map.length = 512 ∧ State.reset.lines.freeCount = 512)

/-- The allocation map keeps 512 entries, and the four totals of R32 then add to 512. -/
def Obligations.EveryStepKeeps512Blocks : Prop :=
  ∀ s t : State, s.lines.map.length = 512 → step s = .next t →
    t.lines.map.length = 512 ∧
      t.lines.freeCount + t.lines.bankBlocks .a + t.lines.bankBlocks .b + t.lines.impulseBlocks = 512

/-- No command but POWER_ON and a host access changes a byte of a host-written area or of the scratch, as long as no
host access waits on WAIT. -/
def Obligations.OnlyHostWritesHostAreas : Prop :=
  (∀ a : Nat, partByte a = true ↔ a < 0x200 ∨ (a < 0xA00 ∧ 0x34 ≤ a % 64) ∨ (0xA00 ≤ a ∧ a < 0x1200)) ∧
  ∀ (c : Instr) (s t : State) (a : Nat), s.Kept → s.disp.port.hostWait = none → c ≠ .powerOn →
    (∀ acc, c ≠ .hostMemoryAccess acc) → exec c s = .next t → partByte a = false → t.mem.read a = s.mem.read a

/-- The status block, the control cell and the status extension: a word whose value an event changes reads as the new value
after it (logs 30, 56, 62, 64, 66 and 67 name the values shown that the spec leaves open). What the words are,
StatusWordsShowState says. The tuner cell is no part of `statusWords`. The words of the event's own writes (`u.writes`),
such as the results and the slot word of a completion (R195), the cells and page headers of reports (R196) and the tuner
cell: the last one written at an address reads after it, at 0x200 and above, in the tuner cell's sixteen bytes, and wherever
no changed status word lies (log 34). What the end of an event leaves: everything but exchange memory, the write buffer and
the bursts asked for, which join the port's queue (R187); every byte that neither a write of the event nor a changed status
word covers; and every byte that is not part-written. -/
def Obligations.EventEndShowsStatus : Prop :=
  (∀ s u : State, u.mem.wf = true → ∀ x ∈ u.statusWords, x ∈ s.statusWords ∨ (publish s u).mem.readWord x.1 = x.2) ∧
  (∀ (s u : State) (earlier later : List (Nat × Word)) (a : Nat) (w : Word),
    u.mem.wf = true → u.writes = earlier ++ (a, w) :: later → partByte a = true → partByte (a + 1) = true →
    (∀ x ∈ later, a + 1 < x.1 ∨ x.1 + 1 < a) →
    (0x200 ≤ a ∨ (0x100 ≤ a ∧ a + 1 < 0x110) ∨
      ∀ x ∈ u.statusWords, x ∈ s.statusWords ∨ a + 1 < x.1 ∨ x.1 + 1 < a) →
    (publish s u).mem.readWord a = w) ∧
  (∀ (s u : State) (a : Nat), u.mem.wf = true → (∀ x ∈ u.writes, a ≠ x.1 ∧ a ≠ x.1 + 1) →
    (∀ x ∈ u.statusWords, x ∈ s.statusWords ∨ (a ≠ x.1 ∧ a ≠ x.1 + 1)) →
    (publish s u).mem.read a = u.mem.read a) ∧
  (∀ s u : State, publish s u = { u with
      mem := (publish s u).mem, writes := [], disp := { u.disp with port := u.disp.port.queueAsked } } ∧
    (u.mem.wf = true → ∀ a, partByte a = false → (publish s u).mem.read a = u.mem.read a) ∧
    (s.Kept → publish s s = s))

/-- The status words whole (R129, R206, R212, R213): their addresses, each once, and the value of each, in the order of the
tables. `words a l` says that the words of `l` stand from address `a` on, and `bytes a l` the same of bytes, two to a word
with the low byte first. What is shown where the spec gives no value is the model's choice: an empty latch's kind bit 0,
scene 0xFF and origin 0 and the count and first lamp of no pending LAMP_CONFIG 0 (log 30), hold k's slot in byte 0x16 + k
(log 71), what of a lamp's configuration no level needs and a PAIRED load (log 56), the bits and bytes no table names 0 (log
62), an EMPTY hold's fields (log 64), the time of no error (log 66), and slot and time of an empty misuse record 0 (log 67).
-/
def Obligations.StatusWordsShowState : Prop :=
  ([MuteRamp.unmuted, .falling, .silent, .rising].map MuteRamp.code = [0, 1, 2, 3] ∧
    [RunMode.held, .full, .trails].map RunMode.code = [0, 1, 2] ∧
    [MisuseCause.postBusy, .cancelFree, .reclaimEarly, .slotRange, .badOperation].map MisuseCause.code = [1, 2, 3, 4, 5] ∧
    [StageKind.trim, .gate, .comp, .drive, .amp, .cab, .eq, .mod, .delay, .verb].map StageKind.code =
      [1, 2, 3, 4, 5, 6, 7, 8, 9, 10] ∧
    [ImpulseState.empty, .loading, .resident].map ImpulseState.code = [0, 1, 2] ∧
    [BankState.empty, .loading, .ready, .live, .outgoing, .trailing, .cutting].map BankState.code = [0, 1, 2, 3, 4, 5, 6] ∧
    [SceneState.idle, .fetching, .allocating, .zeroing, .preparing, .armed, .fading, .leanEmptying].map SceneState.code =
      [0, 1, 2, 3, 4, 5, 6, 7] ∧
    [RequestKind.go, .load].map RequestKind.code = [0, 1] ∧ [TempoSource.internal, .link].map TempoSource.code = [0, 1] ∧
    [LinkState.active, .caution, .quiet, .detached].map LinkState.code = [0, 1, 2, 3] ∧
    [Engagement.offBus, .awaitingIdle, .onBus].map Engagement.code = [0, 1, 2] ∧
    [HoldState.empty, .pending, .sending].map HoldState.code = [0, 1, 2] ∧
    [LinkErrorKind.bit, .stuff, .check, .form, .noAck].map errorCode = [1, 2, 3, 4, 5] ∧
    [LineState.off, .standby, .settling, .up, .down, .held, .blocked, .watching].map LineState.code =
      [0, 1, 2, 3, 4, 5, 6, 7] ∧
    [PedalState.disabled, .settling, .ready, .disconnected].map PedalState.code = [0, 1, 2, 3] ∧
    [LineMode.off, .momentary, .latching, .repeating].map LineMode.code = [0, 1, 2, 3] ∧
    [FilterDest.report, .bind, .both].map FilterDest.code = [0, 1, 2] ∧ [Blink.none, .beat, .fast].map Blink.code = [0, 1, 2] ∧
    (∀ lane p n, [LampSource.off, .fixed, .stage lane p, .sceneIs n, .setlistAt n, .tunerFlat, .tunerIn, .tunerSharp, .beat,
        .linkOk, .muted].map (fun x => (x.code, x.arg)) =
      [(0, 0), (1, 0), (2, p + 16 * lane), (3, n), (4, n), (5, 0), (6, 0), (7, 0), (8, 0), (9, 0), (10, 0)]) ∧
    (∀ n e, [Origin.slot n, .binding ⟨.localTable, e⟩, .binding ⟨.globalTable, e⟩, .setList n, .preload].map Origin.source =
      [0x1000 + n, 0x2000 + e, 0x3000 + e, 0x4000 + n, 0x5000]) ∧
    (∀ x y, bytePair x y = BitVec.ofNat 16 (x % 256 + 256 * (y % 256))) ∧ (∀ n, word n = BitVec.ofNat 16 n) ∧
    ∀ l : Long, lowWord l = l.extractLsb' 0 16 ∧ highWord l = l.extractLsb' 16 16) ∧
  ∀ s : State,
    let words := fun (a : Nat) (l : List Word) => ∀ n w, l[n]? = some w → (a + 2 * n, w) ∈ s.statusWords
    let bytes := fun (a : Nat) (l : List Nat) => ∀ n x y, l[2 * n]? = some x → l[2 * n + 1]? = some y →
      (a + 2 * n, bytePair x y) ∈ s.statusWords
    let bit := fun (b : Bool) => if b = true then 1 else 0
    let orNone := fun (x : Option Nat) => x.getD 0xFF
    (s.statusWords.map Prod.fst).Nodup ∧
    (∀ x ∈ wordsAt 0x128 s.controlWords ++ wordsAt 0x158 s.link.config.words ++ wordsAt 0x188 s.lamps.configWords ++
      wordsAt 0x1D0 s.lamps.gapWords, x ∈ s.statusWords) ∧
    (∀ a, (∃ w, (a, w) ∈ s.statusWords) ↔ a % 2 = 0 ∧ (a < 0x100 ∨ (0x110 ≤ a ∧ a < 0x200))) ∧
    (let m := s.disp.misuse
     let slots := fun (x : SlotState) => (s.disp.slots.filter fun y => y.state == x).length
     let of := fun (o : Owner) => orNone (s.runningSlot o)
     let held := fun (h : Nat) => match (s.hold h).state, (s.hold h).origin with
       | .empty, _ => 0xFF
       | _, .slot i => i
       | _, .notice => 0xFF
     (∀ o, (∀ i, s.runningSlot o = some i → i < 32 ∧ (s.slot i).state = .running ∧ (s.slot i).owner = some o) ∧
       (s.runningSlot o = none → ∀ i < 32, (s.slot i).state = .running → (s.slot i).owner ≠ some o)) ∧
     bytes 0x00 [bit (s.disp.mode == .run) + 2 * bit s.disp.setupAck + 4 * bit s.disp.setupPending,
       m.elim 0 fun x => x.cause.code + 128 * bit x.more, m.elim 0 fun x => x.slot.toNat, s.disp.dropped] ∧
     words 0x04 [lowWord (m.elim 0 Misuse.time), highWord (m.elim 0 Misuse.time)] ∧
     bytes 0x08 [slots .free, slots .waiting, slots .running, slots .done] ∧ words 0x0C [s.disp.postCounter] ∧
     bytes 0x0E [of .sceneUnit, of .laneEngine, of .lineMemory, of .tuner, of .tempoUnit, of .bindingUnit,
       of .switchScanner, of .lampDriver, held 0, held 1, held 2, 0]) ∧
    (let e := s.lane
     let a := e.banks.a
     let b := e.banks.b
     let at' := fun (n : Nat) => s.liveBank.bind fun k =>
       if n < 12 then (e.banks.get k).stageAt .one n else (e.banks.get k).stageAt .two (n - 12)
     bytes 0x1A [bit e.mute.order + 2 * bit e.mute.tuner + 4 * bit e.mute.switch + 8 * bit e.mute.link + 16 * bit e.mute.setup,
       e.ramp.code + 4 * a.runMode.code + 16 * b.runMode.code] ∧
     words 0x1C [word a.cost, word a.trailCost, word b.cost, word b.trailCost] ∧
     bytes 0x24 ((List.range 24).map fun n => (at' n).elim 0 fun x =>
       x.kind.code + 16 * bit x.bypass + 32 * bit x.tempoClamped + 64 * bit x.tapsClamped) ∧
     words 0x3C ((List.range 24).map fun n => word ((at' n).elim 0 fun x => if x.kind = .delay then x.tap.inUse else 0))) ∧
    (let l := s.lines
     let blocks := fun (p : Holder → Bool) => (l.map.filter p).length
     let ofBank := fun (k : BankId) => blocks fun h => match h with
       | .stage k' _ _ => k' == k
       | _ => false
     words 0x6C [word (blocks (· == .free)), word (ofBank .a), word (ofBank .b),
       word (blocks fun h => match h with | .impulse _ => true | _ => false), word l.zeroQueue.length] ∧
     ∀ id < 16, words (0x76 + 4 * id) [word (l.impulse id).taps] ∧ bytes (0x78 + 4 * id)
       [(l.impulse id).state.code + 4 * blocks (· == .impulse id), (l.users.filter fun u => u.id == id).length]) ∧
    (let u := s.scene
     bytes 0xB6 [orNone s.activeScene, u.state.code, u.banks.a.state.code, orNone u.banks.a.scene, u.banks.b.state.code,
       orNone u.banks.b.scene] ∧
     bytes 0xBC (u.latch.elim [0, 0xFF] fun r => [1 + 2 * r.kind.code, r.scene]) ∧
     words 0xBE [u.latch.elim 0 fun r => word r.origin.source] ∧
     bytes 0xC0 [u.setList.count, bit u.setList.wrap + 2 * bit u.setList.preload + 4 * bit u.preloadMark, u.cursor, 0]) ∧
    (words 0xC4 [word s.tempo.tempo] ∧ bytes 0xC6
      [s.tempo.source.code + 2 * s.tempo.bar + 16 * s.tempo.history.length + 64 * bit s.tempo.linkLost, 0]) ∧
    (let t := s.tuner.settings
     bytes 0xC8 [bit t.on + 2 * bit t.thru + 4 * bit t.sourceB + 8 * bit t.wide + 16 * bit t.autoOff + 32 * t.level,
       t.window + 16 * t.n] ∧ words 0xCA [word t.reference]) ∧
    (bytes 0xCC [(s.bind.global.filter Option.isSome).length,
       (s.bind.view.elim 0 fun k => if k = .a then 1 else 2) + 4 * s.localEntries.length] ∧ words 0xCE [s.bind.fires]) ∧
    (let l := s.link
     bytes 0xD0 [l.state.code + 4 * l.engagement.code + 16 * bit l.rejoinMark + 32 * bit l.addressSeen, l.tec, l.rec_,
       l.rejoinCount, l.notices.length, orNone (l.lastError.map errorCode)] ∧
     words 0xD6 [lowWord l.lastErrorTime, highWord l.lastErrorTime, l.sent, l.received, l.failed] ∧
     ∀ h < 3,
       let x := s.hold h
       bytes (0xE0 + 6 * h) [x.state.code + 4 * bit (x.state != .empty && x.origin == .notice),
         match x.state, x.origin with
           | .empty, _ => 0xFF
           | _, .slot i => i
           | _, .notice => 0xFF] ∧
       words (0xE2 + 6 * h) [word x.message.topic] ∧ bytes (0xE4 + 6 * h) [x.attempts, x.losses]) ∧
    (words 0xF2 [word ((List.range 12).map fun n => bit (s.lamps.lamp n).cond * 2 ^ n).sum] ∧
     bytes 0xF4 [bit s.lamps.windowOpen, s.lamps.pending.elim 0 fun p => 128 + 16 * p.configs.length + p.first] ∧
     words 0xF6 [0, 0, 0, 0, 0]) ∧
    (bytes 0x110 ((List.range 8).map fun n => (s.line n).state.code + 128 * bit (s.line n).level) ∧
     bytes 0x118 [orNone (s.scanner.waiting.map Waiting.line), orNone (s.scanner.chord.map Chord.a),
       orNone (s.scanner.chord.map Chord.b), 0] ∧
     ∀ p < 2, bytes (0x11C + 6 * p) [(s.pedal p).state.code, 0] ∧
       words (0x11E + 6 * p) [word (s.pedal p).raw, word (s.pedal p).value]) ∧
    ((∀ n < 8,
       let c := (s.line n).config
       let e : Long := BitVec.ofNat 32 (c.mode.code + 4 * bit c.activeHigh + 8 * bit c.report + 2 ^ 4 * c.debounce +
         2 ^ 9 * c.repeatInterval + 2 ^ 19 * c.holdTime)
       words (0x128 + 4 * n) [lowWord e, highWord e]) ∧
     words 0x148 [word s.scanner.window] ∧
     (∀ p < 2,
       let c := (s.pedal p).config
       words (0x14A + 6 * p) [word (bit c.enable + 2 * bit c.internalRef + 4 * bit c.report + 256 * c.deadband), word c.heel,
         word c.toe]) ∧
     words 0x156 [0]) ∧
    (let c := s.link.config
     let f := fun (n : Nat) => c.filters.getD n ⟨false, 0, 0, .report⟩
     (∀ n < 8, words (0x158 + 4 * n) [(f n).code, (f n).mask]) ∧
     bytes 0x178 ((List.range 8).map fun n => bit (f n).enable + 2 * (f n).dest.code) ∧
     words 0x180 [word c.rate, word (c.beatTopic.getD 0xFFFF)] ∧
     bytes 0x184 [c.address, bit c.autoRejoin, bit c.loopback, 0]) ∧
    (let level := fun (l : Level) => match l with
       | .off => 0x8000
       | .on l h => l + 2048 * bit h
     (∀ n < 12,
       let c := (s.lamps.lamp n).config
       words (0x188 + 6 * n) [bytePair c.source.code c.source.arg,
         word (level c.onLevel + 4096 * c.blink.code + 16384 * bit c.complement), word (level c.offLevel)]) ∧
     bytes 0x1D0 ((List.range 6).map fun k => (s.lamps.lamp (2 * k)).config.gap) ∧ words 0x1D6 [0] ∧
     words 0x1D8 ((List.range 12).map fun n => word (match (s.lamps.lamp n).load with
       | .level l => level l
       | .paired _ _ => 0x4000)) ∧
     words 0x1F0 (List.replicate 8 0))

/-- The end of an event makes the choices that stand open, and with none open it changes nothing. SETUP is entered first
when both marks are set (R202); then, round after round, LINK_SEND orders that fail a check are completed (R163), EMPTY
holds are filled (R161), the preload check is made (R79), and a free owner is handed an order (R194), until none is left
(log 31 for the rounds, log 74 for the order of the owners). A LINK_SEND fails WRONG_MODE in SETUP, then BAD_ARGUMENT, then
LINK_DETACHED. The candidates are the WAITING LINK_SEND orders that pass these checks and the listed notices, each with its
topic and age; the EMPTY holds take the best one then left, hold after hold from hold 0 on (log 73), and none while DETACHED
(R161). The hold taken by a candidate is PENDING with nothing counted; the best candidate has the lowest topic, and the
least age among equals; once the holds are filled no candidate is left beside an EMPTY hold. -/
def Obligations.CalmStateMakesNoChoice : Prop :=
  (∀ s : State, s.Calm → finish s = s) ∧
  (∀ s : State, finish s = settleOrders 33 (becomeSetup s)) ∧
  (∀ (s : State) (n : Nat),
    let u := preloadCheck (fillHolds (refuseLinkSends s))
    (∀ i, u.nextHandOver = some i → settleOrders (n + 1) s = settleOrders n (handOver i u) ∧
      ∃ o, u.ownerFree o = true ∧ u.choice o = some i) ∧
    (u.nextHandOver = none → settleOrders (n + 1) s = u ∧ ∀ o, u.ownerFree o = true → u.choice o = none)) ∧
  (∀ s : State, s.nextHandOver = ([Owner.sceneUnit, .laneEngine, .lineMemory, .tuner, .tempoUnit, .bindingUnit, .link,
    .switchScanner, .lampDriver].findSome? fun o => if s.ownerFree o = true then s.choice o else none)) ∧
  (∀ (s : State) (i : Nat) (m : Message) (c : ResultCode), i < 32 → (s.slot i).linkSend = some m →
    s.linkSendFault m = some c → (refuseLinkSends s).slot i = { s.slot i with
      state := .done, code := c, words := [0, 0, 0, 0],
      flags := { ResultFlags.none with cancelTooLate := (s.slot i).cancelMark } }) ∧
  (∀ (s : State) (m : Message), s.linkSendFault m =
    if s.disp.mode = .setup then some .wrongMode else if 1023 < m.topic ∨ 6 < m.length then some .badArgument
    else if s.link.state = .detached then some .linkDetached else none) ∧
  (∀ (l : List (Candidate × Nat × Nat)), (firstByTopic l = none ↔ l = []) ∧
    ∀ x, firstByTopic l = some x → x ∈ l ∧ ∀ y ∈ l, x.2.1 < y.2.1 ∨ (x.2.1 = y.2.1 ∧ x.2.2 ≤ y.2.2)) ∧
  (∀ (x : Slot) (m : Message), x.linkSend = some m ↔ x.state = .waiting ∧ x.routable = true ∧ x.kind = some .linkSend ∧
    ∃ o, x.order = some o ∧ m = linkSendMessage o.args) ∧
  (∀ (s : State) (c : Candidate) (topic age : Nat), (c, topic, age) ∈ s.candidates ↔
    (∃ i m, i < 32 ∧ c = .order i ∧ (s.slot i).linkSend = some m ∧ s.linkSendFault m = none ∧ topic = m.topic ∧
      age = (s.slot i).stamp) ∨
    ∃ n x, c = .notice n ∧ s.link.notices[n]? = some x ∧ topic = x.message.topic ∧ age = x.stamp) ∧
  (∀ s : State, s.link.state ≠ .detached → fillHolds s = [0, 1, 2].foldl (fun u h =>
    if (u.hold h).state = .empty then (match firstByTopic u.candidates with
      | none => u
      | some c => fillHold h c.1 u)
    else u) s) ∧
  (∀ s : State, (s.link.state = .detached → fillHolds s = s) ∧
    (s.link.state ≠ .detached → ∀ h < 3, ((fillHolds s).hold h).state = .empty → (fillHolds s).candidates = []) ∧
    (∀ h i m, (s.slot i).linkSend = some m → fillHold h (.order i) s =
      setHold h ⟨.pending, m, .slot i, (s.slot i).stamp, 0, 0, false⟩ (writeSlot i { s.slot i with state := .running } s)) ∧
    ∀ h n x, s.link.notices[n]? = some x → fillHold h (.notice n) s =
      setHold h ⟨.pending, x.message, .notice, x.stamp, 0, 0, false⟩
        { s with link := { s.link with notices := s.link.notices.eraseIdx n } }) ∧
  (∀ s : State,
    let u := { s with scene := { s.scene with preloadMark := false } }
    let l := s.scene.setList
    let next := if s.scene.cursor + 1 < l.count then some (s.scene.cursor + 1)
      else if l.wrap = true ∧ 0 < l.count then some 0 else none
    let due := s.scene.state = .idle ∧ s.scene.latch = none ∧ s.scene.preloadMark = true ∧
      (s.bankCtl s.loadBank).state = .empty
    (¬ due → preloadCheck s = s) ∧ (due → next = none → preloadCheck s = u) ∧
    ∀ n, due → next = some n →
      preloadCheck s = if s.activeScene = some (l.entries.getD n 0) then u
        else takeRequest (newRequest .load (l.entries.getD n 0) none .preload) u)

/-! ### Resets (R204, R205) -/

/-- Power-on leaves the reset state, whatever stood before, but for the queue of commands and what no reset changes: the
host data lines as a host access on WAIT, which is carried out first, leaves them (R187, log 37), the free-value counter
(log 36), the samples of line memory (log 12), the pins (log 10), and whether the converters deliver (log 11). Where the
spec gives a field no reset value, that of State.reset is the model's (logs 58, 59, 61, 64, 66). -/
def Obligations.PowerOnLeavesResetState : Prop :=
  ∀ s : State, exec .powerOn s = .next
    { State.reset with
      pending := s.pending, delivering := s.delivering,
      disp := { State.reset.disp with port := { State.reset.disp.port with hostData := (endBurst s).disp.port.hostData } },
      lane := { State.reset.lane with freeCount := s.lane.freeCount },
      lines := { State.reset.lines with samples := s.lines.samples },
      scanner := { State.reset.scanner with pins := s.scanner.pins } }

/-- The reset state's values at the port, as R205 tabulates them: POR 1, SETUP acknowledged and nothing pending, 32 FREE
slots, empty pages with page 0 FILLING, ATTN and ATTNEN 0 and IRQ low, no misuse, both counters 0, the initialization burst
running (log 6) and none waiting. The reset state's values in the blocks: mute set {SETUP} and ramp SILENT (R30), all
impulse sets EMPTY (R46; log 61 for their chunks copied), scene unit IDLE with both banks EMPTY and no set list (R81), 120.0
BPM INTERNAL (R94), the tuner's nine settings and cell OFF (R95, R111), all lines OFF and both pedals disabled (R130), no
bindings (R146), the link OFF_BUS and ACTIVE with TEC and REC 0, address 63, all filters disabled with code and mask 0 and
no beat topic (R174), every span UNRESOLVED (R146), the raw and value fields of the pedals 0 (R130), all lamps OFF (R183).
Exchange memory (R185, R204, R205): every byte the host writes is zeroed, and so are the cells of the report pages; the
status words and the tuner cell show the state, the words of every slot from its slot word on are 0, and each page header
gives its page's state and count 0. -/
def Obligations.ResetLeavesStatedValues : Prop :=
  (let d := State.reset.disp
  d.por = true ∧ d.mode = .setup ∧ d.setupAck = true ∧ d.setupPending = false ∧
    (∀ i < 32, (State.reset.slot i).state = .free ∧ (State.reset.slot i).postNumber = 0 ∧
      (State.reset.slot i).cancelMark = false ∧ (State.reset.slot i).code = .ok ∧
      (State.reset.slot i).flags = ResultFlags.none ∧ (State.reset.slot i).words = [0, 0, 0, 0]) ∧
    d.pages = ⟨false, 0, 0⟩ ∧ State.reset.attn = 0 ∧ d.attnEnable = 0 ∧ State.reset.irq = false ∧ d.misuse = none ∧
    d.dropped = 0 ∧ d.postCounter = 0 ∧ d.ageList = [] ∧ d.port.running = some .initialization ∧ d.port.queue = [] ∧
    State.reset.frameCounter = 0) ∧
  (let r := State.reset
  r.lane.mute = ⟨false, false, false, false, true⟩ ∧ r.lane.ramp = .silent ∧ r.lane.rampCount = 0 ∧
    r.lane.banks.a.runMode = .held ∧ r.lane.banks.b.runMode = .held ∧ r.lane.banks.a.cost = 0 ∧
    r.lane.banks.b.cost = 0 ∧ r.lane.requests = [] ∧ r.lane.notedTempo = 1200 ∧
    (∀ id < 16, r.lines.impulse id = ⟨.empty, 0, 0⟩) ∧ r.lines.zeroQueue = [] ∧
    r.scene.state = .idle ∧ r.scene.latch = none ∧ r.scene.banks = ⟨BankControl.reset, BankControl.reset⟩ ∧
    BankControl.reset.state = .empty ∧ BankControl.reset.scene = none ∧
    r.scene.setList.count = 0 ∧ r.scene.cursor = 0 ∧
    r.tempo.tempo = 1200 ∧ r.tempo.source = .internal ∧ r.tempo.phase = 0 ∧ r.tempo.bar = 0 ∧
    r.tempo.history = [] ∧ r.tempo.lastTap = none ∧ r.tempo.watch = none ∧
    r.tuner.settings = ⟨false, false, false, 4, false, 4, 4400, 3, true⟩ ∧ r.tuner.cell = ⟨.off, none, none, none, 0, 4, 0⟩ ∧
    (∀ n < 8, (r.line n).state = .off ∧ (r.line n).config = ⟨.off, false, 10, 0, 200, false⟩) ∧ r.scanner.window = 40 ∧
    (∀ p < 2, (r.pedal p).state = .disabled ∧ (r.pedal p).config = ⟨false, false, 0, 1020, 4, false⟩ ∧
      (r.pedal p).raw = 0 ∧ (r.pedal p).value = 0) ∧
    r.scanner.waiting = none ∧ r.scanner.chord = none ∧ r.scanner.pairs = [] ∧
    (∀ x ∈ r.bind.globalSpans, x = none) ∧ (∀ x ∈ r.bind.localSpans, x = none) ∧
    r.bind.global = List.replicate 48 none ∧ r.bind.view = none ∧ r.bind.fires = 0 ∧
    r.link.state = .active ∧ r.link.tec = 0 ∧ r.link.rec_ = 0 ∧ r.link.engagement = .offBus ∧
    r.link.config.address = 63 ∧ r.link.config.rate = 250 ∧ r.link.notices = [] ∧ (∀ h < 3, (r.hold h).state = .empty) ∧
    r.link.config.filters = List.replicate 8 ⟨false, 0, 0, .report⟩ ∧ r.link.config.beatTopic = none ∧
    r.link.config.autoRejoin = false ∧ r.link.config.loopback = false ∧ r.link.rejoinMark = false ∧
    r.link.rejoinCount = 0 ∧ r.link.sent = 0 ∧ r.link.received = 0 ∧ r.link.failed = 0 ∧ r.link.lastError = none ∧
    r.link.addressSeen = false ∧
    (∀ n < 12, (r.lamps.lamp n).config.source = .off ∧ (r.lamps.lamp n).worked = .off ∧
      (r.lamps.lamp n).load = .level .off) ∧ r.lamps.window = 0 ∧ r.lamps.pending = none ∧ r.lamps.periodCounter = 0) ∧
  let m := State.reset.mem
  (∀ a, partByte a = false → m.read a = 0) ∧ (∀ x ∈ State.reset.statusWords, m.readWord x.1 = x.2) ∧
    (∀ n w, State.reset.tuner.cell.words[n]? = some w → m.readWord (0x100 + 2 * n) = w) ∧ m.readWord 0x10E = 0 ∧
    (∀ i < 32, ∀ k < 6, m.readWord (0x234 + 64 * i + 2 * k) = 0) ∧ m.readWord 0x0A00 = bytePair 0 0 ∧
    m.readWord 0x0E00 = bytePair 1 0 ∧
    ∀ a, (0x0A02 ≤ a ∧ a < 0x0E00) ∨ (0x0E02 ≤ a ∧ a < 0x1200) → m.read a = 0

/-- The release of the RESET line, and a soft reset. A host access on WAIT is carried out first (R187). RESET_LINE: every
block in its power-on state but POR, which stays, and what no reset changes: the host data lines (log 37), the free-value
counter (log 36), the samples of line memory (log 12), the pins (log 10); that the whole reset is made at the line's
release, in every state, is the model's choice (log 9). Soft reset (R204): the same, and kept besides are the set list, the
RESIDENT impulse sets, the tuner's settings but for ON, the configurations of lines, pedals, link and lamps, the global
table, TEC and REC. From these follow: lines not OFF in STANDBY with nothing timed (R130), enabled pedals SETTLING with 4
discards (R130; logs 45, 77), the spans UNRESOLVED (R146), the bound pairs of the table, the link state of the kept counters
with its rejoin mark (R174), where the wait a QUIET node owes is dropped (log 63), the tuner with nothing measured (R111),
and every lamp's level worked out OFF, with the odd partner of a COMPLEMENT lamp made from it (R183). The debounced level of
a line that is not OFF is its sample at the reset, which is the pin as the last boundary presented it (R130; log 10), and an
OFF line keeps its own (log 10). That every lamp's condition is false after a reset, of which R183 does not speak, is the
model's choice (log 58); so are the banks' fade defaults and tail hold and the slots' order records, cleared (log 7), the
cleared lanes, the bookkeeping values, the EMPTY holds and the time of no error (logs 59, 61, 64, 66). Exchange memory after
either (R185, R204, R205): the initialization burst runs with its writes made (log 6); the host's bytes and the cells of
both pages stay, the status words and the tuner cell show the new state, the words of every slot from its slot word on are
0, and each page header gives its page's state and count 0. -/
def Obligations.ResetsKeepWhatTheyName : Prop :=
  (∀ x : TunerSettings, Tuner.resetWith x =
    ⟨x, 0, 0, false, 0, false, [], false, none, ⟨.off, none, none, none, 0, x.n, 0⟩⟩) ∧
  (∀ (e : Option Entry) (p : Nat × Nat), chordPair e = some p ↔
    ∃ t x y, e = some t ∧ t.trigger = .chord x y ∧ x ≠ y ∧ p = (min x y, max x y)) ∧
  let memory := fun (s t : State) => s.mem.wf = true →
    (∀ a, partByte a = false → t.mem.read a = (endBurst s).mem.read a) ∧ (∀ x ∈ t.statusWords, t.mem.readWord x.1 = x.2) ∧
    (∀ n w, t.tuner.cell.words[n]? = some w → t.mem.readWord (0x100 + 2 * n) = w) ∧ t.mem.readWord 0x10E = 0 ∧
    (∀ i < 32, ∀ k < 6, t.mem.readWord (0x234 + 64 * i + 2 * k) = 0) ∧ t.mem.readWord 0x0A00 = bytePair 0 0 ∧
    t.mem.readWord 0x0E00 = bytePair 1 0 ∧
    (∀ a, (0x0A02 ≤ a ∧ a < 0x0A20) ∨ (0x0E02 ≤ a ∧ a < 0x0E20) → t.mem.read a = 0) ∧
    ∀ a, (0x0A20 ≤ a ∧ a < 0x0E00) ∨ (0x0E20 ≤ a ∧ a < 0x1200) → t.mem.read a = (endBurst s).mem.read a
  (∀ s : State, ∃ t, exec .resetLine s = .next t ∧
    t.disp = { Dispatcher.reset with
      por := s.disp.por, port := { Port.reset with hostData := (endBurst s).disp.port.hostData } } ∧
    t.lane = { LaneEngine.reset with freeCount := s.lane.freeCount } ∧
    t.lines = { LineMemory.reset with samples := s.lines.samples } ∧ t.scene = SceneUnit.reset ∧
    t.tempo = TempoUnit.reset ∧ t.tuner = Tuner.resetWith TunerSettings.reset ∧
    t.scanner = { Scanner.reset with pins := s.scanner.pins } ∧ t.pedals = [Pedal.reset, Pedal.reset] ∧
    t.bind = BindingUnit.reset ∧ t.link = Link.reset ∧ t.lamps = LampDriver.reset ∧ t.frames = 0 ∧
    t.resetHeld = false ∧ t.pending = s.pending ∧ t.writes = [] ∧
    memory s t) ∧
  ∀ s : State, s.resetHeld = false → ∃ t, exec .softReset s = .next t ∧
    t.disp = { Dispatcher.reset with
      por := s.disp.por, port := { Port.reset with hostData := (endBurst s).disp.port.hostData } } ∧
    t.lane = { LaneEngine.reset with freeCount := s.lane.freeCount } ∧ t.tempo = TempoUnit.reset ∧
    t.scene = { SceneUnit.reset with setList := s.scene.setList } ∧
    (∀ id < 16, t.lines.impulse id =
      if (s.lines.impulse id).state = .resident then s.lines.impulse id else ⟨.empty, 0, 0⟩) ∧
    t.lines.map = s.lines.map.map (fun h => match h with
      | .impulse id => if (s.lines.impulse id).state = .resident then h else .free
      | _ => .free) ∧
    t.lines.users = [] ∧ t.lines.zeroQueue = [] ∧ t.lines.answers = [] ∧ t.lines.samples = s.lines.samples ∧
    t.tuner = Tuner.resetWith { s.tuner.settings with on := false } ∧
    t.scanner.lines.map Line.config = s.scanner.lines.map Line.config ∧ t.scanner.window = s.scanner.window ∧
    t.scanner.pins = s.scanner.pins ∧ t.scanner.waiting = none ∧ t.scanner.chord = none ∧
    (∀ x ∈ t.scanner.lines, x.state = (if x.config.mode = .off then .off else .standby) ∧
      x.settle = none ∧ x.hold = none ∧ x.rept = none ∧ x.run = 0) ∧
    (∀ n x, s.scanner.lines[n]? = some x → ∃ y, t.scanner.lines[n]? = some y ∧
      y.level = if x.config.mode = .off then x.level else s.scanner.pins.getLsbD n == x.config.activeHigh) ∧
    (∀ p, p ∈ t.scanner.pairs ↔ p ∈ s.bind.global.filterMap chordPair) ∧
    t.pedals = s.pedals.map (fun x => if x.config.enable = true then
      { x with state := .settling, discard := 4, high := 0, low := 0, used := false } else x) ∧
    t.pedals.map Pedal.config = s.pedals.map Pedal.config ∧
    (∀ x ∈ t.pedals, x.config.enable = true → x.state = .settling ∧ x.discard = 4 ∧ x.high = 0 ∧ x.low = 0) ∧
    t.bind = { global := s.bind.global, view := none, globalSpans := s.bind.global.map fun _ => none, localSpans := [],
               fires := 0 } ∧
    (let state := linkStateOf s.link.tec s.link.rec_ s.link.state
     t.link = { Link.reset with config := s.link.config, tec := s.link.tec, rec_ := s.link.rec_, state := state,
                                rejoinMark := s.link.config.autoRejoin && state == .detached }) ∧
    t.lamps.window = 0 ∧ t.lamps.windowOpen = false ∧ t.lamps.pending = none ∧ t.lamps.periodCounter = 0 ∧
    (∀ n x, s.lamps.lamps[n]? = some x → ∃ y, t.lamps.lamps[n]? = some ⟨x.config, false, .off, y⟩ ∧
      (n % 2 = 0 → y = .level .off) ∧
      ∀ e, n % 2 = 1 → s.lamps.lamps[n - 1]? = some e → y =
        if e.config.complement = true then
          (if e.config.gap < 1024 then .paired (2 * e.config.gap) (4096 - 2 * e.config.gap) else .paired 0 0)
        else .level .off) ∧
    t.frames = 0 ∧ t.pending = s.pending ∧
    memory s t


/-- The assertion of the RESET line: the burst ends, the port's queue empties and a message being sent stops (R205,
R174; log 9 puts the rest of the reset at the release). While the RESET line is held, every register reads 0 and every
command but POWER_ON and RESET_LINE leaves the part as it is (R205; log 9 for the commands that are no host access).
-/
def Obligations.HeldResetStopsPart : Prop :=
  (∀ s : State, s.Free → exec .resetLineAssert s = .next (publish s
    { s with resetHeld := true,
             disp := { s.disp with port := { s.disp.port with running := none, queue := [], asked := [], hostWait := none } },
             link := { s.link with sendBits := [], errorMark := none } })) ∧
  (∀ s : State, s.resetHeld = true → (∀ r, s.readReg r = 0) ∧
    ∀ c, c ≠ .powerOn → c ≠ .resetLine → exec c s = .next s)

/-! ### The host port (R184, R186, R187) -/

/-- A host access with no burst running is carried out: a write lands as a whole word, low byte first, and changes no other
byte; a read gives the word. Nothing else of the part changes. BURST_START: the oldest waiting burst starts when the
port is free (R187); it ends the initialization burst, which no row of the table ends, and carries out the host access
that waited for it (log 6); while a copy runs, and with no burst waiting, it leaves the part as it is (log 1). A host access
that meets a running burst is held on WAIT, and nothing else changes; a second one offered meanwhile leaves the part as it is
(log 1: the host carries out one access at a time). A burst ends: the port is free, and the host access on WAIT is carried out
on memory as it then stands (R187). The bursts asked for in one event stand in the fixed order of their kinds, captures,
impulse chunk, scene fetch, set list, bindings, whichever was asked for first (R187); a waiting burst asked for again keeps
its place, and a stale one of its kind is dropped (log 8). At the event's end they join the queue, and on a free port with an
empty queue the first starts at once. -/
def Obligations.PortServesHostAndBursts : Prop :=
  (∀ s : State, s.waitLine = true ↔ s.disp.port.hostWait ≠ none) ∧
  (∀ (m : Memory) (a : Nat) (w : Word), m.wf = true → a + 1 < 0x10000 → (m.writeWord a w).readWord a = w ∧
    ∀ b, b ≠ a → b ≠ a + 1 → (m.writeWord a w).read b = m.read b) ∧
  (∀ (s : State) (a : BitVec 15), s.Kept → s.resetHeld = false → s.disp.port.running = none →
    (∀ w, ∃ m, exec (.hostMemoryAccess (.write a w)) s = .next { s with mem := m } ∧
      m.readWord (2 * a.toNat) = w ∧ m.read (2 * a.toNat) = w.setWidth 8 ∧
      ∀ b, b ≠ 2 * a.toNat → b ≠ 2 * a.toNat + 1 → m.read b = s.mem.read b) ∧
    exec (.hostMemoryAccess (.read a)) s = .next
      { s with disp := { s.disp with port := { s.disp.port with hostData := s.mem.readWord (2 * a.toNat) } } }) ∧
  (∀ s : State, s.Kept → s.resetHeld = false →
    let start := fun (u : State) => match u.disp.port.queue with
      | [] => u
      | b :: rest => { u with disp := { u.disp with port := { u.disp.port with running := some b, queue := rest } } }
    (s.disp.port.running = none → exec .burstStart s = .next (start s)) ∧
    (s.disp.port.running = some .initialization → exec .burstStart s = .next (start (endBurst s))) ∧
    ∀ b, s.disp.port.running = some b → b ≠ .initialization → exec .burstStart s = .next s) ∧
  (∀ (s : State) (acc : HostAccess), s.Kept → s.resetHeld = false → s.disp.port.running ≠ none →
    (s.disp.port.hostWait = none → ∃ t, exec (.hostMemoryAccess acc) s = .next t ∧ t.waitLine = true ∧
      t = { s with disp := { s.disp with port := { s.disp.port with hostWait := some acc } } }) ∧
    (s.disp.port.hostWait ≠ none → exec (.hostMemoryAccess acc) s = .next s)) ∧
  (∀ s : State,
    let idle := { s with disp := { s.disp with port := { s.disp.port with running := none, hostWait := none } } }
    (s.disp.port.hostWait = none → endBurst s = idle) ∧
    (∀ a w, s.disp.port.hostWait = some (.write a w) →
      endBurst s = { idle with mem := s.mem.writeWord (2 * a.toNat) w }) ∧
    (∀ a, s.disp.port.hostWait = some (.read a) → endBurst s =
      { idle with disp := { idle.disp with port := { idle.disp.port with hostData := s.mem.readWord (2 * a.toNat) } } })) ∧
  (∀ (b : Burst) (s : State),
    let p := s.disp.port
    let inOrder := fun (l : List Burst) => l.Pairwise fun x y => x.rank ≤ y.rank
    let others := fun (l : List Burst) => l.filter fun x => !b.sameKind x
    let t := askBurst b s
    (b ∈ p.queue → t = s) ∧
    (b ∉ p.queue → t = { s with disp := { s.disp with port := { p with queue := others p.queue, asked := t.disp.port.asked } } } ∧
      (inOrder p.asked → ∃ before after, others p.asked = before ++ after ∧ t.disp.port.asked = before ++ b :: after)) ∧
    (inOrder p.asked → inOrder t.disp.port.asked)) ∧
  (∀ b c : Burst, b.sameKind c = true ↔ (∃ i m n, b = .orderCapture i m ∧ c = .orderCapture i n) ∨
    (1 < b.rank ∧ b.rank = c.rank)) ∧
  (∀ i n : Nat, Burst.rank (.orderCapture i n) = 1 ∧ Burst.rank (.impulseChunk i) = 2 ∧ Burst.rank (.sceneFetch i n) = 3 ∧
    Burst.rank (.setlistCopy i) = 4 ∧ Burst.rank (.bindingCopy i) = 5 ∧ Burst.rank .initialization = 0) ∧
  ∀ p : Port,
    (∀ b rest, p.running = none → p.queue = [] → p.asked = b :: rest →
      p.queueAsked = { p with running := some b, queue := rest, asked := [] }) ∧
    (p.running ≠ none ∨ p.queue ≠ [] ∨ p.asked = [] → p.queueAsked = { p with queue := p.queue ++ p.asked, asked := [] })

/-! ### Registers (R188, R193, R199, R200) -/

/-- The five registers read the fields that R188 names, and 0 in every other bit: ID the part code 0x60, revision 1
and POR; SLOTCMD 0; ATTN and ATTNEN six bits, bit 0 REPORTS, 1 TUNER, 2 LOST, 3 ABNORMAL, 4 LINK, 5 MODE; MODE the
mode, SETUP_ACK and SETUP_PENDING. POR_CLEAR clears POR when bit 0 is 1 and changes nothing else. A write is the
command its register and fields name: SLOTCMD by bits 15 to 12 with the slot of bits 7 to 0, MODE by bits 1 and 0. A write
of ATTN clears each flag whose bit is 1 but REPORTS, which stays the level of the FILLING page's count; with ABNORMAL it
empties the misuse record, and with LOST it sets the count of dropped reports to 0 (R193, R199, R206). -/
def Obligations.RegistersReadAndAttnClears : Prop :=
  (∀ s : State, s.resetHeld = false →
    s.readReg .id = (if s.disp.por then 0x6011 else 0x6010) ∧ s.readReg .slotcmd = 0 ∧
    s.readReg .attn = s.attn.setWidth 16 ∧ s.readReg .attnen = s.disp.attnEnable.setWidth 16 ∧
    (s.readReg .mode).getLsbD 0 = (s.disp.mode == .run) ∧ (s.readReg .mode).getLsbD 1 = s.disp.setupAck ∧
    (s.readReg .mode).getLsbD 2 = s.disp.setupPending ∧ (∀ i, 3 ≤ i → (s.readReg .mode).getLsbD i = false) ∧
    ∀ v : Word, exec (.porClear v) s =
      .next (publish s { s with disp := { s.disp with por := s.disp.por && !v.getLsbD 0 } }) ∧
    (let a := s.disp.attention
     s.attn.getLsbD 0 = decide (0 < s.disp.pages.fillingCount) ∧ s.attn.getLsbD 1 = a.tuner ∧ s.attn.getLsbD 2 = a.lost ∧
       s.attn.getLsbD 3 = a.abnormal ∧ s.attn.getLsbD 4 = a.link ∧ s.attn.getLsbD 5 = a.mode) ∧
    (let op := v.extractLsb' 12 4
     let slot := v.setWidth 8
     registerCommand .id v = some (.porClear v) ∧ registerCommand .attn v = some (.attnWrite v) ∧
       registerCommand .attnen v = some (.attnenWrite v) ∧
       registerCommand .slotcmd v = some (if op = 1 then .post slot else if op = 2 then .cancel slot
         else if op = 3 then .reclaim slot else if op = 4 then .take slot else .badOperation op slot) ∧
       registerCommand .mode v = (if v.extractLsb' 0 2 = 1 then some .setupRequest
         else if v.extractLsb' 0 2 = 2 then some .runRequest
         else if v.extractLsb' 0 2 = 3 then some .softReset else none))) ∧
  ∀ (s : State) (v : Word), s.resetHeld = false → ∃ t, exec (.attnWrite v) s = .next t ∧
    (∀ i, i < 6 → t.attn.getLsbD i = (s.attn.getLsbD i && (i == 0 || !v.getLsbD i))) ∧
    (s.attn.getLsbD 0 = true ↔ 0 < s.disp.pages.fillingCount) ∧
    t.disp.misuse = (if v.getLsbD 3 then none else s.disp.misuse) ∧
    t.disp.dropped = (if v.getLsbD 2 then 0 else s.disp.dropped) ∧
    t = publish s { s with disp := { s.disp with attention := t.disp.attention, misuse := t.disp.misuse, dropped := t.disp.dropped } }

/-- R200 whole: ATTNEN holds the enables a write gives it, IRQ is high exactly while an enabled flag is set, and
ATTNEN is 0 with IRQ low after each kind of reset. -/
def Obligations.IrqFollowsEnabledFlags : Prop :=
  (∀ s : State, s.irq = true ↔ ∃ i, i < 6 ∧ s.attn.getLsbD i = true ∧ s.disp.attnEnable.getLsbD i = true) ∧
    (∀ (s : State) (v : Word), s.resetHeld = false → ∃ t, exec (.attnenWrite v) s = .next t ∧
      t = publish s { s with disp := { s.disp with attnEnable := v.setWidth 6 } } ∧ t.attn = s.attn ∧
      ∀ i, i < 6 → s.attn.getLsbD i = true → v.getLsbD i = true → t.irq = true) ∧
    (∀ s t : State, exec .powerOn s = .next t ∨ exec .resetLine s = .next t ∨
      (s.resetHeld = false ∧ exec .softReset s = .next t) → t.disp.attnEnable = 0 ∧ t.irq = false) ∧
    ∀ (s : State) (e : BitVec 6), s.resetHeld = false →
      let t := { s with disp := { s.disp with attnEnable := e } }
      t.attn = s.attn ∧ t.readReg .attn = s.attn.setWidth 16 ∧ t.readReg .attnen = e.setWidth 16

/-- R193: the five causes, what each leaves, and that clearing ABNORMAL empties the record. -/
def Obligations.MisuseIsRecorded : Prop :=
  ∀ (s : State) (slot : BitVec 8), s.resetHeld = false →
    let next := fun cause => Host.Outcome.next (publish s (afterMisuse cause slot s))
    (slot.toNat ≤ 31 → (s.slot slot.toNat).state ≠ .free → exec (.post slot) s = next .postBusy) ∧
    (slot.toNat ≤ 31 → (s.slot slot.toNat).state = .free → exec (.cancel slot) s = next .cancelFree) ∧
    (slot.toNat ≤ 31 → (s.slot slot.toNat).state ≠ .done → exec (.reclaim slot) s = next .reclaimEarly) ∧
    (31 < slot.toNat → exec (.post slot) s = next .slotRange ∧ exec (.cancel slot) s = next .slotRange ∧
      exec (.reclaim slot) s = next .slotRange) ∧
    (∀ op : BitVec 4, op ≠ 1 → op ≠ 2 → op ≠ 3 → op ≠ 4 → exec (.badOperation op slot) s = next .badOperation) ∧
    (∀ v : Word, v.getLsbD 3 = true → ∃ t, exec (.attnWrite v) s = .next t ∧ t.disp.attention.abnormal = false ∧
      t.disp.misuse = none)

/-! ### Order slots (R190-R195) -/

/-- A POST of a FREE slot (R190): the slot WAITING with its cancel mark clear, the post counter raised and written as the
post number, the slot last in the age list, an order capture asked for. The capture starts at once when the port is free and
no burst waits, and the stamp tells equal arrival times apart (logs 8, 33). RECLAIM of a DONE slot (R192): FREE, with its
result fields kept, in the slot and in memory. Nothing else changes: the outcome is the writes named, with the status words
they change. Any other RECLAIM is misuse, as is an operation code other than 1 to 4, and the slot field of TAKE is ignored
(R192, R193). The end of an order capture (R190): the record is the 52 bytes as they stand; a bad kind or priority completes
BAD_ARGUMENT with the value as written, of two bad ones the kind, by the model's choice (log 79); otherwise the order is
routable. A capture of an older post is not used. -/
def Obligations.PostCaptureAndReclaimMoveSlot : Prop :=
  (∀ (s : State) (slot : BitVec 8), s.resetHeld = false → slot.toNat ≤ 31 → (s.slot slot.toNat).state = .free →
    let i := slot.toNat
    let number := s.disp.postCounter + 1
    let x := { s.slot i with
      state := .waiting, cancelMark := false, postNumber := number, postTime := s.frames, stamp := s.stamp,
      order := none, routable := false }
    let b := Burst.orderCapture i s.stamp
    let waiting := s.disp.port.queue.filter fun y => !b.sameKind y
    let t := publish s (askBurst b { s with
      stamp := s.stamp + 1,
      writes := s.writes ++ [(slotBase i + 0x34, x.slotWord), (slotBase i + 0x36, number)],
      disp := { s.disp with slots := putAt 32 i x Slot.reset s.disp.slots, postCounter := number,
                            ageList := s.disp.ageList ++ [i] } })
    exec (.post slot) s = .next t ∧ t.slot i = x ∧ (∀ j, j < 32 → j ≠ i → t.slot j = s.slot j) ∧
      (s.disp.port.asked = [] → t.disp.port = if b ∈ s.disp.port.queue then s.disp.port
        else if s.disp.port.running = none ∧ waiting = [] then { s.disp.port with running := some b, queue := [] }
        else { s.disp.port with queue := waiting ++ [b] }) ∧
      (s.mem.wf = true → t.mem.readWord (slotBase i + 0x34) = x.slotWord ∧ t.mem.readWord (slotBase i + 0x36) = number)) ∧
  (∀ (s : State) (slot : BitVec 8), s.resetHeld = false →
    let i := slot.toNat
    (i ≤ 31 → (s.slot i).state = .done →
      let y := { s.slot i with state := .free }
      let t := publish s { s with
        writes := s.writes ++ [(slotBase i + 0x34, y.slotWord)],
        disp := { s.disp with slots := putAt 32 i y Slot.reset s.disp.slots } }
      exec (.reclaim slot) s = .next t ∧ t.slot i = y ∧ (∀ j, j < 32 → j ≠ i → t.slot j = s.slot j) ∧
        (s.mem.wf = true → t.mem.readWord (slotBase i + 0x34) = y.slotWord ∧ (s.writes = [] → ∀ k < 4,
          t.mem.readWord (slotBase i + 0x38 + 2 * k) = s.mem.readWord (slotBase i + 0x38 + 2 * k)))) ∧
    (i ≤ 31 → (s.slot i).state ≠ .done → exec (.reclaim slot) s = .next (publish s (afterMisuse .reclaimEarly slot s))) ∧
    (31 < i → exec (.reclaim slot) s = .next (publish s (afterMisuse .slotRange slot s))) ∧
    (∀ x y, exec (.take x) s = exec (.take y) s) ∧
    (∀ op : BitVec 4, op ≠ 1 → op ≠ 2 → op ≠ 3 → op ≠ 4 →
      exec (.badOperation op slot) s = .next (publish s (afterMisuse .badOperation slot s)))) ∧
  ∀ (s : State) (i stamp : Nat), s.resetHeld = false → i < 32 → s.disp.port.running = some (.orderCapture i stamp) →
    let l := s.mem.bytes (slotBase i) 52
    let o : Order := ⟨byteAt l 0, byteAt l 1, word (wordAt l 2), l.drop 4⟩
    let x := s.slot i
    let after := fun u => exec .orderCapture s = .next (publish s (finish u))
    (x.state = .waiting → x.stamp = stamp → o.kind = 0 ∨ 18 < o.kind →
      after (complete i .badArgument ResultFlags.none [word o.kind] (setSlot i { x with order := some o } (endBurst s)))) ∧
    (x.state = .waiting → x.stamp = stamp → 1 ≤ o.kind → o.kind ≤ 18 → 7 < o.priority →
      after (complete i .badArgument ResultFlags.none [word o.priority] (setSlot i { x with order := some o } (endBurst s)))) ∧
    (x.state = .waiting → x.stamp = stamp → 1 ≤ o.kind → o.kind ≤ 18 → o.priority ≤ 7 →
      after (setSlot i { x with order := some o, routable := true } (endBurst s))) ∧
    (x.state ≠ .waiting ∨ x.stamp ≠ stamp → after (endBurst s))


/-- A CANCEL by the slot's state (R191): WAITING completes CANCELLED with result words 0; RUNNING and unmarked is
marked and the cancel passed to the owner (for an owner that can end the order, `passCancel`; any other goes on);
RUNNING and marked, and DONE, change nothing. The scene unit (R63) drops an attached load, or the request that waits in
FADING, or from FETCHING to ARMED abandons its load; it is too late for a lean switch while the unit is LEAN_EMPTYING or
loads for it, FETCHING to PREPARING (R60, R76), but not in ARMED; elsewhere it goes on. That an attached load is cancelled in
every state, a lean switch included, where the rows of R63 overlap, is the model's choice (log 43). The link controller (R164)
empties a PENDING hold, and the controller's next choice is then made at once (step 5 of R195; log 31), and it marks a
SENDING one. -/
def Obligations.CancelActsBySlotState : Prop :=
  (∀ (s : State) (slot : BitVec 8), s.resetHeld = false → slot.toNat ≤ 31 →
    let i := slot.toNat
    let x := s.slot i
    let marked := writeSlot i { x with cancelMark := true } s
    (x.state = .waiting → exec (.cancel slot) s = .next (publish s (finish (complete i .cancelled ResultFlags.none [] s)))) ∧
    (x.state = .running → x.cancelMark = false →
      exec (.cancel slot) s = .next (publish s (finish (passCancel i marked))) ∧
      (x.kind ≠ some .sceneLoad → x.kind ≠ some .sceneGo → x.kind ≠ some .sceneSwap → x.kind ≠ some .linkSend →
        passCancel i marked = marked)) ∧
    (x.state = .running → x.cancelMark = true → exec (.cancel slot) s = .next (publish s s)) ∧
    (x.state = .done → exec (.cancel slot) s = .next (publish s s))) ∧
  (∀ (s : State) (i : Nat),
    (s.slot i).kind = some .sceneLoad ∨ (s.slot i).kind = some .sceneGo ∨ (s.slot i).kind = some .sceneSwap →
    let cancelled := complete i .cancelled ResultFlags.none []
    (s.scene.latch = none → passCancel i s = s) ∧
    ∀ r, s.scene.latch = some r →
      let loads := s.scene.state = .fetching ∨ s.scene.state = .allocating ∨ s.scene.state = .zeroing ∨
        s.scene.state = .preparing
      let works := (loads ∧ s.scene.leanLoad = false) ∨ s.scene.state = .armed
      (r.attached = some i → passCancel i s =
        cancelled { s with scene := { s.scene with latch := some { r with attached := none } } }) ∧
      (r.attached ≠ some i → r.origin = .slot i →
        (s.scene.state = .fading → passCancel i s = cancelled { s with scene := { s.scene with latch := none } }) ∧
        (works → passCancel i s = completeSlot r.attached .superseded ResultFlags.none [] (cancelled
          { abandonLoad s with scene := { (abandonLoad s).scene with state := .idle, latch := none, leanLoad := false } })) ∧
        (s.scene.state ≠ .fading → ¬ works → passCancel i s = s)) ∧
      (r.attached ≠ some i → r.origin ≠ .slot i → passCancel i s = s)) ∧
  ∀ (s : State) (i h : Nat), (s.slot i).kind = some .linkSend → h < 3 → (s.hold h).origin = .slot i →
    (∀ g < h, (s.hold g).state = .empty ∨ (s.hold g).origin ≠ .slot i) →
    ((s.hold h).state = .pending → passCancel i s =
      chooseLink (complete i .cancelled ResultFlags.none [] (setHold h Hold.empty s))) ∧
    ((s.hold h).state = .sending → passCancel i s = setHold h { s.hold h with cancelMark := true } s)

/-- The slot word and its codes, the order kinds and their owners (R194, R208). A completion (R195): the result words, the
slot word with the new code and flags (CANCEL_TOO_LATE where R191 adds it) beside the old state, the slot word with DONE,
written in this order; the slot off the age list; the ORDER_DONE report; every other slot as it was. Step 5, the next choice
of its owner, is `chooseFor`, which stands where an event goes on after a completion, and `finish` at its end (log 31). An
order that was never captured shows kind 0 and tag 0 in its report, by the model's choice (log 26). The choice of R194:
while an owner has fewer RUNNING orders than it takes (three for the link controller, one for any other) it is handed a
WAITING routable order of its own that stands in the age list, no LINK_SEND, when there is one; no such order is more
urgent, and none of equal priority stands earlier. -/
def Obligations.OrdersCompleteAndNextIsChosen : Prop :=
  (chooseLane = chooseFor .laneEngine 33 ∧ chooseScene = chooseFor .sceneUnit 33 ∧ chooseLink = chooseFor .link 33) ∧
  (∀ (n i j : Nat) (x d : Slot) (l : List Slot), j < n → (putAt n i x d l).length = n ∧
    (putAt n i x d l).getD j d = if j = i then x else l.getD j d) ∧
  ((∀ i, slotBase i = 0x200 + 64 * i) ∧
    (∀ x : Slot, x.slotWord = word (x.state.code + (if x.cancelMark = true then 4 else 0) + 16 * x.code.code + 256 * x.flags.code)) ∧
    (∀ x : Bool, natOfBool x = if x = true then 1 else 0) ∧
    (∀ a b c d e f : Bool, ResultFlags.code ⟨a, b, c, d, e, f⟩ =
      natOfBool a + 2 * natOfBool b + 4 * natOfBool c + 8 * natOfBool d + 16 * natOfBool e + 32 * natOfBool f) ∧
    [SlotState.free, .waiting, .running, .done].map SlotState.code = [0, 1, 2, 3] ∧
    [ResultCode.ok, .cancelled, .superseded, .badArgument, .wrongMode, .badRecord, .emptyEntry, .overBudget, .noLineMemory,
      .missingImpulse, .inUse, .notReady, .linkFailed, .linkDetached].map ResultCode.code = List.range 14 ∧
    ((List.range 20).map OrderKind.ofCode = [none] ++ [OrderKind.sceneLoad, .sceneGo, .sceneSwap, .setlistLoad, .setlistMove,
      .stageSet, .stageBypass, .muteSet, .tunerSet, .tempoSet, .bindLoad, .impulseLoad, .impulseDrop, .linkSend, .linkConfig,
      .linkRejoin, .controlConfig, .lampConfig].map some ++ [none]) ∧
    ∀ k : OrderKind, k.owner = match k with
      | .sceneLoad | .sceneGo | .sceneSwap | .setlistLoad | .setlistMove => .sceneUnit
      | .stageSet | .stageBypass | .muteSet => .laneEngine
      | .impulseLoad | .impulseDrop => .lineMemory
      | .tunerSet => .tuner
      | .tempoSet => .tempoUnit
      | .bindLoad => .bindingUnit
      | .linkSend | .linkConfig | .linkRejoin => .link
      | .controlConfig => .switchScanner
      | .lampConfig => .lampDriver) ∧
  (∀ (s : State) (i : Nat) (code : ResultCode) (flags : ResultFlags) (words : List Word), i < 32 →
    (s.slot i).state = .waiting ∨ (s.slot i).state = .running →
    let t := complete i code flags words s
    let x := { s.slot i with
      state := .done, code := code, words := (words ++ [0, 0, 0, 0]).take 4,
      flags := { flags with cancelTooLate :=
        flags.cancelTooLate || ((s.slot i).cancelMark && code != .cancelled && code != .superseded) } }
    let report := orderDoneReport i x s.frameCounter
    t = appendReport report { s with
        writes := s.writes ++ wordsAt (slotBase i + 0x38) x.words ++
          [(slotBase i + 0x34, { x with state := (s.slot i).state }.slotWord), (slotBase i + 0x34, x.slotWord)],
        disp := { s.disp with slots := putAt 32 i x Slot.reset s.disp.slots,
                              ageList := s.disp.ageList.filter (· != i) } } ∧
      t.slot i = x ∧ (∀ j, j < 32 → j ≠ i → t.slot j = s.slot j) ∧
      report.words = [bytePair 1 0, word (0x1000 + i), lowWord s.frameCounter, highWord s.frameCounter,
        bytePair ((x.order.map Order.kind).getD 0) code.code, (x.order.map Order.tag).getD 0, word (256 * x.flags.code),
        x.postNumber] ++ x.words ++ [0, 0, 0, 0]) ∧
  (∀ (s : State) (o : Owner),
    (∀ i, s.choice o = some i → ∃ before after, s.disp.ageList = before ++ i :: after ∧ (s.slot i).offeredTo o = true ∧
      (∀ j ∈ before, (s.slot j).offeredTo o = true → (s.slot i).priority < (s.slot j).priority) ∧
      (∀ j ∈ after, (s.slot j).offeredTo o = true → (s.slot i).priority ≤ (s.slot j).priority)) ∧
    ((∃ i ∈ s.disp.ageList, (s.slot i).offeredTo o = true) → ∃ i, s.choice o = some i)) ∧
  (∀ (x : Slot) (o : Owner), x.offeredTo o = true ↔ x.state = .waiting ∧ x.routable = true ∧ x.kind ≠ some .linkSend ∧
    ∃ k, x.kind = some k ∧ k.owner = o) ∧
  (∀ (s : State) (o : Owner), s.ownerFree o = true ↔
    (s.disp.slots.filter fun x => x.state == .running && x.owner == some o).length < if o = .link then 3 else 1) ∧
  (∀ (s : State) (o : Owner) (n : Nat),
    (s.ownerFree o = false ∨ s.choice o = none → chooseFor o n s = s) ∧
    ∀ i, s.ownerFree o = true → s.choice o = some i → chooseFor o (n + 1) s = chooseFor o n (handOver i s)) ∧
  ∀ (s : State) (i : Nat) (k : OrderKind) (o : Order), (s.slot i).kind = some k → (s.slot i).order = some o →
    handOver i s = takeOrder k i o.args (writeSlot i { s.slot i with state := .running } s)

/-- The takings of the order kinds that their owner ends or starts at once, over the arguments of R209; what each fault list
refuses is in FaultyFieldsAreNamed. That CONTROL_CONFIG takes a line's level from the pins as the last boundary presented
them, and that an OFF line keeps its own, is the model's choice (log 10; log 77 for its run count and for a disabled pedal).
MUTE_SET (R27); STAGE_SET and STAGE_BYPASS join the request list (R22, R23); SETLIST_LOAD and BIND_LOAD ask for their copy
(R77, R144); SETLIST_MOVE (R78) moves the cursor, clears nothing else, and takes the GO of the entry there; IMPULSE_LOAD
(R41) drops the old set and takes the new blocks, IMPULSE_DROP (R44) drops it; LINK_CONFIG and LINK_REJOIN (R169, R170);
CONTROL_CONFIG (R128); LAMP_CONFIG (R181) waits for a period start; TEMPO_SET (R91); TUNER_SET (R96, R97). Each with its
refusals: BAD_ARGUMENT with the offset of the first field at fault where the rule asks for it, EMPTY_ENTRY, IN_USE,
NO_LINE_MEMORY, WRONG_MODE. -/
def Obligations.OrdersAreTakenByTheirOwners : Prop :=
  (∀ a b c d e : Bool, MuteSet.code ⟨a, b, c, d, e⟩ =
    natOfBool a + 2 * natOfBool b + 4 * natOfBool c + 8 * natOfBool d + 16 * natOfBool e) ∧
  (∀ x : Bool, wordOfBool x = if x = true then 1 else 0) ∧
  ∀ (s : State) (i : Nat) (args : List Byte),
    let b := byteAt args
    let fails := fun (code : ResultCode) (words : List Word) (u : State) => complete i code ResultFlags.none words u
    let done := fun (words : List Word) (u : State) => complete i .ok ResultFlags.none words u
    let faulty := fun (k : OrderKind) (l : List (Nat × Bool)) =>
      ∀ f, firstFault l = some f → takeOrder k i args s = fails .badArgument [word f] s
    (1 < b 0 → takeOrder .muteSet i args s = fails .badArgument [] s) ∧
    (b 0 ≤ 1 → let u := changeMute (fun m => { m with order := b 0 == 1 }) s
      takeOrder .muteSet i args s = done [word u.lane.mute.code] u) ∧
    takeOrder .stageSet i args s = { s with lane := { s.lane with
      requests := s.lane.requests ++ [.setOrder i (b 0) (b 1) (b 2) (signedAt args 4)] } } ∧
    takeOrder .stageBypass i args s = { s with lane := { s.lane with
      requests := s.lane.requests ++ [.bypassOrder i (b 0) (b 1) (b 2)] } } ∧
    takeOrder .setlistLoad i args s = askBurst (.setlistCopy i) s ∧
    takeOrder .bindLoad i args s = askBurst (.bindingCopy i) s ∧
    (let v := signedAt args 2
     let l := s.scene.setList
     let out := 1 < b 0 ∨ (b 0 = 0 ∧ (v < -31 ∨ 31 < v))
     let aim : Int := if b 0 = 1 then v else s.scene.cursor + v
     let lands := if 0 ≤ aim ∧ aim < l.count then some aim.toNat
       else if b 0 = 0 ∧ l.wrap = true then some (aim % l.count).toNat else none
     (out → takeOrder .setlistMove i args s = fails .badArgument [] s) ∧
     (¬ out → l.count = 0 → takeOrder .setlistMove i args s = fails .emptyEntry [] s) ∧
     (¬ out → 0 < l.count → lands = none → takeOrder .setlistMove i args s = fails .badArgument [] s) ∧
     ∀ c, ¬ out → 0 < l.count → lands = some c →
       let scene := l.entries.getD c 0
       takeOrder .setlistMove i args s = done [word c, word scene] (takeRequest (newRequest .go scene none (.setList c))
         { s with scene := { s.scene with cursor := c } })) ∧
    (let id := b 0
     let taps := wordAt args 2
     let users := s.lines.usersOf id
     let need := (taps + 959) / 960
     let free := { s.lines with
       map := s.lines.map.map fun h => if h == .impulse id then .free else h,
       impulses := putAt 16 id ⟨.empty, 0, 0⟩ ImpulseEntry.empty s.lines.impulses }
     let out := 15 < id ∨ taps < 64 ∨ 1920 < taps
     (out → takeOrder .impulseLoad i args s = fails .badArgument [] s) ∧
     (¬ out → 0 < users → takeOrder .impulseLoad i args s = fails .inUse [word users] s) ∧
     (¬ out → users = 0 → free.freeCount < need →
       takeOrder .impulseLoad i args s = fails .noLineMemory [word need, word free.freeCount] { s with lines := free }) ∧
     (¬ out → users = 0 → need ≤ free.freeCount → takeOrder .impulseLoad i args s = { s with lines := { free with
       map := (takeFree (.impulse id) free.map need 0).1,
       impulses := putAt 16 id ⟨.loading, taps, 0⟩ ImpulseEntry.empty free.impulses } }) ∧
     (15 < id → takeOrder .impulseDrop i args s = fails .badArgument [] s) ∧
     (id ≤ 15 → 0 < users → takeOrder .impulseDrop i args s = fails .inUse [word users] s) ∧
     (id ≤ 15 → users = 0 → takeOrder .impulseDrop i args s =
       done [word (s.lines.blockList (.impulse id)).length] { s with lines := free })) ∧
    (let c := linkConfigOf args
     let begins := c.autoRejoin && !s.link.config.autoRejoin && s.link.state == .detached
     (s.disp.mode = .run → takeOrder .linkConfig i args s = fails .wrongMode [] s) ∧
     (s.disp.mode = .setup → faulty .linkConfig (linkConfigFaults args) ∧
       (firstFault (linkConfigFaults args) = none → takeOrder .linkConfig i args s = done [] { s with
         writes := s.writes ++ wordsAt 0x158 c.words,
         link := { s.link with config := c, addressSeen := false, rejoinMark := s.link.rejoinMark || begins,
                               rejoinCount := if begins then 0 else s.link.rejoinCount } }))) ∧
    (let begins := s.link.state = .detached ∧ s.link.rejoinMark = false
     let u := if begins then { s with link := { s.link with rejoinMark := true, rejoinCount := 0 } } else s
     (s.disp.mode = .setup → takeOrder .linkRejoin i args s = fails .wrongMode [] s) ∧
     (s.disp.mode = .run → takeOrder .linkRejoin i args s =
       done [word s.link.state.code, word s.link.tec, word s.link.rec_, word u.link.rejoinCount] u)) ∧
    (s.disp.mode = .run → takeOrder .controlConfig i args s = fails .wrongMode [] s) ∧
    (s.disp.mode = .setup → faulty .controlConfig (controlFaults args) ∧
      (firstFault (controlFaults args) = none → ∃ u : State, takeOrder .controlConfig i args s =
          done [] { u with writes := s.writes ++ wordsAt 0x128 u.controlWords } ∧
        u = { s with pedals := u.pedals,
                     scanner := { s.scanner with lines := u.scanner.lines, window := wordAt args 0x20 } } ∧
        u.pedal 0 = (s.pedal 0).configure (pedalConfigAt args 0x22) ∧
        u.pedal 1 = (s.pedal 1).configure (pedalConfigAt args 0x28) ∧
        ∀ n x, s.scanner.lines[n]? = some x →
          let c := lineConfigOf (longAt args (4 * n))
          let stopped := { x with config := c, run := 0, settle := none, hold := none, rept := none }
          u.scanner.lines[n]? = some (if c.mode = .off then { stopped with state := .off }
            else { stopped with state := .standby, level := s.scanner.pins.getLsbD n == c.activeHigh }))) ∧
    (let out := 11 < b 0 ∨ b 1 < 1 ∨ 6 < b 1 ∨ 12 < b 0 + b 1
     let faults := (List.range (b 1)).flatMap fun k => lampFaults args k (b 0 + k)
     (out → takeOrder .lampConfig i args s = fails .badArgument [] s) ∧ (¬ out → faulty .lampConfig faults) ∧
     (¬ out → firstFault faults = none → takeOrder .lampConfig i args s = { s with lamps := { s.lamps with
       pending := some ⟨i, b 0, (List.range (b 1)).map fun k => lampConfigAt args k (b 0 + k)⟩ } })) ∧
    (let v := wordAt args 0
     let w := if v = 0 then s.tempo.tempo else max 400 (min 3000 v)
     let u := if w = s.tempo.tempo then s
       else { s with tempo := { s.tempo with tempo := w }, lane := { s.lane with notedTempo := w, tempoNoted := true } }
     let fresh := fun (x : TempoUnit) => { x with history := [], lastTap := none }
     let same := fresh { u.tempo with source := s.tempo.source }
     let x := if b 2 = 1 ∧ s.tempo.source = .internal then
         { same with source := .link, prevBeat := none, watch := some 3000, linkLost := false }
       else if b 2 = 0 ∧ s.tempo.source = .link then { same with source := .internal, watch := none, linkLost := false }
       else same
     (1 < b 2 → takeOrder .tempoSet i args s = fails .badArgument [] s) ∧
     (b 2 ≤ 1 → takeOrder .tempoSet i args s =
       complete i .ok { ResultFlags.none with clamped := v != 0 && w != v } [word w, word (b 2)] { u with tempo := x })) ∧
    faulty .tunerSet (tunerFaults args) ∧
    (firstFault (tunerFaults args) = none →
      let old := s.tuner.settings
      let new := tunerSettingsOf args
      let set := { s with tuner := { s.tuner with settings := { new with on := old.on } } }
      let answers := fun (u : State) => takeOrder .tunerSet i args s =
        done [wordOfBool u.tuner.settings.on, word u.tuner.cell.status.code] u
      (old.on = false → new.on = true → answers (switchTunerOn set)) ∧
      (old.on = true → new.on = false → answers
        (if old.thru then switchTunerOff set else muteTuner false (switchTunerOff set))) ∧
      (old.on = false → new.on = false → answers set) ∧
      (old.on = true → new.on = true →
        let u := if old.sourceB = new.sourceB ∧ old.level = new.level ∧ old.wide = new.wide ∧ old.n = new.n then set
          else settleTuner set
        answers (if old.thru = new.thru then u else muteTuner (!new.thru) u)))

/-- What the checks of the configuration orders refuse, each list in ascending offset, of which the first field that fails
is named (R209; log 25 for a toe equal to its heel): TUNER_SET (R96), LINK_CONFIG (R169), CONTROL_CONFIG (R128) and a lamp
of LAMP_CONFIG (R181; log 56 for the bits of a STAGE argument that are not checked). The fields the fault lists speak of lie
in the argument bytes as R209 lays them out. A pedal under its new configuration (R128): disabled, raw and value are 0;
enabled anew or with another reference, it settles with 4 readings to discard; else it goes on as it is. That a pedal which
becomes DISABLED keeps its other fields is the model's choice (log 77). -/
def Obligations.FaultyFieldsAreNamed : Prop :=
  (∀ l : List (Nat × Bool), (firstFault l = none ↔ ∀ x ∈ l, x.2 = false) ∧ ∀ f, firstFault l = some f ↔
    ∃ before after, l = before ++ (f, true) :: after ∧ ∀ x ∈ before, x.2 = false) ∧
  (∀ args : List Byte,
    let b := byteAt args
    let w := wordAt args
    ((tunerFaults args).map Prod.fst = [0, 1, 2, 3, 4, 5, 6, 8, 9] ∧ ∀ x ∈ tunerFaults args, x.2 = true ↔
      (x.1 ∈ [0, 1, 2, 4, 9] ∧ 1 < b x.1) ∨ (x.1 = 3 ∧ (b 3 < 1 ∨ 7 < b 3)) ∨ (x.1 = 5 ∧ b 5 ∉ [1, 2, 4, 8]) ∨
      (x.1 = 6 ∧ (w 6 < 4200 ∨ 4600 < w 6)) ∨ (x.1 = 8 ∧ (b 8 < 1 ∨ 10 < b 8))) ∧
    ((linkConfigFaults args).map Prod.fst =
        [0x20, 0x21, 0x22, 0x23, 0x24, 0x25, 0x26, 0x27, 0x28, 0x2A, 0x2C, 0x2D, 0x2E] ∧
      ∀ x ∈ linkConfigFaults args, x.2 = true ↔ (x.1 < 0x28 ∧ b x.1 / 2 % 4 = 3) ∨ (x.1 = 0x28 ∧ w 0x28 ∉ [125, 250, 500]) ∨
        (x.1 = 0x2A ∧ 1023 < w 0x2A ∧ w 0x2A ≠ 0xFFFF) ∨ (x.1 = 0x2C ∧ 63 < b 0x2C) ∨
        (x.1 ∈ [0x2D, 0x2E] ∧ 1 < b x.1)) ∧
    ((controlFaults args).map Prod.fst =
        [0, 4, 8, 12, 16, 20, 24, 28, 0x20, 0x22, 0x24, 0x26, 0x28, 0x2A, 0x2C] ∧
      ∀ x ∈ controlFaults args, x.2 = true ↔
        (x.1 < 0x20 ∧ (let e := longAt args x.1
          let repeats := e / 2 ^ 9 % 2 ^ 10
          let holds := e / 2 ^ 19 % 2 ^ 12
          e / 2 ^ 4 % 2 ^ 5 = 0 ∨ repeats < 50 ∨ 1000 < repeats ∨ (holds ≠ 0 ∧ (holds < 200 ∨ 2550 < holds)) ∨
            holds % 10 ≠ 0 ∨ (e % 4 = 3 ∧ holds = 0))) ∨
        (x.1 = 0x20 ∧ (w 0x20 < 20 ∨ 100 < w 0x20)) ∨
        (x.1 ∈ [0x22, 0x28] ∧ (let dead := w x.1 / 2 ^ 8 % 2 ^ 6
          dead < 1 ∨ 50 < dead)) ∨
        (x.1 ∈ [0x24, 0x2A] ∧ 1020 < w x.1) ∨ (x.1 ∈ [0x26, 0x2C] ∧ (1020 < w x.1 ∨ w x.1 = w (x.1 - 2)))) ∧
    (∀ k n : Nat,
      let o := 2 + 6 * k
      let a := b (o + 1)
      let on := w (o + 2)
      (lampFaults args k n).map Prod.fst = [o, o + 1, o + 2] ∧ ∀ x ∈ lampFaults args k n, x.2 = true ↔
        (x.1 = o ∧ 10 < b o) ∨
        (x.1 = o + 1 ∧ ((b o = 2 ∧ (a / 16 % 4 ∉ [1, 2] ∨ 11 < a % 16)) ∨ (b o = 3 ∧ 63 < a) ∨ (b o = 4 ∧ 31 < a))) ∨
        (x.1 = o + 2 ∧ (on / 2 ^ 12 % 4 = 3 ∨ (on / 2 ^ 14 % 2 = 1 ∧ n % 2 = 1))))) ∧
  ∀ (c : PedalConfig) (x : Pedal),
    (c.enable = false → x.config.enable = true → x.configure c =
      { x with config := c, state := .disabled, raw := 0, value := 0 }) ∧
    (c.enable = false → x.config.enable = false → x.configure c = { x with config := c }) ∧
    (c.enable = true → x.config.enable = false ∨ x.config.internalRef ≠ c.internalRef → x.configure c =
      { x with config := c, state := .settling, discard := 4, high := 0, low := 0 }) ∧
    (c.enable = true → x.config.enable = true → x.config.internalRef = c.internalRef → x.configure c =
      { x with config := c })

/-- Which byte becomes which field (R207, R209, R214, R215), for any bytes: words little-endian, a 32-bit field low word
first, a signed field in two's complement; a profile, a notice, a binding entry, a lane's header, the entries of
CONTROL_CONFIG, LINK_CONFIG, TUNER_SET and LAMP_CONFIG, and a LINK_SEND's message. What a value out of range is read as
never matters, since the checks that FaultyFieldsAreNamed and RecordsAndEntriesAreChecked give refuse it. -/
def Obligations.FieldsAreReadFromBytes : Prop :=
  (∀ (m : Memory) (a n : Nat), m.readWord a = m.read (a + 1) ++ m.read a ∧ (m.bytes a n).length = n ∧
    ∀ i < n, byteAt (m.bytes a n) i = (m.read (a + i)).toNat) ∧
  ∀ l : List Byte,
    let b := byteAt l
    let w := wordAt l
    let v := signedAt l
    let signedByte := fun (i : Nat) => if b i < 128 then (b i : Int) else b i - 256
    (∀ i, b i = (l.getD i 0).toNat ∧ w i = b i + 256 * b (i + 1) ∧ longAt l i = w i + 65536 * w (i + 2) ∧
      v i = if w i < 32768 then (w i : Int) else w i - 65536) ∧
    (∀ o, profileAt l o = {
      mode := match b o with
        | 0 => .cut
        | 1 => .gap
        | _ => .blend
      quantize := match b (o + 1) with
        | 0 => .none
        | 1 => .beat
        | _ => .bar
      f := w (o + 2), g := w (o + 4) }) ∧
    (∀ o,
      let n := w o / 2 ^ 12 % 8
      noticeAt l o = ⟨w o % 1024, n, (List.range n).map fun i => l.getD (o + 2 + i) 0⟩) ∧
    (∀ o,
      let x := b (o + 1)
      let trigger : Option Trigger := match b o with
        | 1 => some (.press x)
        | 2 => some (.release x)
        | 3 => some (.hold x)
        | 4 => some (.rept x)
        | 5 => some (.chord x (b (o + 2)))
        | 6 => some (.pedal x)
        | 7 => some (.link (w (o + 4)) (w (o + 6)) (if x % 2 = 1 then some (l.getD (o + 2) 0) else none))
        | _ => none
      let first := b (o + 8)
      let second := b (o + 9)
      let action : Action := match b (o + 3) % 16 with
        | 1 => .sceneGo first (if second = 1 then some (profileAt l (o + 10)) else none)
        | 2 => .setlistStep (signedByte (o + 8))
        | 3 => .setlistJump first
        | 4 => .stageToggle first second
        | 5 => .stageOn first second
        | 6 => .stageOff first second
        | 7 => .paramFromPedal first second (b (o + 10)) (v (o + 12)) (v (o + 14))
        | 8 => .tunerToggle
        | 9 => .muteToggle
        | 10 => .linkMuteOn
        | 11 => .linkMuteOff
        | 12 => .tap
        | 13 => .notice (noticeAt l (o + 8))
        | _ => .reportOnly
      entryAt l o = trigger.map fun t => ⟨t, action, b (o + 3) / 2 ^ 6 % 2 == 1, b (o + 3) / 2 ^ 7 % 2 == 1⟩) ∧
    (∀ o stages, laneHeaderAt l o stages = {
      enabled := b o == 1
      source := match b (o + 1) with
        | 0 => .inA
        | 1 => .inB
        | _ => .lane1
      level := if w (o + 2) = 0x8000 then none else some (v (o + 2))
      pan := v (o + 4)
      assign := match b (o + 6) with
        | 0 => .main
        | 1 => .aux
        | _ => .both
      stages := stages }) ∧
    (∀ e : Nat, lineConfigOf e = {
      mode := match e % 4 with
        | 0 => .off
        | 1 => .momentary
        | 2 => .latching
        | _ => .repeating
      activeHigh := e / 2 ^ 2 % 2 == 1, report := e / 2 ^ 3 % 2 == 1, debounce := e / 2 ^ 4 % 2 ^ 5
      repeatInterval := e / 2 ^ 9 % 2 ^ 10, holdTime := e / 2 ^ 19 % 2 ^ 12 }) ∧
    (∀ o, pedalConfigAt l o = {
      enable := w o % 2 == 1, internalRef := w o / 2 % 2 == 1, report := w o / 2 ^ 2 % 2 == 1
      deadband := w o / 2 ^ 8 % 2 ^ 6, heel := w (o + 2), toe := w (o + 4) }) ∧
    (linkConfigOf l = {
      filters := (List.range 8).map fun f => ⟨b (0x20 + f) % 2 == 1, word (w (4 * f)), word (w (4 * f + 2)),
        match b (0x20 + f) / 2 % 4 with
        | 0 => .report
        | 1 => .bind
        | _ => .both⟩
      rate := w 0x28, beatTopic := if w 0x2A = 0xFFFF then none else some (w 0x2A), address := b 0x2C
      autoRejoin := b 0x2D == 1, loopback := b 0x2E == 1 }) ∧
    (tunerSettingsOf l = {
      on := b 0 == 1, thru := b 1 == 1, sourceB := b 2 == 1, level := b 3, wide := b 4 == 1, n := b 5, reference := w 6
      window := b 8, autoOff := b 9 == 1 }) ∧
    (let level := fun (x : Nat) => if 0x8000 ≤ x then Level.off else .on (x % 2 ^ 11) (x / 2 ^ 11 % 2 == 1)
     ∀ k n : Nat,
      let o := 2 + 6 * k
      let a := b (o + 1)
      lampConfigAt l k n = {
        source := match b o with
          | 1 => .fixed
          | 2 => .stage (a / 2 ^ 4 % 4) (a % 16)
          | 3 => .sceneIs a
          | 4 => .setlistAt a
          | 5 => .tunerFlat
          | 6 => .tunerIn
          | 7 => .tunerSharp
          | 8 => .beat
          | 9 => .linkOk
          | 10 => .muted
          | _ => .off
        onLevel := level (w (o + 2)), offLevel := level (w (o + 4))
        blink := match w (o + 2) / 2 ^ 12 % 4 with
          | 0 => .none
          | 1 => .beat
          | _ => .fast
        complement := w (o + 2) / 2 ^ 14 % 2 == 1 && n % 2 == 0
        gap := if n % 2 = 0 then b (0x26 + k) else 0 }) ∧
    linkSendMessage l = ⟨w 0, b 2, (List.range (b 2)).map fun i => l.getD (4 + i) 0⟩

/-- A report's 16 words, the pages' places and a page's header word (R211). A report (R196): below 31 it is written whole
into cell[count] and the count rises by 1 with the header written; at 31 it is dropped and LOST is set, with the count of
dropped reports held at 255 (R206). TAKE (R197): the FILLING page is HELD with its count, the other is FILLING with count 0,
both headers are written, and REPORTS is clear; no cell changes and LOST stays as it stands. -/
def Obligations.ReportPagesFillAndExchange : Prop :=
  (∀ (a : Nat) (l : List Word), wordsAt a l = l.zipIdx.map fun x => (a + 2 * x.2, x.1)) ∧
  (∀ r : Report, r.words = [bytePair r.kind r.flags, word r.source, lowWord r.time, highWord r.time] ++
    (r.detail ++ List.replicate 12 0).take 12) ∧
  (pageBase false = 0x0A00 ∧ pageBase true = 0x0E00 ∧ ∀ p : Pages,
    p.fillingCount = (if p.fillingOne = true then p.count1 else p.count0) ∧
    p.bump = (if p.fillingOne = true then { p with count1 := p.count1 + 1 } else { p with count0 := p.count0 + 1 }) ∧
    ∀ one : Bool, p.header one =
      bytePair (if one = p.fillingOne then 0 else 1) (if one = true then p.count1 else p.count0)) ∧
  (∀ (r : Report) (s : State),
    let p := s.disp.pages
    let t := appendReport r s
    (p.fillingCount ≤ 30 →
      t.disp = { s.disp with pages := p.bump } ∧ p.bump.fillingCount = p.fillingCount + 1 ∧
      p.bump.fillingOne = p.fillingOne ∧
      t.writes = s.writes ++ wordsAt (pageBase p.fillingOne + 0x20 + 32 * p.fillingCount) r.words ++
        [(pageBase p.fillingOne, p.bump.header p.fillingOne)] ∧ r.words.length = 16) ∧
    (30 < p.fillingCount →
      t = { s with disp := { s.disp with attention := { s.disp.attention with lost := true },
                                         dropped := min 255 (s.disp.dropped + 1) } }) ∧
    t = { s with disp := t.disp, writes := t.writes }) ∧
  (∀ (s : State) (slot : BitVec 8), s.resetHeld = false →
    let p := s.disp.pages
    ∃ t, exec (.take slot) s = .next t ∧ t.disp.pages.fillingOne = !p.fillingOne ∧ t.disp.pages.fillingCount = 0 ∧
      (if p.fillingOne then t.disp.pages.count1 = p.count1 else t.disp.pages.count0 = p.count0) ∧
      t.attn.getLsbD 0 = false ∧
      (s.mem.wf = true → t.mem.readWord 0x0A00 = t.disp.pages.header false ∧ t.mem.readWord 0x0E00 = t.disp.pages.header true ∧
        (s.writes = [] → ∀ b, 0x0A20 ≤ b ∧ b < 0x0E00 ∨ 0x0E20 ≤ b → t.mem.read b = s.mem.read b)) ∧
      t = { s with mem := t.mem, writes := [],
                   disp := { s.disp with pages := t.disp.pages, port := s.disp.port.queueAsked } })


/-! ### Modes and muting (R25, R26, R28, R201-R203) -/

/-- A SETUP request in RUN with nothing pending (R202): SETUP joins the mute set and the ramp turns, the request is
pending, silence seen is whether the ramp is SILENT, and the link controller, told of it, answers at once when no hold
is SENDING. In every other state of R201 nothing happens. Both condition marks make the mode SETUP (R202):
acknowledged, nothing pending, attention MODE; every line that is not OFF in STANDBY with its timers stopped; the link
OFF_BUS, where the wait a QUIET node owes is dropped by the model's choice (log 63). Without both marks nothing happens. A RUN
request (R203): in SETUP the mode becomes RUN, SETUP leaves the mute set, the link awaits an idle run (or joins at once in
loopback), STANDBY lines settle for 20 ms, SETTLING and READY pedals settle; while a SETUP request is pending it is withdrawn
with no mode notice; in RUN with nothing pending nothing happens. -/
def Obligations.ModeRequestsActByMode : Prop :=
  (∀ m : MuteSet, m.isEmpty = true ↔ m = ⟨false, false, false, false, false⟩) ∧
  (∀ (r : MuteRamp) (before after : MuteSet), r.turn before after =
    if before.isEmpty = true ∧ after.isEmpty = false then .falling
    else if before.isEmpty = false ∧ after.isEmpty = true then .rising else r) ∧
  (∀ s : State, s.resetHeld = false →
    let set := { s.lane.mute with setup := true }
    let ramp := s.lane.ramp.turn s.lane.mute set
    (s.disp.mode = .run → s.disp.setupPending = false → exec .setupRequest s = .next (publish s (finish
      { s with disp := { s.disp with setupPending := true, silenceSeen := ramp == .silent,
                                     linkClear := s.sendingHold.isNone },
               lane := { s.lane with mute := set, ramp := ramp },
               link := { s.link with inhibit := true } }))) ∧
    (s.disp.mode = .setup ∨ s.disp.setupPending = true → exec .setupRequest s = .next (publish s s))) ∧
  (∀ s : State,
    (s.disp.setupPending = true → s.disp.silenceSeen = true → s.disp.linkClear = true → becomeSetup s =
      { s with disp := { s.disp with mode := .setup, setupPending := false, setupAck := true, silenceSeen := false,
                                     linkClear := false, attention := { s.disp.attention with mode := true } },
               scanner := { s.scanner with
                 lines := s.scanner.lines.map (fun x => if x.state = .off then x
                   else { x with state := .standby, settle := none, hold := none, rept := none }),
                 waiting := none, chord := none },
               link := { s.link with engagement := .offBus, receiving := false, inhibit := false, lineFree := false,
                                     justSent := false, errorMark := none } }) ∧
    (s.disp.setupPending = false ∨ s.disp.silenceSeen = false ∨ s.disp.linkClear = false → becomeSetup s = s)) ∧
  ∀ s : State, s.resetHeld = false →
    let set := { s.lane.mute with setup := false }
    let lane := { s.lane with mute := set, ramp := s.lane.ramp.turn s.lane.mute set }
    (s.disp.mode = .setup → exec .runRequest s = .next (publish s (finish
      { s with disp := { s.disp with mode := .run, setupAck := false, attention := { s.disp.attention with mode := true } },
               lane := lane,
               link := { s.link with engagement := if s.link.config.loopback then .onBus else .awaitingIdle,
                                     lineFree := false },
               scanner := { s.scanner with lines := s.scanner.lines.map fun x =>
                 if x.state = .standby then { x with state := .settling, settle := some 20 } else x },
               pedals := s.pedals.map fun x =>
                 if x.state = .settling ∨ x.state = .ready then { x with state := .settling, discard := 4 } else x }))) ∧
    (s.disp.mode = .run → s.disp.setupPending = true → exec .runRequest s = .next (publish s (finish
      { s with disp := { s.disp with setupPending := false, silenceSeen := false, linkClear := false },
               lane := lane, link := { s.link with inhibit := false } }))) ∧
    (s.disp.mode = .run → s.disp.setupPending = false → exec .runRequest s = .next (publish s s))

/-- The ends of the mute ramp (R26): FALLING at 0 becomes SILENT, which a pending SETUP request sees (R202); RISING at
192 becomes UNMUTED. Otherwise nothing happens (log 1). The mute ramp (R26) and the outputs (R28): the ramp turns to
FALLING when the set ceases to be empty and to RISING when it becomes empty, and not otherwise; a frame moves the
count by 48 toward its end; every output sample of a frame is zero while the ramp is SILENT at count 0, and when no
bank is LIVE. -/
def Obligations.MuteRampTurnsAndEnds : Prop :=
  (∀ s : State, s.resetHeld = false →
    (s.lane.ramp = .falling → s.lane.rampCount = 0 → exec .muteRampSilent s = .next (publish s (finish
      { s with lane := { s.lane with ramp := .silent },
               disp := { s.disp with silenceSeen := s.disp.silenceSeen || s.disp.setupPending } }))) ∧
    (s.lane.ramp ≠ .falling ∨ s.lane.rampCount ≠ 0 → exec .muteRampSilent s = .next (publish s s)) ∧
    (s.lane.ramp = .rising → s.lane.rampCount = 192 → exec .muteRampUnmuted s = .next (publish s
      { s with lane := { s.lane with ramp := .unmuted } })) ∧
    (s.lane.ramp ≠ .rising ∨ s.lane.rampCount ≠ 192 → exec .muteRampUnmuted s = .next (publish s s))) ∧
  ((∀ (f : MuteSet → MuteSet) (s : State), changeMute f s = { s with lane := { s.lane with
      mute := f s.lane.mute
      ramp := if s.lane.mute.isEmpty = true ∧ (f s.lane.mute).isEmpty = false then .falling
        else if s.lane.mute.isEmpty = false ∧ (f s.lane.mute).isEmpty = true then .rising else s.lane.ramp } }) ∧
    ∀ (input : List (Sample × Sample)) (pa pb : BankPlay) (s : State),
      let t := playFrame input pa pb s
      t.lane.rampCount = (match s.lane.ramp with
        | .falling => s.lane.rampCount - 48
        | .rising => min 192 (s.lane.rampCount + 48)
        | _ => s.lane.rampCount) ∧
      (s.liveBank = none ∨ (s.lane.ramp = .silent ∧ s.lane.rampCount = 0) →
        ∀ y ∈ t.lane.output, y = ⟨0, 0, 0, 0⟩))

/-! ### Frame boundaries and stages (R1, R2, R12, R16, R21-R23) -/

/-- FRAME_BOUNDARY (R1, R2; log 2): the boundary arrives unless an event of its own has brought it, the scene unit's events
that are due are taken, and the frame's work ends its standing: the frame counter counts each boundary once, and no byte
of memory changes but by the end of the event. What an arriving boundary does: it settles what the boundary before made due
and no command took, each command with its own effect in a fixed order, the ends of the tap crossfades among them (log 2);
the counter rises, the accumulator's addition is due, the requests that stand in the list are the ones it will take (log 39),
and the chunk of the LOADING impulse set, of which there is one at a time, is asked for (R42). The scene unit's events at
it, each with its own effect in a fixed order (log 2). The frame's work in the order the model gives it (logs 2, 47, 55):
line memory zeroes four blocks; the lane engine reads what the scene unit sets, takes its bank requests, tempo and beats, the
request list, and plays; the tuner, the scanner, a pedal and the choices they open; the lamps; the addition.
CONVERTER_SAMPLES_STOP only marks that no samples come, and a boundary with none processes 48 zeros (log 11). -/
def Obligations.FrameBoundaryCountsOnce : Prop :=
  (∀ (s : State) (i : BoundaryInput), s.resetHeld = false →
    (∃ u, exec (.frameBoundary i) s = .next (publish s (finish u)) ∧ u = frameWork i (sceneWork (openBoundary s)) ∧
      u.frames = (if s.opened then s.frames else s.frames + 1) ∧ u.opened = false ∧ u.mem = s.mem ∧
      u.pending = s.pending) ∧
    (s.opened = true → openBoundary s = s) ∧
    exec .converterSamplesStop s = .next (publish s { s with delivering := false }) ∧
    (i.samples = none → inputFrame i = List.replicate 48 (0, 0))) ∧
  (∀ (i : BoundaryInput) (s : State),
    let u := { s with tempo := { s.tempo with watch := s.tempo.watch.map (· - 1) }, lines := s.lines.zeroFour }
    let v := laneFrame chooseLane (inputFrame i) (u.bankPlay .a) (u.bankPlay .b) u
    let w := scannerFrame i.pins
      (tunerFrame (inputFrame i) { v with opened := false, delivering := i.samples.isSome })
    frameWork i s = takeAddition (lampFrame (finish (pedalFrame i.pedal w)))) ∧
  (∀ (choose : State → State) (input : List (Sample × Sample)) (pa pb : BankPlay) (s : State),
    let read := { s with lane := { s.lane with banks :=
      ⟨{ s.lane.banks.a with runMode := pa.mode, fadePoint := pa.fadePoint },
        { s.lane.banks.b with runMode := pb.mode, fadePoint := pb.fadePoint }⟩ } }
    laneFrame choose input pa pb s =
      playFrame input pa pb (takeRequests choose (applyTempoAndBeats (takeBankRequests read)))) ∧
  (∀ s : State, s.opened = false →
    let p := settlePost s
    let u := { p with
      frames := p.frames + 1, opened := true, lane := { p.lane with arrived := p.lane.requests.length },
      tempo := { p.tempo with addDue := true }, disp := { p.disp with port := p.disp.port.queueAsked } }
    ((∀ id < 16, (p.lines.impulse id).state ≠ .loading) → openBoundary s = u) ∧
    ∀ id < 16, (p.lines.impulse id).state = .loading → (∀ j < id, (p.lines.impulse j).state ≠ .loading) →
      openBoundary s = askBurst (.impulseChunk id) u) ∧
  (∃ (own : Instr → State → State) (taps : State → State),
    let at' := fun (l : List Instr) (s : State) => l.foldl (fun u c => own c u) s
    let lines := fun (c : Fin 8 → Instr) => (List.finRange 8).map c
    let before : List Instr := [.muteRampSilent, .muteRampUnmuted]
    let after : List Instr := [.zeroedAnswer, .zeroedAnswer] ++ List.replicate 12 .groupComplete ++
      [.silenceTimerExpiry, .linkWatchExpiry] ++ lines .debouncedChange ++ lines .switchSettleEnd ++ lines .holdTimerExpiry ++
      lines .repeatTimerExpiry ++ [.chordWindowExpiry, .pedalDisconnect 0, .pedalSettleEnd 0, .pedalReconnect 0,
        .pedalDisconnect 1, .pedalSettleEnd 1, .pedalReconnect 1, .beatWindowClose]
    let scene : List Instr := [.trailTimerExpiry .a, .trailTimerExpiry .b, .cutEnd .a, .cutEnd .b, .fadeOutEnd,
      .gapFadeInStart, .leanSilence, .prepareDone, .fadeEnd, .swap]
    (∀ s, settlePost s = at' after (taps (at' before s)) ∧ sceneWork s = at' scene s) ∧
    (∀ c ∈ before ++ after, ∀ u, u.resetHeld = false →
      exec c u = .next (publish u (own c u)) ∧ (own c u).mem = u.mem ∧ (own c u).resetHeld = false) ∧
    (∀ c ∈ scene, ∀ u, u.resetHeld = false → u.opened = true →
      exec c u = .next (publish u (own c u)) ∧ (own c u).mem = u.mem ∧ (own c u).resetHeld = false ∧ (own c u).opened = true) ∧
    ∀ u (k : BankId) (ln : LaneId),
      let bank := u.lane.banks.get k
      let bank' := (taps u).lane.banks.get k
      taps u = { u with lane := { u.lane with banks := (taps u).lane.banks } } ∧ bank' = { bank with lanes := bank'.lanes } ∧
      bank'.lanes.get ln = { bank.lanes.get ln with stages := (bank.lanes.get ln).stages.map fun y => y.map fun x =>
        match x.tap.fade with
        | some (n, 20) => { x with tap := { x.tap with time := n, pending := none, fade := match x.tap.pending with
            | none => none
            | some q => if q = n then none else some (q, 0) } }
        | _ => x })

/-- GATE_HOLD_EXPIRY (R12): at the boundary that arrives with it or stands, the hold timer of a gate that runs and whose
peak stays below its threshold reaches 0, and its gain starts to fall; when it is not due nothing happens (log 1).
TAP_CROSSFADE_END (R16, R18): after 20 frames the old tap is dropped; a pending time that differs from the tap now in use
starts a new crossfade, one that equals it is cleared. What an arriving boundary does first is FrameBoundaryCountsOnce's
(log 2). -/
def Obligations.GateHoldAndTapFadeEnd : Prop :=
  (∀ (s : State) (bank : BankId) (lane : LaneId) (p : Fin 12), s.resetHeld = false →
    let b := openBoundary s
    (∀ x, (b.bankPlay bank).mode = .full → ((b.lane.banks.get bank).lanes.get lane).enabled = true →
      b.stageAt bank lane p = some x → x.kind = .gate → x.gate = .holding → x.gateHold ≤ 1 →
      peakReaches x.peak (x.target 0) = false →
      exec (.gateHoldExpiry bank lane p) s = .next (publish s
        (putStage bank lane p { x with gate := .releasing, gateHold := 0, gateGain := 0 } b))) ∧
    (b.gateHoldDue bank lane p = true ↔ (b.bankPlay bank).mode = .full ∧
      ((b.lane.banks.get bank).lanes.get lane).enabled = true ∧ ∃ x, b.stageAt bank lane p = some x ∧ x.kind = .gate ∧
      x.gate = .holding ∧ x.gateHold ≤ 1 ∧ peakReaches x.peak (x.target 0) = false) ∧
    (b.gateHoldDue bank lane p = false → exec (.gateHoldExpiry bank lane p) s = .next (publish s s))) ∧
  (∀ (s : State) (bank : BankId) (lane : LaneId) (p : Fin 12) (x : Stage) (n : Nat), s.resetHeld = false →
    s.stageAt bank lane p = some x → x.tap.fade = some (n, 20) →
    let fade := match x.tap.pending with
      | none => none
      | some q => if q = n then none else some (q, 0)
    exec (.tapCrossfadeEnd bank lane p) s = .next (publish s
      (putStage bank lane p { x with tap := { x.tap with time := n, pending := none, fade := fade } } s)))

/-- What a frame moves. A parameter (R9): a new target glides over 10 ms, a switched one crossfades over 5 ms, each from
what is then current, any other acts at once; it stands on the straight line at every sample, and the two settings of a
crossfade run side by side with shares that add to 1. The bypass ramp (R19) moves one step of 240 a sample, and a bypassed
stage at its end passes its input on. A tap crossfade moves by 20 frames (R16), in a straight line (log 60). A lane's
contribution (R4, R7): level and pan, to MAIN, AUX or both, times the crossfade gain where the fade point is LANE_OUT or the
lane has no trail stage. Every gain in tenths of a dB is 10 to the power q / 200, and the two gains of every pan are the
cosine and the sine of an angle that runs from 0 to 90 degrees, all to 10 ^ -20 (log 15). The gain runs in a straight line
from the last target to the new one (R70, R73, R74): by the bank's state full, or a step of the fade, of the lean fade-out
or of the cut. A frame's playing (R4, R26, R28): first each running stage's tap follows its pending time, then bank A runs
and bank B after it; with a bank LIVE output sample i is the sum of the two banks' contributions by the mute ramp's count at
that sample, held to full scale and brought to a whole sample (logs 13, 17), and with none it is 0; beside the outputs only
both banks, the ramp's count, the samples of line memory and the free-value counter (log 36) move. What a bank's run is,
LanesRunTheirStages states. -/
def Obligations.FrameMovesValuesAndGains : Prop :=
  (∀ (p : Param) (v : Int),
    let now : ℚ := if p.left = 0 then p.target else p.start
    p.retarget .glided v = ⟨now, v, 10, []⟩ ∧
    p.retarget .switched v = ⟨now, v, 5, if p.left = 0 then [(p.target, 1)] else p.mix⟩ ∧
    p.retarget .stepped v = ⟨v, v, 0, []⟩ ∧ p.retarget .tap v = ⟨v, v, 0, []⟩ ∧ p.retarget .loadTime v = ⟨v, v, 0, []⟩ ∧
    (p.left = 0 → ∀ i : Nat, p.at i = p.target ∧ p.mixAt i = [(p.target, 1)]) ∧
    (p.left ≤ 1 → p.advance = ⟨p.target, p.target, 0, []⟩) ∧
    (0 < p.left → ∀ i : Nat, p.at i = p.start + (p.target - p.start) * (((i : ℚ) + 1) / (48 * p.left))) ∧
    (1 < p.left → p.advance = ⟨p.at 47, p.target, p.left - 1, if p.mix = [] then [] else p.mixAt 47⟩) ∧
    (0 < p.left → (p.mix.map Prod.snd).sum = 1 → ∀ i : Nat, ((p.mixAt i).map Prod.snd).sum = 1) ∧
    ∀ old, 0 < p.left → p.mix = [(old, 1)] → old ≠ p.target → ∀ i : Nat,
      let a : ℚ := ((i : ℚ) + 1) / (48 * p.left)
      p.mixAt i = [(old, 1 - a), (p.target, a)]) ∧
  (∀ (l : LineMemory) (blocks : List Nat) (x : Stage) (input : List Int) (c : AudioCtx),
    let r := x.run l blocks input c
    (∀ i, x.rampAt i = if x.bypass then min 240 (x.ramp + (i + 1)) else x.ramp - (i + 1)) ∧
    r.1.ramp = x.rampAt 47 ∧ r.1.params = x.params.map Param.advance ∧
    (x.bypass = true → x.ramp = 240 → x.trail = false → r.2.1 = input) ∧
    (x.kind = .trim → x.bypass = false → x.ramp = 0 → x.trail = false → r.2.1 =
      input.zipIdx.map fun y => rnd (y.1 * gainOf (x.value 0 y.2) * (1 - 2 * x.value 1 y.2)))) ∧
  (∀ (read : Nat → Int) (t : Tap) (i : Nat),
    t.advance = { t with fade := t.fade.map fun f => (f.1, min 20 (f.2 + 1)) } ∧
    (t.fade = none → tapRead read t i = read (48 * t.time)) ∧
    ∀ f, t.fade = some f →
      let m : ℚ := (48 * f.2 + i + 1) / 960
      tapRead read t i = read (48 * t.time) * (1 - m) + read (48 * f.1) * m) ∧
  (∀ q : ℚ, |(gainOf q : ℝ) - (10 : ℝ) ^ ((q : ℝ) / 200)| ≤ (10 : ℝ) ^ ((q : ℝ) / 200) / 10 ^ 20) ∧
  (∀ n : ℤ, gainOf (200 * n) = 10 ^ n) ∧
  (∀ p : ℤ, -100 ≤ p → p ≤ 100 →
    |(panLeftOf p : ℝ) - Real.cos (Real.pi * (p + 100) / 400)| ≤ 1 / 10 ^ 20 ∧
    |(panRightOf p : ℝ) - Real.sin (Real.pi * (p + 100) / 400)| ≤ 1 / 10 ^ 20) ∧
  (panLeftOf (-100) = 1 ∧ panLeftOf 100 = 0 ∧ ∀ p, panRightOf p = panLeftOf (-p)) ∧
  (∀ x : Stage, x.followTap = { x with tap := x.tap.follow }) ∧
  (∀ (k : Lane) (f : FrameInput) (sig : List Int) (s : Int),
    let x : ℚ := s * k.level.elim 0 fun v => gainOf v
    let a := x * panLeftOf k.pan
    let b := x * panRightOf k.pan
    k.place s = (match k.assign with
      | .main => (a, b, 0, 0)
      | .aux => (0, 0, a, b)
      | .both => (a, b, a, b)) ∧
    (f.fadePoint = .laneOut ∨ k.hasTrail = false → k.contribution f sig =
      sig.zipIdx.map fun y => Four.scale (f.gainAt y.2) (k.place y.1)) ∧
    (f.fadePoint = .trailInput → k.hasTrail = true → k.contribution f sig = sig.map k.place) ∧
    ∀ i, f.gainAt i = (f.gain0 + (f.gain1 - f.gain0) * (i + 1) / 48) / 1000) ∧
  (∀ (s : State) (k : BankId),
    let c := s.bankCtl k
    let n := s.frames
    (c.state = .empty ∨ c.state = .loading ∨ c.state = .ready → s.bankPlay k = ⟨.held, .laneOut, 0⟩) ∧
    (c.state = .trailing → s.bankPlay k = ⟨.trails, .laneOut, 1000⟩) ∧
    (c.state = .cutting → s.bankPlay k = ⟨.trails, .laneOut, 1000 - 1000 * (n + 1 - c.cutFrom) / 16⟩) ∧
    (∀ f, c.state = .outgoing → s.scene.fade = some f → s.bankPlay k =
      ⟨.full, if f.trailsKept then .trailInput else .laneOut, 1000 - 1000 * (n - f.swapAt + 1) / f.f⟩) ∧
    (c.state = .live → s.scene.fade = none →
      (s.scene.state ≠ .leanEmptying → s.bankPlay k = ⟨.full, .laneOut, 1000⟩) ∧
      ∀ l, s.scene.state = .leanEmptying → s.scene.lean = some l →
        s.bankPlay k = ⟨.full, .laneOut, if n < l.first then 1000 else 1000 - 1000 * (n - l.first + 1) / l.f⟩) ∧
    ∀ f, c.state = .live → s.scene.state = .fading → s.scene.fade = some f →
      (f.heldBack = true → s.bankPlay k = ⟨.held, .laneOut, 0⟩) ∧
      (f.heldBack = false →
        let from' := if f.oldBank = none ∨ f.mode = .blend then f.swapAt else f.swapAt + f.f + f.g
        s.bankPlay k = ⟨.full, .laneOut, min 1000 (1000 * (n - from' + 1) / f.f)⟩)) ∧
  (∀ (input : List (Sample × Sample)) (pa pb : BankPlay) (s : State),
    let t := playFrame input pa pb s
    let e := s.lane
    let a := e.banks.a.mapRunning Stage.followTap
    let b := e.banks.b.mapRunning Stage.followTap
    let ra := a.run s.lines .a (frameInput input a pa) ⟨s.lines.samples, e.freeCount⟩
    let rb := b.run { s.lines with samples := ra.2.2.samples } .b (frameInput input b pb) ra.2.2
    t = { s with
      lines := { s.lines with samples := rb.2.2.samples },
      lane := { e with banks := ⟨{ ra.1 with gain := pa.gain }, { rb.1 with gain := pb.gain }⟩, freeCount := rb.2.2.fresh,
                       output := t.lane.output, rampCount := t.lane.rampCount } } ∧
    (s.liveBank = none → t.lane.output = List.replicate 48 ⟨0, 0, 0, 0⟩) ∧
    (s.liveBank ≠ none → input.length = 48 → t.lane.output.length = 48) ∧
    (∀ i x y, s.liveBank ≠ none → ra.2.1[i]? = some x → rb.2.1[i]? = some y →
      let count := match e.ramp with
        | .falling => e.rampCount - (i + 1)
        | .rising => min 192 (e.rampCount + (i + 1))
        | _ => e.rampCount
      t.lane.output[i]? = some (outSample count (x.1 + y.1, x.2.1 + y.2.1, x.2.2.1 + y.2.2.1, x.2.2.2 + y.2.2.2))) ∧
    (∀ (k : Bank) (p : BankPlay), frameInput input k p =
      ⟨input.map fun x => x.1.toInt, input.map fun x => x.2.toInt, k.runMode, k.fadePoint, k.gain, p.gain⟩)) ∧
  ∀ (count : Nat) (x : Four),
    let out := fun (q : ℚ) => max (-8388608) (min 8388607 (rnd (count / 192 * q)))
    outSample count x = ⟨out x.1, out x.2.1, out x.2.2.1, out x.2.2.2⟩

/-- What runs in a lane and in a bank over a frame (R2, R4, R6, R7). A lane's input: in FULL its source's samples, in TRAILS
silence, and for a LANE1 source lane 1's last running stage, or lane 1's own input when none runs (that a LANE1 source keeps
lane 1's output in TRAILS is the model's choice, log 41). The stages that run, all in FULL and those with the trail flag in
TRAILS, run in position order, each on the output of the one before; every other stage stays as it is and passes the signal
by. With fade point TRAIL_INPUT the crossfade gain, brought to whole sample units (log 13), is applied at the input of the
first trail stage that runs. A disabled lane gives nothing and passes its input by. A bank gives the sum of its lanes'
contributions, and HELD nothing, with its run state as it is. What a running stage does is StageKindsRunAFrame's, what a
lane's signal contributes FrameMovesValuesAndGains'. -/
def Obligations.LanesRunTheirStages : Prop :=
  (∀ (f : FrameInput) (source : LaneSource) (lane1 : List Int),
    (f.mode = .full → laneInput f source lane1 = match source with
      | .inA => f.inA
      | .inB => f.inB
      | .lane1 => lane1) ∧
    (f.mode = .trails → laneInput f source lane1 = if source = .lane1 then lane1 else List.replicate 48 0)) ∧
  (∀ (x : Stage) (m : RunMode), x.runsIn m = true ↔ m = .full ∨ (m = .trails ∧ x.trail = true)) ∧
  (∀ (l : LineMemory) (bank : BankId) (ln : LaneId) (f : FrameInput) (x : Stage) (rest : List (Option Stage)) (p : Nat)
      (cut : Bool) (signal : List Int) (c : AudioCtx),
    let run := runStages l bank ln f
    let passed := run rest (p + 1) cut signal c
    run [] p cut signal c = ([], signal, c) ∧ run (none :: rest) p cut signal c = (none :: passed.1, passed.2) ∧
    (x.runsIn f.mode = false → run (some x :: rest) p cut signal c = (some x :: passed.1, passed.2)) ∧
    (x.runsIn f.mode = true →
      let input := if cut = true ∧ x.trail = true then signal.zipIdx.map fun y => rnd (y.1 * f.gainAt y.2) else signal
      let y := x.run l (l.blockList (.stage bank ln p)) input c
      let r := run rest (p + 1) (cut && !x.trail) y.2.1 y.2.2
      run (some x :: rest) p cut signal c = (some y.1 :: r.1, r.2))) ∧
  (∀ (l : LineMemory) (bank : BankId) (ln : LaneId) (f : FrameInput) (k : Lane) (input : List Int) (c : AudioCtx),
    let r := runStages l bank ln f k.stages 0 (decide (f.fadePoint = .trailInput)) input c
    (k.enabled = true → k.run l bank ln f input c = ({ k with stages := r.1 }, r.2.1, k.contribution f r.2.1, r.2.2)) ∧
    (k.enabled = false → k.run l bank ln f input c = (k, input, List.replicate 48 (0, 0, 0, 0), c))) ∧
  (∀ (l : LineMemory) (bank : BankId) (f : FrameInput) (k : Bank) (c : AudioCtx),
    let first := laneInput f .inA []
    let one := k.lanes.one.run l bank .one f first c
    let runs := k.lanes.one.enabled = true ∧ ∃ x, some x ∈ k.lanes.one.stages ∧ x.runsIn f.mode = true
    (f.mode = .held → k.run l bank f c = (k, List.replicate 48 (0, 0, 0, 0), c)) ∧
    ∀ out, f.mode ≠ .held → (runs → out = one.2.1) → (¬ runs → out = first) →
      let two := k.lanes.two.run l bank .two f (laneInput f k.lanes.two.source out) one.2.2.2
      k.run l bank f c = ({ k with lanes := ⟨one.1, two.1⟩ },
        List.zipWith (fun x y => (x.1 + y.1, x.2.1 + y.2.1, x.2.2.1 + y.2.2.1, x.2.2.2 + y.2.2.2)) one.2.2.1 two.2.2.1,
        two.2.2.2)) ∧
  (∀ (g : Stage → Stage) (k : Bank) (ln : LaneId),
    let x := k.lanes.get ln
    let y := (k.mapRunning g).lanes.get ln
    k.mapRunning g = { k with lanes := (k.mapRunning g).lanes } ∧ (x.enabled = false → y = x) ∧
    (x.enabled = true → y = { x with
      stages := x.stages.map fun z => z.map fun w => if w.runsIn k.runMode = true then g w else w })) ∧
  ∀ (g : ℚ) (x : Four), Four.scale g x = (g * x.1, g * x.2.1, g * x.2.2.1, g * x.2.2.2)

/-- What the scene unit asks of the lane engine (R2, R3, R5, R20): the requests are taken in the order sent. A fill makes
the bank's lanes, bindings and notices the record's, each stage at its position with the taps of the allocation's answer,
and works out the cost, for each enabled lane 20 and its stages' costs, and the trail cost. A prepare puts every stage at
its starting point (log 75 for a frame peak of 0), the crossfade gain at 0, and works out rates and times from the noted
tempo. A release clears the bank, and its lanes are disabled with no stages (log 59 for their other fields). The stage
costs, parameter ranges and classes are those of R10 (R9): a DELAY's time runs to its own max length, and an index beyond
the last has no parameter. -/
def Obligations.BankRequestsFillPrepareRelease : Prop :=
  (∀ s : State, takeBankRequests s = { s with lane := { s.lane with
    banks := s.lane.bankRequests.foldl (BankRequest.apply s.lane.notedTempo) s.lane.banks, bankRequests := [] } }) ∧
  (∀ (tempo : Nat) (banks : PerBank Bank) (k : BankId) (q : BankRequest),
    let b := banks.get k
    let t := BankRequest.apply tempo banks q
    (q = .release k → t = banks.set k { b with
      lanes := ⟨Lane.cleared, Lane.cleared⟩, bindings := [], notices := [], cost := 0, trailCost := 0 }) ∧
    (q = .prepare k → ∃ lanes, t = banks.set k { b with lanes := lanes, gain := 0 } ∧ ∀ ln,
      lanes.get ln = { b.lanes.get ln with stages := (b.lanes.get ln).stages.map fun x => x.map (Stage.prepare tempo) }) ∧
    ∀ r cabs, q = .fill k r cabs → ∃ lanes,
      let cost := fun (ln : LaneId) => if (lanes.get ln).enabled = true then
        20 + ((lanes.get ln).stages.map fun y => y.elim 0 fun y => y.kind.cost y.tapsInUse).sum else 0
      let trail := fun (ln : LaneId) =>
        ((lanes.get ln).stages.map fun y => y.elim 0 fun y => if y.trail = true then y.kind.cost y.tapsInUse else 0).sum
      t = banks.set k { b with
        lanes := lanes, bindings := r.bindings, notices := r.notices, cost := cost .one + cost .two,
        trailCost := trail .one + trail .two } ∧
      ∀ ln,
        let x := r.lanes.get ln
        let y := lanes.get ln
        y = ⟨x.enabled, x.source, x.level, x.pan, x.assign, y.stages⟩ ∧ y.stages.length = 12 ∧
        (x.enabled = false → ∀ p, y.stageAt p = none) ∧
        (x.enabled = true → ∀ p < 12, y.stageAt p = (x.stages.find? fun z => z.position == p).map fun z =>
          z.fill (cabs.find? fun c => c.lane == ln && c.position == p))) ∧
  (Lane.cleared.enabled = false ∧ ∀ p, Lane.cleared.stageAt p = none) ∧
  (∀ (z : StageRecord) (cab : Option CabAnswer),
    let x := z.fill cab
    x.kind = z.kind ∧ x.bypass = z.bypass ∧ x.trail = z.trail ∧ x.params = z.params.map (fun v => ⟨v, v, 0, []⟩) ∧
    ∀ c, cab = some c → x.tapsInUse = c.taps ∧ x.tapsClamped = c.clamped) ∧
  (∀ (x : Stage) (tempo : Nat),
    let y := x.prepare tempo
    let z := x.rework tempo
    y = { x with
      params := x.params.map fun p => ⟨p.target, p.target, 0, []⟩, ramp := if x.bypass = true then 240 else 0,
      gate := .closed, gateHold := 0, gateGain := x.target 3, reduction := 0, compGain := x.target 4, peak := 0, phase := 0,
      beatCount := 0, writePos := 0, history := [], tap := ⟨z.tap.inUse, none, none, z.tap.inUse⟩, rate := z.rate,
      tempoClamped := z.tempoClamped }) ∧
  (∀ (k : StageKind) (taps : Nat), k.cost taps = match k with
    | .trim => 5 | .gate => 15 | .comp => 40 | .drive => 90 | .amp => 320 | .cab => if taps ≤ 960 then 160 else 300
    | .eq => 60 | .mod => 70 | .delay => 60 | .verb => 240) ∧
  (∀ k : StageKind, k.params.map (fun p => (p.min, p.max)) = match k with
    | .trim => [(-240, 240), (0, 1)]
    | .gate => [(-960, 0), (1, 500), (5, 2000), (-960, 0)]
    | .comp => [(-600, 0), (10, 200), (1, 100), (10, 2000), (0, 240)]
    | .drive => [(0, 1000), (0, 7), (0, 1000), (-600, 120)]
    | .amp => (0, 15) :: List.replicate 7 (0, 1000)
    | .cab => [(0, 15), (64, 1920), (-600, 120), (0, 1000)]
    | .eq => List.replicate 5 (-150, 150) ++ [(-600, 120)]
    | .mod => [(0, 4), (5, 2000), (0, 8), (0, 1000), (0, 1000)]
    | .delay => [(20, 2500), (1, 2500), (0, 8), (0, 950), (0, 1000)]
    | .verb => [(100, 10000), (0, 200), (0, 1000), (0, 1000)]) ∧
  (∀ k : StageKind, k.params.map ParamSpec.cls = match k with
    | .trim => [.glided, .switched]
    | .gate => List.replicate 4 .stepped
    | .comp => List.replicate 4 .stepped ++ [.glided]
    | .drive => [.glided, .switched, .glided, .glided]
    | .amp => .loadTime :: List.replicate 6 .glided ++ [.stepped]
    | .cab => [.loadTime, .loadTime, .glided, .glided]
    | .eq => List.replicate 6 .glided
    | .mod => [.loadTime, .stepped, .stepped, .glided, .glided]
    | .delay => [.loadTime, .tap, .stepped, .glided, .glided]
    | .verb => [.stepped, .tap, .glided, .glided]) ∧
  ∀ (k : StageKind) (longest : Int) (i : Nat),
    (k = .delay → i = 1 → k.param longest i = some ⟨.tap, 1, longest⟩) ∧
    (k ≠ .delay ∨ i ≠ 1 → k.param longest i = k.params[i]?)

/-- The noted tempo and the counted beats at a boundary (R21, R85): each stage of both banks is worked out anew when a tempo
was noted, the tap of one that runs following at once; then each counted beat reaches a stage that runs (frozen stages keep
their count: log 40; the tempo before the beats: log 47). What follows from the targets: a MOD's rate, its own with sync 0 and
otherwise tempo / 6d hundredths of a Hz rounded half up (R15); a DELAY's time in use, its own with sync 0 and otherwise
600000 d / tempo ms rounded half up, held to its max length with TEMPO_CLAMPED where that cuts it (R16, R17); a VERB's
predelay (R18). A beat: a MOD counts from 0 to 11, and when synced takes the fraction of count / d for its phase (R15). -/
def Obligations.TempoAndBeatsReachStages : Prop :=
  let d : Nat → ℚ := fun n => [4, 2, 3 / 2, 1, 3 / 4, 1 / 2, 1 / 3, 1 / 4].getD (n - 1) 0
  let nearest := fun (q : ℚ) => (q + 1 / 2).floor.toNat
  (∀ s : State,
    let e := s.lane
    let t := applyTempoAndBeats s
    t = { s with lane := { e with banks := t.lane.banks, tempoNoted := false, beats := 0 } } ∧
    ∀ (k : BankId) (ln : LaneId),
      let bank := e.banks.get k
      let lane := bank.lanes.get ln
      let lane' := (t.lane.banks.get k).lanes.get ln
      t.lane.banks.get k = { bank with lanes := (t.lane.banks.get k).lanes } ∧
      lane' = { lane with stages := lane'.stages } ∧
      ∀ p : Nat, (lane.stageAt p = none → lane'.stageAt p = none) ∧ ∀ x, lane.stageAt p = some x →
        let runs := lane.enabled = true ∧ (bank.runMode = .full ∨ (bank.runMode = .trails ∧ x.trail = true))
        let y := if e.tempoNoted = true then x.rework e.notedTempo else x
        let z := if e.tempoNoted = true ∧ runs then { y with tap := y.tap.follow } else y
        lane'.stageAt p = some (if runs then Stage.beat^[e.beats] z else z)) ∧
  (∀ (x : Stage) (tempo : Nat), 0 < tempo →
    let sync := (x.target 2).toNat
    let time := nearest (600000 * d sync / tempo)
    let longest := (x.target 0).toNat
    (x.kind = .mod →
      (sync = 0 → x.rework tempo = { x with rate := (x.target 1).toNat }) ∧
      (1 ≤ sync → sync ≤ 8 → x.rework tempo = { x with rate := nearest (tempo / (6 * d sync)) })) ∧
    (x.kind = .delay →
      (sync = 0 → x.rework tempo = { x with tap := { x.tap with inUse := (x.target 1).toNat }, tempoClamped := false }) ∧
      (1 ≤ sync → sync ≤ 8 → x.rework tempo = { x with
        tap := { x.tap with inUse := min time longest }, tempoClamped := decide (longest < time) })) ∧
    (x.kind = .verb → x.rework tempo = { x with tap := { x.tap with inUse := (x.target 1).toNat } }) ∧
    (x.kind ≠ .mod → x.kind ≠ .delay → x.kind ≠ .verb → x.rework tempo = x)) ∧
  ∀ x : Stage,
    let n := (x.beatCount + 1) % 12
    let sync := (x.target 2).toNat
    let q : ℚ := n / d sync
    (x.kind ≠ .mod → x.beat = x) ∧ (x.kind = .mod → sync = 0 → x.beat = { x with beatCount := n }) ∧
    (x.kind = .mod → 1 ≤ sync → sync ≤ 8 → x.beat = { x with beatCount := n, phase := q - q.floor })

/-- What each kind of stage does in a frame (R11-R19), over a value's straight line (`Stage.value`, R9): its target, or
where its change has brought it. GATE: its state and gain by the four rows of R12, where a RELEASING gate below a raised
floor is CLOSED and comes up to it across the frame (log 78, the model's choice, which also has a floor that becomes 0
reached across the frame); COMP by R13; CAB: the convolution newest sample first, level and mix (R14). DRIVE: a pre-gain of
0.06 dB for each unit of drive, the curve in use or two of them by shares, the tilt of tone, the level; a tone at rest on
500 tilts nothing (R11). AMP: its eight settings; EQ: five bands one after another at their five frequencies, a band at rest
on 0 passing its input on, then the level. MOD: the mix of R15, its phase moving rate / 100 cycles a second. DELAY: the line
read a tap's time behind the write point and written after the read (log 16), the output and the bypass that cuts its input
(R16, R19). VERB: the predelay line of ten blocks read like DELAY's, what it reads feeding the tail, whose network's oldest
sample comes back at decay (R18), cut likewise. The output of a stage without the trail flag blends to its input by the
bypass ramp (R19). What the spec leaves open is a function of Config that nothing in Lean evaluates, and may rest on a free
sample: the bringing of a value to a whole sample (log 13), a level, and the shape of a gate's rise or move to a new floor
(log 15), the curves, tilt, amplifier, bands and modulation (logs 14, 36), the tail and the network (log 70); crossfades are
straight lines (log 60). -/
def Obligations.StageKindsRunAFrame : Prop :=
  (∀ (x : Stage) (i j : Nat), x.param i = x.params.getD i ⟨0, 0, 0, []⟩ ∧ x.target i = (x.param i).target ∧
    x.value i j = (x.param i).at j ∧
    (x.param i).now = if (x.param i).left = 0 then ((x.param i).target : ℚ) else (x.param i).start) ∧
  (∀ (peak : Nat) (v : Int), peakReaches peak v = true ↔ 0 < peak ∧ (v : ℚ) ≤ Config.levelOf peak) ∧
  (∀ xs : List Int, (∀ x ∈ xs, x.natAbs ≤ peakOf xs) ∧ (xs ≠ [] → ∃ x ∈ xs, peakOf xs = x.natAbs)) ∧
  (∀ x : Stage,
    let reached := peakReaches x.peak (x.target 0) = true
    let floor : ℚ := x.target 3
    let fallen := max floor (x.gateGain - (0 - floor) / x.target 2)
    let falling := { x with gate := if fallen = floor then .closed else .releasing, gateGain := fallen }
    (reached → x.gateStep = { x with gate := .opened, gateGain := 0 }) ∧
    (¬ reached →
      (x.gate = .closed → x.gateStep = { x with gateGain := floor }) ∧
      (x.gate = .opened → x.gateStep = { x with gate := .holding, gateHold := (x.target 1).toNat, gateGain := 0 }) ∧
      (x.gate = .holding → 1 < x.gateHold → x.gateStep = { x with gateHold := x.gateHold - 1, gateGain := 0 }) ∧
      (x.gate = .holding → x.gateHold ≤ 1 → x.gateStep = { falling with gateHold := 0 }) ∧
      (x.gate = .releasing → x.gateStep = falling))) ∧
  (∀ g : ℚ, gateLinear g = if g ≤ -960 then 0 else gainOf g) ∧
  (∀ (falls : Bool) (rate g0 g1 : ℚ) (i : Nat),
    (g0 = g1 → gateGainAt falls rate g0 g1 i = gateLinear g1) ∧
    (falls = true → g1 < g0 → gateGainAt falls rate g0 g1 i = gateLinear (max g1 (g0 - rate * (i + 1) / 48))) ∧
    (falls = false ∨ g0 < g1 → gateGainAt falls rate g0 g1 47 = gateLinear g1)) ∧
  (∀ x : Stage,
    let ratio : ℚ := x.target 1
    let level := Config.levelOf x.peak
    let wanted : ℚ := if 0 < x.peak ∧ (x.target 0 : ℚ) < level then (level - x.target 0) * (ratio - 10) / ratio else 0
    let r := x.reduction + (wanted - x.reduction) / (if x.reduction < wanted then x.target 2 else x.target 3)
    x.compStep = { x with reduction := r, compGain := (x.param 4).at 47 - r }) ∧
  (∀ (taps recent : List Int),
    convolve taps recent = ((List.zipWith (fun t x => t * x) taps recent).sum : Int) / 8388608) ∧
  (∀ (taps : List Int) (x : Stage) (i : Nat) (history : List Int) (s : Int) (rest : List Int),
    let recent := s :: history
    let wet := convolve taps recent * gainOf (x.value 2 i)
    let r := cabRun taps x (i + 1) (recent.take 1919) rest
    cabRun taps x i history [] = ([], history) ∧ cabRun taps x i history (s :: rest) =
      (rnd (s * (1000 - x.value 3 i) / 1000 + wet * x.value 3 i / 1000) :: r.1, r.2)) ∧
  (∀ (blocks : List Nat) (x : Stage) (i wp : Nat) (m : List (Nat × Int)) (s : Int) (rest : List Int),
    let len := 960 * blocks.length
    let delayed := tapRead (fun k => sampleGet m (lineIndex blocks ((wp + len - k % (len + 1)) % len))) x.tap i
    let b : ℚ := if x.trail = true then x.rampAt i / 240 else 0
    let r := delayRun blocks x (i + 1) ((wp + 1) % len)
      (samplePut m (lineIndex blocks wp) (rnd (s * (1 - b) + delayed * x.value 3 i / 1000))) rest
    delayRun blocks x i wp m [] = ([], wp, m) ∧ delayRun blocks x i wp m (s :: rest) =
      (rnd (s * ((1000 - x.value 4 i) / 1000 * (1 - b) + b) + delayed * x.value 4 i / 1000) :: r.1, r.2)) ∧
  (∀ (blocks : List Nat) (x : Stage) (c : AudioCtx) (i wp : Nat) (m : List (Nat × Int)) (s : Int) (rest : List Int),
    let b : ℚ := if x.trail = true then x.rampAt i / 240 else 0
    let entering := rnd (s * (1 - b))
    let here := wp % 9600
    let fed := tapRead (fun k => if k = 0 then entering
      else sampleGet m (lineIndex blocks ((here + 9600 - k % 9601) % 9600))) x.tap i
    let place := lineIndex blocks (9600 + wp)
    let oldest : ℚ := sampleGet m place * gainOf (-360000 / x.value 0 i)
    let tail := Config.tail (x.value 2 i) fed oldest (Config.freeSample (c.fresh + 2 * i))
    let network := Config.network (x.value 2 i) fed oldest (Config.freeSample (c.fresh + (2 * i + 1)))
    let r := verbRun blocks x c (i + 1) ((wp + 1) % 28800)
      (samplePut (samplePut m (lineIndex blocks here) entering) place (rnd network)) rest
    verbRun blocks x c i wp m [] = ([], wp, m) ∧ verbRun blocks x c i wp m (s :: rest) =
      (rnd (s * ((1000 - x.value 3 i) / 1000 * (1 - b) + b) + tail * x.value 3 i / 1000) :: r.1, r.2)) ∧
  ∀ (l : LineMemory) (blocks : List Nat) (x : Stage) (input : List Int) (c : AudioCtx),
    let b := fun (i : Nat) => (x.rampAt i : ℚ) / 240
    let each := fun (f : Nat → Int → ℚ) => input.zipIdx.map fun z => rnd (f z.2 z.1)
    let free := fun (i : Nat) => (Config.freeSample (c.fresh + i) : ℚ)
    let gives := fun (y : Stage) (wet : List Int) (samples : List (Nat × Int)) (used : Nat) =>
      x.run l blocks input c = ({ y with params := x.params.map Param.advance, ramp := x.rampAt 47 },
        if x.trail = true then wet else (input.zip wet).zipIdx.map fun z => rnd (z.1.2 * (1 - b z.2) + z.1.1 * b z.2),
        ⟨samples, c.fresh + used⟩)
    (x.kind = .trim → gives x (each fun i s => s * gainOf (x.value 0 i) * (1 - 2 * x.value 1 i)) c.samples 0) ∧
    (x.kind = .gate →
      let y := x.gateStep
      let falls := (x.gate = .holding ∨ x.gate = .releasing) ∧ (y.gate = .releasing ∨ y.gate = .closed)
      gives { y with peak := peakOf input }
        (each fun i s => s * gateGainAt (decide falls) ((0 - y.target 3) / y.target 2) x.gateGain y.gateGain i) c.samples 0) ∧
    (x.kind = .comp →
      let y := x.compStep
      gives { y with peak := peakOf input }
        (each fun i s => s * gainOf (x.compGain + (y.compGain - x.compGain) * (i + 1) / 48)) c.samples 0) ∧
    (x.kind = .drive →
      let clipped := fun (i : Nat) (s curve : Int) => Config.clip curve.toNat (s * gainOf (x.value 0 i * 3 / 5))
      let shaped := fun (i : Nat) (s curve : Int) =>
        if (x.param 2).now = 500 ∧ (x.param 2).target = 500 then clipped i s curve
        else Config.tilt (x.value 2 i) (clipped i s curve) (free (8 * i + curve.toNat))
      gives x (each fun i s =>
        (((x.param 1).mixAt i).map fun z => z.2 * shaped i s z.1).sum * gainOf (x.value 3 i)) c.samples 384) ∧
    (x.kind = .amp →
      gives x (each fun i s => Config.amp ((List.range 8).map fun k => x.value k i) s (free i)) c.samples 48) ∧
    (x.kind = .cab →
      let set := l.blockList (.impulse (x.target 0).toNat)
      let q := cabRun ((List.range x.tapsInUse).map fun k => sampleGet c.samples (lineIndex set k)) x 0 x.history input
      gives { x with history := q.2 } q.1 c.samples 0) ∧
    (x.kind = .eq →
      let band := fun (i : Nat) (y : ℚ) (n : Nat) =>
        if (x.param n).now = 0 ∧ (x.param n).target = 0 then y
        else Config.peaking ([100, 400, 1000, 2500, 6000].getD n 0) (x.value n i) y (free (5 * i + n))
      gives x (each fun i s => [0, 1, 2, 3, 4].foldl (band i) s * gainOf (x.value 5 i)) c.samples 240) ∧
    (x.kind = .mod →
      let phase := fun (i : Nat) =>
        let q := x.phase + (x.rate : ℚ) / 100000 * (i + 1) / 48
        q - q.floor
      gives { x with phase := phase 47 } (each fun i s => s * (1000 - x.value 4 i) / 1000 +
        Config.modulated (x.target 0) (x.value 3 i) (phase i) s (free i) * x.value 4 i / 1000) c.samples 48) ∧
    (x.kind = .delay →
      let r := delayRun blocks x 0 x.writePos c.samples input
      gives { x with writePos := r.2.1, tap := x.tap.advance } r.1 r.2.2 0) ∧
    (x.kind = .verb →
      let r := verbRun blocks x c 0 x.writePos c.samples input
      gives { x with writePos := r.2.1, tap := x.tap.advance } r.1 r.2.2 96)

/-- The request list at a boundary (R21; log 39): the entries that had arrived are taken in list order and leave the list,
the owner's next choice after each (R195). A STAGE_SET (R22) fails with the first check that fails, and otherwise takes
the value held within the parameter's range, with CLAMPED when that differs, and its result word holds the target; a
running tap follows its time in use at once, so that of two changes at one boundary the second is pending (R16). A
STAGE_BYPASS (R23) sets, clears or inverts the flag, and its result word holds the flag; it fails by the same checks, and with
BAD_ARGUMENT for any other setting when they pass: that the setting is looked at after lane, position and stage, so that with
no bank LIVE any setting meets NOT_READY, is the model's choice (log 32). -/
def Obligations.StageOrdersApplyAtBoundary : Prop :=
  ((∀ v : Int, wordOfInt v = BitVec.ofInt 16 v) ∧ ∀ x : Bool, wordOfBool x = if x = true then 1 else 0) ∧
  (laneOfNat 1 = some .one ∧ laneOfNat 2 = some .two ∧ ∀ n, n ≠ 1 → n ≠ 2 → laneOfNat n = none) ∧
  (∀ (tempo i : Nat) (x : Stage) (c : ParamClass) (v : Int),
    x.setTarget tempo i c v = Stage.rework tempo { x with params := x.params.set i ((x.param i).retarget c v) }) ∧
  (∀ (s : State) (bank : BankId) (ln : LaneId) (p : Nat) (x : Stage),
    let b := s.lane.banks.get bank
    let k := b.lanes.get ln
    let banks := s.lane.banks.set bank { b with lanes := b.lanes.set ln { k with stages := k.stages.set p (some x) } }
    s.stageAt bank ln p = b.stageAt ln p ∧ b.stageAt ln p = k.stages.getD p none ∧
    putStage bank ln p x s = { s with lane := { s.lane with banks := banks } }) ∧
  (∀ (choose : State → State) (s : State), takeRequests choose s =
    (s.lane.requests.take s.lane.arrived).foldl (fun s r => choose (applyRequest s r)) { s with lane := { s.lane with requests := s.lane.requests.drop s.lane.arrived, arrived := 0 } }) ∧
  (∀ (s : State) (i lane p index : Nat) (v : Int),
    let refuse := fun c => applyRequest s (.setOrder i lane p index v) = complete i c ResultFlags.none [] s
    (lane ≠ 1 ∧ lane ≠ 2 ∨ 11 < p → refuse .badArgument) ∧
    (lane = 1 ∨ lane = 2 → p ≤ 11 → s.liveBank = none → refuse .notReady) ∧
    (∀ setting,
      let refuse := fun c => applyRequest s (.bypassOrder i lane p setting) = complete i c ResultFlags.none [] s
      (lane ≠ 1 ∧ lane ≠ 2 ∨ 11 < p → refuse .badArgument) ∧
      (lane = 1 ∨ lane = 2 → p ≤ 11 → s.liveBank = none → refuse .notReady) ∧
      ∀ (bank : BankId) (ln : LaneId), laneOfNat lane = some ln → p ≤ 11 → s.liveBank = some bank →
        (s.lane.banks.get bank).stageAt ln p = none → refuse .badArgument) ∧
    ∀ (bank : BankId) (ln : LaneId), laneOfNat lane = some ln → p ≤ 11 → s.liveBank = some bank →
      ((s.lane.banks.get bank).stageAt ln p = none → refuse .badArgument) ∧
      ∀ x, (s.lane.banks.get bank).stageAt ln p = some x →
        ((x.kind.param (x.target 0) index).elim True (fun c => c.cls = .loadTime) → refuse .badArgument) ∧
        (∀ c, x.kind.param (x.target 0) index = some c → c.cls ≠ .loadTime →
          let w := max c.min (min c.max v)
          applyRequest s (.setOrder i lane p index v) =
            complete i .ok { ResultFlags.none with clamped := w != v } [wordOfInt w]
              (putStage bank ln p
                ((x.setTarget s.lane.notedTempo index c.cls w).followIn (s.lane.banks.get bank).runMode) s)) ∧
        (∀ setting, setting < 3 →
          let flag := if setting = 0 then false else if setting = 1 then true else !x.bypass
          applyRequest s (.bypassOrder i lane p setting) =
            complete i .ok ResultFlags.none [wordOfBool flag] (putStage bank ln p { x with bypass := flag } s)) ∧
        (∀ setting, 3 ≤ setting →
          applyRequest s (.bypassOrder i lane p setting) = complete i .badArgument ResultFlags.none [] s)) ∧
  (∀ (m : RunMode) (x : Stage), x.followIn m = if m = .full ∨ (m = .trails ∧ x.trail = true) then
    { x with tap := x.tap.follow } else x) ∧
  ∀ t : Tap,
    let stand := match t.pending, t.fade with
      | some p, _ => p
      | none, some f => f.1
      | none, none => t.time
    (t.inUse = stand → t.follow = t) ∧
    (t.inUse ≠ stand → t.fade = none → t.follow = { t with fade := some (t.inUse, 0) }) ∧
    ∀ f, t.inUse ≠ stand → t.fade = some f → t.follow = { t with pending := some t.inUse }

/-! ### Line memory (R36-R38, R42, R43, R57) -/

/-- The needs of a record (R33, R35): in lane and position order, for each stage of an enabled lane, a DELAY's blocks by its
longest time, a block for each 20 ms or part of it, a VERB's 40, a CAB's set with its taps. Taking blocks (R36): the `n`
lowest-numbered FREE blocks, in ascending number, become the holder's; no other entry of the map changes. An allocate
request (R35, R36) first frees its bank; it answers MISSING_IMPULSE for the first CAB need whose set is not RESIDENT,
NO_LINE_MEMORY with the blocks needed and free when they are too few, and otherwise serves every need and answers the CABs'
taps in use. The scene unit (R56, R74): zeroing, or fill and prepare at once when no block was taken; a failed load; or a
lean switch, for a GO that is no preload and no lean load already, when the LIVE bank's blocks would make up the lack. -/
def Obligations.AllocationTakesLowestFreeBlocks : Prop :=
  (∀ r : SceneRecord,
    let needs := fun (ln : LaneId) (k : LaneRecord) => (if k.enabled = true then
      k.stages.filterMap (fun x => match x.kind with
        | .delay => some ⟨ln, x.position, .blocks (((x.params.getD 0 0).toNat + 19) / 20)⟩
        | .verb => some ⟨ln, x.position, .blocks 40⟩
        | .cab => some ⟨ln, x.position, .cab (x.params.getD 0 0).toNat (x.params.getD 1 0).toNat⟩
        | _ => none)
      else [] : List Need)
    r.needs = needs .one r.lanes.one ++ needs .two r.lanes.two) ∧
  (∀ n : Need, n.blockCount = match n.kind with
    | .blocks c => c
    | .cab _ _ => 0) ∧
  (laneNumber .one = 1 ∧ laneNumber .two = 2) ∧
  (∀ (h : Holder) (m : List Holder) (n : Nat), h ≠ .free →
    let r := takeFree h m n 0
    (∀ b, b ∈ r.2 ↔ b < m.length ∧ m.getD b h = .free ∧ ((m.take b).filter (· == .free)).length < n) ∧
    r.2.Pairwise (· < ·) ∧ r.1.length = m.length ∧
    ∀ b, b < m.length → r.1.getD b .free = if b ∈ r.2 then h else m.getD b .free) ∧
  (∀ (l : LineMemory) (k : BankId) (needs : List Need),
    let m := l.freeBank k
    let total := (needs.map Need.blockCount).sum
    (∀ before after n id taps, needs = before ++ n :: after → n.kind = .cab id taps → (m.impulse id).state ≠ .resident →
      (∀ x ∈ before, ∀ id' taps', x.kind = .cab id' taps' → (m.impulse id').state = .resident) →
      l.allocate k needs = (m, .missingImpulse n.lane n.position id)) ∧
    ((∀ x ∈ needs, ∀ id taps, x.kind = .cab id taps → (m.impulse id).state = .resident) →
      (m.freeCount < total → l.allocate k needs = (m, .noLineMemory total m.freeCount)) ∧
      (total ≤ m.freeCount → l.allocate k needs = (needs.foldl (LineMemory.serve k) m,
          .ok (needs.filterMap (Need.cabAnswer m)) (total == 0)) ∧
        (l.allocate k needs).1.freeCount + total = m.freeCount))) ∧
  (∀ (l : LineMemory) (k : BankId) (n : Need),
    (∀ c, n.kind = .blocks c →
      let r := takeFree (.stage k n.lane n.position) l.map c 0
      l.serve k n = { l with map := r.1, zeroQueue := l.zeroQueue ++ r.2.map fun b => (b, k) } ∧ n.cabAnswer l = none) ∧
    ∀ id taps, n.kind = .cab id taps → l.serve k n = { l with users := l.users ++ [⟨k, n.lane, n.position, id⟩] } ∧
      n.cabAnswer l = some ⟨n.lane, n.position, min taps (l.impulse id).taps, decide ((l.impulse id).taps < taps)⟩) ∧
  ∀ (s : State) (rec' : SceneRecord) (r : Request), s.scene.record = some rec' → s.scene.latch = some r →
    let a := s.lines.allocate s.loadBank rec'.needs
    let u := { s with lines := a.1 }
    let zeroing := fun cabs => { u with scene := { s.scene with state := .zeroing, cabs := cabs } }
    let p := r.override.getD rec'.profile
    (∀ cabs, a.2 = .ok cabs false → allocateLoad s = zeroing cabs) ∧
    (∀ cabs, a.2 = .ok cabs true → allocateLoad s = sendFill (zeroing cabs)) ∧
    (∀ ln q id, a.2 = .missingImpulse ln q id → allocateLoad s =
      failLoad .missingImpulse [word (laneNumber ln), word q, word id] u) ∧
    ∀ needed free, a.2 = .noLineMemory needed free →
      let lean := r.kind = .go ∧ r.origin ≠ .preload ∧ s.scene.leanLoad = false ∧
        needed ≤ free + s.liveBank.elim 0 s.lines.bankBlocks
      (lean → allocateLoad s = { u with scene := { s.scene with
        state := .leanEmptying, latch := some { r with lean := true },
        lean := some ⟨s.frames + 1, if p.mode = .cut then 1 else p.f, false⟩ } }) ∧
      (¬ lean → allocateLoad s = failLoad .noLineMemory [word needed, word free] u)

/-- A free bank (R38, R39): every block of the bank's stages is FREE and every other block stays its holder's, the bank's
CAB users and queued blocks are gone, and so is an answer of that bank not yet taken (log 38); nothing of the other bank or
of the impulse sets changes; the free count rises by the bank's total. Zeroing at a boundary (R37): the first four queued
blocks leave the queue and hold silence, every other sample as it was; a bank whose last queued block goes is answered, and
no other. -/
def Obligations.BanksAreZeroedAndFreed : Prop :=
  (∀ (l : LineMemory) (k : BankId) (id : Nat) (h : Holder),
    let of := fun (p : Holder → Bool) => (l.map.filter p).length
    l.freeCount = of (· == .free) ∧ l.usersOf id = (l.users.filter fun u => u.id == id).length ∧
    l.bankBlocks k = of (fun h => match h with
      | .stage k' _ _ => k' == k
      | _ => false) ∧
    l.impulseBlocks = of (fun h => match h with
      | .impulse _ => true
      | _ => false) ∧
    (∀ b, b ∈ l.blockList h ↔ l.map[b]? = some h) ∧ (l.blockList h).Pairwise (· < ·)) ∧
  (∀ (l : LineMemory) (k : BankId),
    let t := l.freeBank k
    t.bankBlocks k = 0 ∧ t.freeCount = l.freeCount + l.bankBlocks k ∧
    t.bankBlocks (otherBank k) = l.bankBlocks (otherBank k) ∧ t.impulseBlocks = l.impulseBlocks ∧
    t.map.length = l.map.length ∧
    (∀ (n : Nat) (h : Holder), l.map[n]? = some h →
      ((∃ ln p, h = .stage k ln p) → t.map[n]? = some .free) ∧ ((∀ ln p, h ≠ .stage k ln p) → t.map[n]? = some h)) ∧
    t.users = l.users.filter (fun u => u.bank != k) ∧ t.zeroQueue = l.zeroQueue.filter (fun x => x.2 != k) ∧
    t.answers = l.answers.filter (· != k) ∧ t.impulses = l.impulses ∧ t.samples = l.samples) ∧
  (∀ l : LineMemory,
    let t := l.zeroFour
    t.zeroQueue = l.zeroQueue.drop 4 ∧ t.map = l.map ∧ t.users = l.users ∧ t.impulses = l.impulses ∧
    (∀ x ∈ l.zeroQueue.take 4, ∀ o, o < 960 → sampleGet t.samples (960 * x.1 + o) = 0) ∧
    t.samples = l.samples.filter (fun x => (l.zeroQueue.take 4).all fun z => x.1 / 960 != z.1) ∧
    ∃ done, t.answers = l.answers ++ done ∧
      ∀ k, k ∈ done ↔ (∃ x ∈ l.zeroQueue.take 4, x.2 = k) ∧ ∀ x ∈ l.zeroQueue.drop 4, x.2 ≠ k)

/-- IMPULSE_CHUNK (R42, R43): the burst ends, with the host access that waited for it. Taps 480c to 480c + 479, or to the
last one, are copied from the staging area, as it stands when the burst ends, to the set's blocks, and no other sample
changes; the chunk counts, and after the last one the set is RESIDENT and the RUNNING load completes OK with id, taps and
blocks. Sample k of a block list is sample k mod 960 of its block k / 960 (R33), and a tap is the upper 24 bits of the staged
32-bit fraction (R215). A chunk whose set is no longer LOADING is not used. -/
def Obligations.ImpulseChunkCountsAndCompletes : Prop :=
  (∀ (m : List (Nat × Int)) (k j : Nat) (x : Int), m.Pairwise (fun y z => y.1 < z.1) →
    let t := samplePut m k x
    sampleGet t j = (if j = k then x else sampleGet m j) ∧ t.Pairwise (fun y z => y.1 < z.1)) ∧
  (∀ (blocks : List Nat) (k : Nat), lineIndex blocks k = 960 * blocks.getD (k / 960) 0 + k % 960) ∧
  (∀ (m : Memory) (k : Nat),
    stagedTap m k = Int.fdiv (m.readWord (0x2000 + 4 * k + 2) ++ m.readWord (0x2000 + 4 * k) : BitVec 32).toInt 256) ∧
  ∀ (s : State) (id : Nat), s.resetHeld = false → id < 16 → s.disp.port.running = some (.impulseChunk id) →
    let e := s.lines.impulse id
    let blocks := s.lines.blockList (.impulse id)
    let first := 480 * e.chunks
    let taps := (List.range (min 480 (e.taps - first))).map fun j => first + j
    let copied := fun e' => { endBurst s with lines := { s.lines with
      samples := taps.foldl (fun m k => samplePut m (lineIndex blocks k) (stagedTap s.mem k)) s.lines.samples,
      impulses := putAt 16 id e' ImpulseEntry.empty s.lines.impulses } }
    let answers := fun u => exec .impulseChunk s = .next (publish s (finish u))
    (e.state ≠ .loading → answers (endBurst s)) ∧
    (e.state = .loading → 480 * (e.chunks + 1) < e.taps → answers (copied { e with chunks := e.chunks + 1 })) ∧
    (e.state = .loading → e.taps ≤ 480 * (e.chunks + 1) →
      let done := copied ⟨.resident, e.taps, e.chunks + 1⟩
      (∀ i, s.runningSlot .lineMemory = some i → answers
        (complete i .ok ResultFlags.none [word id, word e.taps, word ((e.taps + 959) / 960)] done)) ∧
      (s.runningSlot .lineMemory = none → answers done))

/-! ### Scene changes (R49, R57, R59, R67-R75) -/

/-- The checks of a binding entry (R133, R215), in ascending offset: none for trigger NONE; the fault of an action that its
trigger or follow flag does not allow stands at the action byte (log 24). The walk of a scene record (R214): the header's
fields, the stage records of both lanes, the two counts, the binding entries and the notices, in this order, and the first
faulty field is named; a record, entry or notice that would run past the length is a fault at its count, found when the
walk comes to it, so that a faulty field met before is named instead (log 23). A record's cost (R20): 20 and the stages' costs
for each enabled lane, refused above 1960 (R49). A fetch
refuses a record by the first check of R49 that fails. -/
def Obligations.RecordsAndEntriesAreChecked : Prop :=
  (∀ (l : List Byte) (o : Nat),
    let b := fun k => byteAt l (o + k)
    let w := fun k => wordAt l (o + k)
    let t := b 0
    let kind := b 3 % 16
    let places := match kind with
      | 1 => if b 9 = 1 then [8, 9, 10, 11, 12, 14] else [8, 9]
      | 2 => [8] | 3 => [8] | 4 => [8, 9] | 5 => [8, 9] | 6 => [8, 9] | 7 => [8, 9, 10, 12, 14] | 13 => [8] | _ => []
    (t = 0 → entryFaults l o = []) ∧
    (t ≠ 0 → (entryFaults l o).map Prod.fst = ([0, 1, 2, 3, 4, 6] ++ places).map (o + ·) ∧
      ∀ k v, (o + k, v) ∈ entryFaults l o → (v = true ↔
        (k = 0 ∧ 7 < t) ∨ (k = 1 ∧ ((t ≤ 5 ∧ 7 < b 1) ∨ (t = 6 ∧ 1 < b 1))) ∨ (k = 2 ∧ t = 5 ∧ 7 < b 2) ∨
        (k = 3 ∧ (kind = 0 ∨ kind = 15 ∨ (kind = 7 ∧ t ≠ 6) ∨ (b 3 / 128 % 2 = 1 ∧ kind ≠ 7))) ∨
        (k = 4 ∧ t = 7 ∧ 1023 < w 4) ∨ (k = 6 ∧ t = 7 ∧ 1023 < w 6) ∨
        (k = 8 ∧ ((kind = 1 ∧ 63 < b 8) ∨ (kind = 2 ∧ b 8 ≠ 1 ∧ b 8 ≠ 255) ∨ (kind = 3 ∧ 31 < b 8) ∨
          (4 ≤ kind ∧ kind ≤ 7 ∧ b 8 ≠ 1 ∧ b 8 ≠ 2) ∨ (kind = 13 ∧ w 8 / 2 ^ 12 % 8 = 7))) ∨
        (k = 9 ∧ ((kind = 1 ∧ 1 < b 9) ∨ (4 ≤ kind ∧ kind ≤ 7 ∧ 11 < b 9))) ∨
        (k = 10 ∧ ((kind = 1 ∧ 2 < b 10) ∨ (kind = 7 ∧ 7 < b 10))) ∨ (k = 11 ∧ 2 < b 11) ∨
        (k = 12 ∧ ((kind = 1 ∧ (w 12 < 1 ∨ 250 < w 12)) ∨
          (kind = 7 ∧ (signedAt l (o + 12) < -1000 ∨ 10000 < signedAt l (o + 12))))) ∨
        (k = 14 ∧ ((kind = 1 ∧ 250 < w 14) ∨
          (kind = 7 ∧ (signedAt l (o + 14) < -1000 ∨ 10000 < signedAt l (o + 14)))))))) ∧
  (∀ l : List Byte,
    let b := byteAt l
    let w := wordAt l
    (headerFaults l).map Prod.fst = [0x12, 0x13, 0x14, 0x16, 0x18, 0x20, 0x21, 0x22, 0x24, 0x26, 0x27,
      0x28, 0x29, 0x2A, 0x2C, 0x2E, 0x2F] ∧
    ∀ x ∈ headerFaults l, x.2 = true ↔
      (x.1 ∈ [0x12, 0x13, 0x26, 0x29, 0x2E] ∧ 2 < b x.1) ∨ (x.1 = 0x14 ∧ (w 0x14 < 1 ∨ 250 < w 0x14)) ∨
      (x.1 = 0x16 ∧ 250 < w 0x16) ∨ (x.1 = 0x18 ∧ 10000 < w 0x18) ∨ (x.1 ∈ [0x20, 0x28] ∧ 1 < b x.1) ∨
      (x.1 = 0x21 ∧ 0 < b 0x21) ∨ (x.1 ∈ [0x27, 0x2F] ∧ 12 < b x.1) ∨
      (x.1 ∈ [0x22, 0x2A] ∧ w x.1 ≠ 0x8000 ∧ (signedAt l x.1 < -960 ∨ 120 < signedAt l x.1)) ∨
      (x.1 ∈ [0x24, 0x2C] ∧ (signedAt l x.1 < -100 ∨ 100 < signedAt l x.1))) ∧
  (∀ (l : List Byte) (len at' n low o : Nat),
    let walk := stagesWalk l len at' (n + 1) low o
    let position := byteAt l (o + 1)
    let flags := byteAt l (o + 2)
    let value := fun i => signedAt l (o + 4 + 2 * i)
    stagesWalk l len at' 0 low o = .ok ([], o) ∧ (len < o + 4 → walk = .error at') ∧
    (o + 4 ≤ len → StageKind.ofCode (byteAt l o) = none → walk = .error o) ∧
    ∀ k, o + 4 ≤ len → StageKind.ofCode (byteAt l o) = some k →
      let size := 4 + 2 * k.params.length
      let bad := fun i => ∃ p, k.params[i]? = some p ∧ (value i < p.min ∨ p.max < value i ∨
        (k = .delay ∧ i = 1 ∧ value 0 < value 1))
      let misplaced := position < low ∨ 11 < position
      let trails := flags / 2 % 2 = 1 ∧ k ≠ .delay ∧ k ≠ .verb
      (len < o + size → walk = .error at') ∧
      (o + size ≤ len → (misplaced → walk = .error (o + 1)) ∧ (¬ misplaced → trails → walk = .error (o + 2)) ∧
        (¬ misplaced → ¬ trails → (∀ i, bad i → (∀ j < i, ¬ bad j) → walk = .error (o + 4 + 2 * i)) ∧
          ((∀ i, ¬ bad i) →
            let next := stagesWalk l len at' n (position + 1) (o + size)
            (∀ f, next = .error f → walk = .error f) ∧ ∀ rest o', next = .ok (rest, o') → walk =
              .ok (⟨k, position, flags % 2 == 1, flags / 2 % 2 == 1, (List.range k.params.length).map value⟩ :: rest, o'))))) ∧
  (∀ (l : List Byte) (len at' n o : Nat),
    let entries := entriesWalk l len at' (n + 1) o
    let notices := noticesWalk l len at' (n + 1) o
    let seven := wordAt l o / 2 ^ 12 % 8 = 7
    entriesWalk l len at' 0 o = .ok ([], o) ∧ noticesWalk l len at' 0 o = .ok [] ∧
    (len < o + 16 → entries = .error at') ∧ (len < o + 8 → notices = .error at') ∧
    (o + 16 ≤ len → (∀ f, firstFault (entryFaults l o) = some f → entries = .error f) ∧
      (firstFault (entryFaults l o) = none →
        (∀ f, entriesWalk l len at' n (o + 16) = .error f → entries = .error f) ∧
        ∀ rest o', entriesWalk l len at' n (o + 16) = .ok (rest, o') → entries = .ok (entryAt l o :: rest, o'))) ∧
    (o + 8 ≤ len → (seven → notices = .error o) ∧ (¬ seven →
      (∀ f, noticesWalk l len at' n (o + 8) = .error f → notices = .error f) ∧
      ∀ rest, noticesWalk l len at' n (o + 8) = .ok rest → notices = .ok (noticeAt l o :: rest)))) ∧
  (∀ (l : List Byte) (len : Nat),
    let walk := recordWalk l len
    (∀ f, firstFault (headerFaults l) = some f → walk = .error f) ∧
    (firstFault (headerFaults l) = none →
      (∀ f, stagesWalk l len 0x27 (byteAt l 0x27) 0 0x30 = .error f → walk = .error f) ∧
      ∀ s1 o1, stagesWalk l len 0x27 (byteAt l 0x27) 0 0x30 = .ok (s1, o1) →
        (∀ f, stagesWalk l len 0x2F (byteAt l 0x2F) 0 o1 = .error f → walk = .error f) ∧
        ∀ s2 o2, stagesWalk l len 0x2F (byteAt l 0x2F) 0 o1 = .ok (s2, o2) →
          (len ≤ o2 ∨ 16 < byteAt l o2 → walk = .error o2) ∧
          (o2 < len → byteAt l o2 ≤ 16 → len ≤ o2 + 1 ∨ 4 < byteAt l (o2 + 1) → walk = .error (o2 + 1)) ∧
          (o2 + 1 < len → byteAt l o2 ≤ 16 → byteAt l (o2 + 1) ≤ 4 →
            let entries := entriesWalk l len o2 (byteAt l o2) (o2 + 2)
            (∀ f, entries = .error f → walk = .error f) ∧
            ∀ es o3, entries = .ok (es, o3) →
              let notices := noticesWalk l len (o2 + 1) (byteAt l (o2 + 1)) o3
              (∀ f, notices = .error f → walk = .error f) ∧
              ∀ ns, notices = .ok ns → walk = .ok ⟨profileAt l 0x12, wordAt l 0x18,
                ⟨laneHeaderAt l 0x20 s1, laneHeaderAt l 0x28 s2⟩, es, ns⟩))) ∧
  (∀ r : SceneRecord,
    let cost := fun (k : LaneRecord) =>
      if k.enabled = true then 20 + (k.stages.map fun x => x.kind.cost (x.params.getD 1 0).toNat).sum else 0
    r.cost = cost r.lanes.one + cost r.lanes.two) ∧
  ∀ (m : Memory) (scene : Nat),
    let offset := (m.readWord (0x4000 + 4 * scene)).toNat
    let length := (m.readWord (0x4002 + 4 * scene)).toNat
    let l := m.bytes offset length
    let bad := 1024 < length ∨ offset < 0x4100 ∨ 0x10000 < offset + length ∨ length < 48 ∨ wordAt l 0 ≠ length
    (length = 0 → fetchCheck m scene = .error (.emptyEntry, [])) ∧
    (length ≠ 0 → bad → fetchCheck m scene = .error (.badRecord, [0])) ∧
    (length ≠ 0 → ¬ bad →
      (∀ f, recordWalk l length = .error f → fetchCheck m scene = .error (.badRecord, [word f])) ∧
      ∀ r, recordWalk l length = .ok r → fetchCheck m scene =
        if 1960 < r.cost then .error (.overBudget, [word r.cost]) else .ok r)

/-- FETCH_END (R49): the checks are made on memory as it stands when the burst ends, before a host access on WAIT; a failure
fails the load, a good record goes to ALLOCATING; a fetch whose load was abandoned (R58), which its serial tells (log 8), is
not used. A failed load (R59): the load bank EMPTY (logs 7, 61 for what it then holds), or still CUTTING, the latch empty,
the unit IDLE with nothing left of the load, its record, its CABs' answers and its lean mark, and a failed preload's mark
clear (R79); the rest of the unit stays; the origin's slot completes with the code, any other origin is told by SCENE_FAILED
(R211). ZEROED_ANSWER (R57): in ZEROING the answer for the load bank sends fill and prepare, records the scene's fade
defaults and tail hold, and enters PREPARING; an answer for any other bank, or in any other state, is only used up (R39).
PREPARE_DONE (R57): at the second boundary after PREPARING began the load bank is READY; a LOAD is done and the unit IDLE
with an empty latch, a GO completes its attached load and is ARMED. Before that boundary nothing happens (log 1). What an
arriving boundary does first is FrameBoundaryCountsOnce's (log 2). -/
def Obligations.LoadIsFetchedFilledAndPrepared : Prop :=
  (∀ (s : State) (code : ResultCode) (flags : ResultFlags) (words : List Word) (i : Nat),
    completeSlot none code flags words s = s ∧ completeSlot (some i) code flags words s = complete i code flags words s) ∧
  (∀ s : State,
    let u := { s with scene := { s.scene with state := .allocating } }
    enterAllocating s = if (s.bankCtl s.loadBank).state = .loading then allocateLoad u else u) ∧
  (∀ (s : State) (r : SceneRecord), s.scene.record = some r →
    let k := s.loadBank
    sendFill s = { s with
      lane := { s.lane with bankRequests := s.lane.bankRequests ++ [.fill k r s.scene.cabs, .prepare k] },
      scene := { s.scene with
        banks := s.scene.banks.set k { s.bankCtl k with profile := r.profile, tailHold := r.tailHold },
        state := .preparing, preparingAt := s.frames, fillSent := true, record := none, cabs := [] } }) ∧
  (bankWord .a = 0 ∧ bankWord .b = 1 ∧ ∀ (r : Request) (code : ResultCode) (words : List Word) (time : Long),
    (sceneFailedReport r code words time).words =
      [bytePair 3 0, word r.origin.source, lowWord time, highWord time, bytePair r.scene code.code, bytePair r.kind.code 0] ++
        (words ++ [0, 0, 0, 0]).take 4 ++ List.replicate 6 0) ∧
  ((∀ (s : State) (scene serial : Nat), s.resetHeld = false → s.disp.port.running = some (.sceneFetch scene serial) →
    let m := s.mem
    let offset := (m.readWord (0x4000 + 4 * scene)).toNat
    let length := (m.readWord (0x4002 + 4 * scene)).toNat
    (s.scene.state ≠ .fetching ∨ s.scene.serial ≠ serial →
      exec .fetchEnd s = .next (publish s (finish (endBurst s)))) ∧
    (s.scene.state = .fetching → s.scene.serial = serial →
      (∀ c w, fetchCheck m scene = .error (c, w) →
        exec .fetchEnd s = .next (publish s (finish (failLoad c w (endBurst s))))) ∧
      (∀ r, fetchCheck m scene = .ok r →
        exec .fetchEnd s = .next (publish s (finish (enterAllocating
          { (endBurst s) with scene := { s.scene with record := some r } }))))) ∧
    (length = 0 → fetchCheck m scene = .error (.emptyEntry, [])) ∧
    (1024 < length ∨ (0 < length ∧ (offset < 0x4100 ∨ 0x10000 < offset + length)) →
      fetchCheck m scene = .error (.badRecord, [0])) ∧
    ∀ r, fetchCheck m scene = .ok r → r.cost ≤ 1960 ∧ 48 ≤ length ∧ (m.readWord offset).toNat = length) ∧
  (∀ (s : State) (r : Request) (code : ResultCode) (words : List Word), s.scene.latch = some r →
    let k := s.loadBank
    let t := failLoad code words s
    let empty : BankControl := ⟨.empty, none, ⟨.cut, 1, 0, .none⟩, 0, 0, 0⟩
    let u := { s with scene := { s.scene with
      banks := if (s.bankCtl k).state = .loading then s.scene.banks.set k empty else s.scene.banks,
      state := .idle, latch := none, record := none, cabs := [], fillSent := false, leanLoad := false,
      preloadMark := if r.origin = .preload then false else s.scene.preloadMark } }
    t.scene = u.scene ∧
    (∀ i, r.origin = .slot i → t = completeSlot r.attached code ResultFlags.none words
      (complete i code ResultFlags.none words u)) ∧
    ((∀ i, r.origin ≠ .slot i) → t = completeSlot r.attached code ResultFlags.none words
      (appendReport (sceneFailedReport r code words s.frameCounter) u)))) ∧
  (∀ (s : State) (k : BankId) (rest : List BankId), s.resetHeld = false → s.lines.answers = k :: rest →
    let u := { s with lines := { s.lines with answers := rest } }
    (s.scene.state ≠ .zeroing ∨ k ≠ s.loadBank → exec .zeroedAnswer s = .next (publish s (finish u))) ∧
    ∀ r, s.scene.state = .zeroing → k = s.loadBank → s.scene.record = some r →
      exec .zeroedAnswer s = .next (publish s (finish
        { u with lane := { s.lane with bankRequests := s.lane.bankRequests ++ [.fill k r s.scene.cabs, .prepare k] },
                 scene := { s.scene with
                   banks := s.scene.banks.set k { s.bankCtl k with profile := r.profile, tailHold := r.tailHold },
                   state := .preparing, preparingAt := s.frames, fillSent := true, record := none, cabs := [] } }))) ∧
  (∀ (s : State) (r : Request), s.resetHeld = false →
    let b := openBoundary s
    let k := b.loadBank
    let banks := b.scene.banks.set k { b.bankCtl k with state := .ready }
    let flags := { ResultFlags.none with trailCut := r.trailCut }
    (b.scene.state = .preparing → b.scene.preparingAt + 2 ≤ b.frames → b.scene.latch = some r → r.kind = .load →
      exec .prepareDone s = .next (publish s (finish (completeSlot r.slot .ok flags [word r.scene, bankWord k]
        { b with scene := { b.scene with banks := banks, state := .idle, latch := none } })))) ∧
    (b.scene.state = .preparing → b.scene.preparingAt + 2 ≤ b.frames → b.scene.latch = some r → r.kind = .go →
      exec .prepareDone s = .next (publish s (finish (completeSlot r.attached .ok flags [word r.scene, bankWord k]
        { b with scene := { b.scene with banks := banks, state := .armed, latch := some { r with attached := none },
                                         quantMark := false, armedAt := b.frames } })))) ∧
    (b.scene.state ≠ .preparing ∨ b.frames < b.scene.preparingAt + 2 → exec .prepareDone s = .next (publish s s)))

/-- A request by the state of the scene unit (R54, R55, R60-R62, R75). In IDLE a GO for the LIVE scene, but for a
SCENE_SWAP's, is done at once; a READY load bank that holds the scene arms a GO and ends a LOAD; a READY bank of another
scene is emptied and a TRAILING one cut, and the fetch begins. While loading, a GO takes over a LOAD of its scene as its
attached load, a LOAD attaches to a GO of its scene, a request of the same kind and scene replaces the old one, and one of
another scene abandons the work (R58). ARMED: a GO of the scene replaces the old one and waits anew, a LOAD of it is done,
another scene disarms. FADING and LEAN_EMPTYING: the request waits in the latch, where the LEAN mark passes to a GO and
TRAIL_CUT does not (log 50). That a GO keeps the LEAN mark of a lean load and a LOAD drops it (log 21), and that a
SCENE_LOAD which waits is superseded by a GO of its scene in FADING and LEAN_EMPTYING (log 46), are the model's choices. Any
request but a preload clears the preload mark (R79). The orders (R64, R65): SCENE_GO and SCENE_LOAD check scene and
override; SCENE_SWAP needs a READY load bank in IDLE or ARMED. A cut that begins away from a boundary starts with the next
frame (log 20). -/
def Obligations.RequestsActBySceneState : Prop :=
  (∀ s : State, (∀ k, s.bankCtl k = s.scene.banks.get k) ∧ (otherBank .a = .b ∧ otherBank .b = .a) ∧
    (∀ k, s.liveBank = some k → (s.bankCtl k).state = .live) ∧ (s.liveBank = none → ∀ k, (s.bankCtl k).state ≠ .live) ∧
    s.loadBank = (match s.liveBank, s.scene.lastLive with
      | some k, _ => otherBank k
      | none, some k => otherBank k
      | none, none => .a) ∧
    s.activeScene = s.liveBank.bind fun k => (s.bankCtl k).scene) ∧
  (∀ kind scene profile origin, newRequest kind scene profile origin =
    ⟨kind, scene, profile, origin, none, false, false, false⟩) ∧
  (∀ (r : Request) (s : State),
    let u := if r.origin = .preload then s else { s with scene := { s.scene with preloadMark := false } }
    (s.scene.state = .idle → takeRequest r s = takeInIdle r u) ∧
    (s.scene.state = .fading → takeRequest r s = takeIntoLatch r u) ∧
    (s.scene.state = .leanEmptying → ∃ v, v = takeIntoLatch r u ∧ takeRequest r s = { v with scene := { v.scene with
      lean := v.scene.lean.map fun x => { x with replaced := true } } }) ∧
    ∀ old, s.scene.latch = some old →
      (s.scene.state = .armed → takeRequest r s = takeWhileArmed r old u) ∧
      (s.scene.state = .fetching ∨ s.scene.state = .allocating ∨ s.scene.state = .zeroing ∨ s.scene.state = .preparing →
        takeRequest r s = takeWhileLoading r old u)) ∧
  (∀ (r : Request) (s : State),
    let u := { s with scene := { s.scene with
      state := .idle, latch := none, leanLoad := s.scene.leanLoad && r.lean } }
    let holds := fun (x : Request) (v : State) => { v with scene := { v.scene with latch := some x } }
    let atOnce := r.kind = .go ∧ r.reswap = false ∧ s.activeScene = some r.scene
    let k := s.loadBank
    let c := s.bankCtl k
    (atOnce → takeInIdle r s = completeSlot r.attached .superseded ResultFlags.none [] (completeSlot r.slot .ok
      ResultFlags.none [word r.scene, bankWord (s.liveBank.getD .a), 0xFFFF] u)) ∧
    (¬ atOnce →
      (c.state = .ready → c.scene = some r.scene →
        (r.kind = .go → takeInIdle r s = { u with scene := { u.scene with
          latch := some r, state := .armed, quantMark := false, armedAt := s.frames } }) ∧
        (r.kind = .load → takeInIdle r s = completeSlot r.slot .ok { ResultFlags.none with trailCut := r.trailCut }
          [word r.scene, bankWord k] u)) ∧
      (c.state = .ready → c.scene ≠ some r.scene → takeInIdle r s = beginFetch r.scene (holds r (emptyBank k true u))) ∧
      (c.state = .trailing → takeInIdle r s =
        beginFetch r.scene (holds { r with trailCut := true } (startCut k u))) ∧
      (c.state ≠ .ready → c.state ≠ .trailing → takeInIdle r s = beginFetch r.scene (holds r u)))) ∧
  (∀ (n : Nat) (s : State),
    let k := s.loadBank
    let banks := if (s.bankCtl k).state = .cutting then s.scene.banks
      else s.scene.banks.set k { BankControl.reset with state := .loading, scene := some n }
    beginFetch n s = askBurst (.sceneFetch n (s.scene.serial + 1)) { s with scene := { s.scene with
      banks := banks, state := .fetching, serial := s.scene.serial + 1, record := none, cabs := [], fillSent := false } }) ∧
  (∀ (k : BankId) (s : State),
    startCut k s = { s with scene := { s.scene with banks := s.scene.banks.set k { s.bankCtl k with
      state := .cutting, cutFrom := if s.opened then s.frames else s.frames + 1 } } } ∧
    ∀ release, emptyBank k release s = { s with
      lines := s.lines.freeBank k, scene := { s.scene with banks := s.scene.banks.set k BankControl.reset },
      lane := if release then { s.lane with bankRequests := s.lane.bankRequests ++ [.release k] } else s.lane }) ∧
  (∀ s : State,
    let k := s.loadBank
    let state := (s.bankCtl k).state
    let u := if state = .loading then emptyBank k s.scene.fillSent s else if state = .ready then emptyBank k true s else s
    abandonLoad s = { u with scene := { u.scene with record := none, cabs := [], fillSent := false } }) ∧
  (∀ (new old : Request) (s : State),
    let sup := fun (i : Option Nat) (u : State) => completeSlot i .superseded ResultFlags.none [] u
    let latched := fun (x : Request) (u : State) => { u with scene := { u.scene with latch := some x } }
    let marks : Request := { new with trailCut := old.trailCut, lean := old.lean && new.kind == .go }
    let other := takeInIdle { new with lean := s.scene.leanLoad && new.kind == .go }
      (sup old.attached (sup old.slot (abandonLoad s)))
    (new.scene ≠ old.scene → takeWhileLoading new old s = other ∧ takeWhileArmed new old s = other) ∧
    (new.scene = old.scene →
      (old.kind = .load → new.kind = .go → takeWhileLoading new old s = latched { marks with attached := old.slot } s) ∧
      (old.kind = .go → new.kind = .load → ∀ i, new.origin = .slot i → takeWhileLoading new old s =
        latched { old with attached := some i } (sup old.attached s)) ∧
      (old.kind = .go → new.kind = .load → (∀ i, new.origin ≠ .slot i) → takeWhileLoading new old s = s) ∧
      (old.kind = .go → new.kind = .go → takeWhileLoading new old s =
        latched { marks with attached := old.attached } (sup old.slot s)) ∧
      (old.kind = .load → new.kind = .load → takeWhileLoading new old s =
        latched { marks with attached := none } (sup old.attached (sup old.slot s))) ∧
      (new.kind = .go → ∃ v, v = sup old.slot s ∧ takeWhileArmed new old s = { v with scene := { v.scene with
        latch := some { marks with attached := old.attached }, quantMark := false } }) ∧
      (new.kind = .load → takeWhileArmed new old s = completeSlot new.slot .ok
        { ResultFlags.none with trailCut := old.trailCut } [word old.scene, bankWord s.loadBank] s)) ∧
    let lean := s.scene.state == .leanEmptying && new.kind == .go
    (s.scene.latch = none → takeIntoLatch new s = latched { new with lean := lean } s) ∧
    (s.scene.latch = some old →
      (new.kind = .go → new.scene = old.scene → takeIntoLatch new s =
        latched { new with lean := lean, attached := old.attached } (sup old.slot s)) ∧
      (new.kind = .load ∨ new.scene ≠ old.scene → takeIntoLatch new s =
        latched { new with lean := lean, attached := none } (sup old.attached (sup old.slot s))))) ∧
  ∀ (s : State) (i : Nat) (args : List Byte),
    let b := byteAt args
    let profile := if b 1 = 1 then some (profileAt args 2) else none
    let badProfile := 1 < b 1 ∨ (b 1 = 1 ∧ (2 < b 2 ∨ 2 < b 3 ∨ wordAt args 4 < 1 ∨ 250 < wordAt args 4 ∨ 250 < wordAt args 6))
    let c := s.bankCtl s.loadBank
    let ready := c.state = .ready ∧ (s.scene.state = .idle ∨ s.scene.state = .armed)
    let fails := fun (code : ResultCode) => complete i code ResultFlags.none [] s
    let request := fun (kind : RequestKind) (scene : Nat) (p : Option Profile) (reswap : Bool) =>
      takeRequest ⟨kind, scene, p, .slot i, none, false, false, reswap⟩ s
    (63 < b 0 ∨ badProfile → takeOrder .sceneGo i args s = fails .badArgument) ∧
    (b 0 ≤ 63 → ¬ badProfile → takeOrder .sceneGo i args s = request .go (b 0) profile false) ∧
    (63 < b 0 → takeOrder .sceneLoad i args s = fails .badArgument) ∧
    (b 0 ≤ 63 → takeOrder .sceneLoad i args s = request .load (b 0) none false) ∧
    (badProfile → takeOrder .sceneSwap i args s = fails .badArgument) ∧
    (¬ badProfile → ready → takeOrder .sceneSwap i args s = request .go (c.scene.getD 0) profile true) ∧
    (¬ badProfile → ¬ ready → takeOrder .sceneSwap i args s = fails .notReady)


/-- SWAP (R67-R69): at a boundary after arming, at the quantize point, the new bank is LIVE and the old OUTGOING, the unit
FADING with an empty latch, the local view the new bank's. CUT fades over one frame with no gap; BLEND becomes GAP when the
costs of both banks pass 1960; a new bank is held back unless it blends or fades in alone; trails ring when the old bank has
trail stages and a tail hold and the request is not LEAN, and are kept when the costs fit and dropped when not. The binding
unit takes the notice and follows the pedals, the bound pairs are derived anew, an auto-off tuner is switched off, the new
bank's notices are queued in order, and the SCENE_LIVE report counts those dropped. That the report of a CUT shows the F 1
and G 0 it plays with is the model's choice (log 22). What an arriving boundary does first is FrameBoundaryCountsOnce's (log
2). -/
def Obligations.SwapMakesBankLive : Prop :=
  (∀ (s : State) (r : Request), s.resetHeld = false →
    let b := openBoundary s
    let new := b.loadBank
    let p := r.override.getD (b.bankCtl new).profile
    b.scene.state = .armed → b.scene.armedAt < b.frames → b.scene.latch = some r →
    (b.scene.quantMark = true ∨ r.lean = true ∨ p.quantize = .none) →
    ∃ (f : Fade) (w : State),
      let v := tunerAutoOff (derivePairs (bindSceneLive new w))
      let q := queueNotices (b.lane.banks.get new).notices v
      let u := appendReport (sceneLiveReport f q.2 b.frameCounter) q.1
      exec .swap s = .next (publish s (finish u)) ∧
      w = { b with scene := { b.scene with
        banks := w.scene.banks, state := .fading, latch := none, lastLive := some new, fade := some f, quantMark := false,
        fillSent := false, leanLoad := false } } ∧
      w.bankCtl new = { b.bankCtl new with state := .live } ∧
      (b.liveBank = none → w.bankCtl (otherBank new) = b.bankCtl (otherBank new)) ∧
      u.scene = w.scene ∧ u.bind.view = some new ∧ f.newBank = new ∧ f.oldBank = b.liveBank ∧ f.swapAt = b.frames ∧
      f.owner = r ∧ f.f = (if p.mode = .cut then 1 else p.f) ∧ f.g = (if p.mode = .cut then 0 else p.g) ∧
      u.lines = b.lines ∧ u.tempo = b.tempo ∧ u.pedals = b.pedals ∧ u.lamps = b.lamps ∧ u.mem = b.mem ∧
      (∀ old, b.liveBank = some old →
        let c := b.lane.banks.get old
        let newCost := (b.lane.banks.get new).cost
        let rings := (c.lanes.one.hasTrail = true ∨ c.lanes.two.hasTrail = true) ∧ 0 < (b.bankCtl old).tailHold ∧
          r.lean = false
        w.bankCtl old = { b.bankCtl old with state := .outgoing } ∧
        f.mode = (if p.mode = .blend ∧ 1960 < c.cost + newCost then .gap else p.mode) ∧
        (f.heldBack = true ↔ f.mode ≠ .blend) ∧
        (f.downgraded = true ↔ p.mode = .blend ∧ 1960 < c.cost + newCost) ∧
        (f.trailsKept = true ↔ rings ∧ newCost + c.trailCost ≤ 1960) ∧
        (f.trailDropped = true ↔ rings ∧ 1960 < newCost + c.trailCost)) ∧
      (b.liveBank = none → f.mode = p.mode ∧ f.trailsKept = false ∧ f.trailDropped = false ∧ f.downgraded = false ∧
        f.heldBack = false)) ∧
  (∀ (s : State) (m : Message) (rest : List Message), queueNotices [] s = (s, 0) ∧
    queueNotices (m :: rest) s =
      let r := queueNotices rest (offerNotice m s)
      (r.1, r.2 + if s.noticeFault = none then 0 else 1)) ∧
  (∀ s : State, (s.tuner.settings.on = true ∧ s.tuner.settings.autoOff = true → tunerAutoOff s = switchTunerOff s) ∧
    (s.tuner.settings.on = false ∨ s.tuner.settings.autoOff = false → tunerAutoOff s = s)) ∧
  (bankNumber .a = 0 ∧ bankNumber .b = 1 ∧ [FadeMode.cut, .gap, .blend].map FadeMode.code = [0, 1, 2]) ∧
  ∀ (f : Fade) (n : Nat) (time : Long), (sceneLiveReport f n time).words =
    [bytePair 2 (if n = 0 then 0 else 16), word f.owner.origin.source, lowWord time, highWord time,
      bytePair f.owner.scene (bankNumber f.newBank), bytePair f.mode.code (natOfBool f.downgraded +
        2 * natOfBool f.trailDropped + 4 * natOfBool f.owner.trailCut + 8 * natOfBool f.owner.lean), word f.f, word f.g,
      bytePair n 0, 0, 0, 0, 0, 0, 0, 0]

/-- The fade (R70, R71): GAP_FADE_IN_START ends the new bank's wait; at FADE_OUT_END the old bank is TRAILING for its
tail hold, its blocks without the trail flag freed, when its trails are kept, and EMPTY with its blocks freed and its
data released otherwise (log 44 for the gain). The free of the blocks without the trail flag (R38): the blocks of the bank's
stages whose trail flag is clear are FREE and no longer queued for zeroing, and its CAB users are gone; every other block,
user and queue entry, the impulse sets and the samples stay. TRAIL_TIMER_EXPIRY and CUT_END (R73): the TRAILING bank whose
timer has run out is CUTTING from this boundary on; 16 boundaries later its blocks are freed and its data released, and it is
EMPTY, or LOADING with the requested scene when a load in FETCHING waits for it. What an arriving boundary does first is
FrameBoundaryCountsOnce's (log 2). -/
def Obligations.FadeOutEndsAndTrailIsCut : Prop :=
  (∀ (s : State) (f : Fade), s.resetHeld = false →
     let b := openBoundary s
     b.scene.fade = some f →
     (f.heldBack = true → f.swapAt + f.f + f.g ≤ b.frames → exec .gapFadeInStart s = .next (publish s
       { b with scene := { b.scene with fade := some { f with heldBack := false } } })) ∧
     ∀ k, f.oldBank = some k → (b.bankCtl k).state = .outgoing → f.swapAt + f.f ≤ b.frames →
       (f.trailsKept = true → exec .fadeOutEnd s = .next (publish s (finish
         { b with lines := b.lines.freeUntrailed k (b.lane.banks.get k).trailOf,
                  scene := { b.scene with banks := (b.scene.banks.set k
                    { b.bankCtl k with state := .trailing, trailEnd := b.frames + (b.bankCtl k).tailHold }) },
                  lane := { b.lane with banks := b.lane.banks.set k { b.lane.banks.get k with gain := 1000 } } }))) ∧
       (f.trailsKept = false → exec .fadeOutEnd s = .next (publish s (finish
         { b with lines := b.lines.freeBank k, scene := { b.scene with banks := b.scene.banks.set k BankControl.reset },
                  lane := { b.lane with bankRequests := b.lane.bankRequests ++ [.release k] } })))) ∧
  (∀ (l : LineMemory) (k : BankId) (bank : Bank),
    let gone := fun (h : Holder) => ∃ ln q, h = .stage k ln q ∧ ∀ x, bank.stageAt ln q = some x → x.trail = false
    let t := l.freeUntrailed k bank.trailOf
    (∀ (n : Nat) (h : Holder), l.map[n]? = some h → (gone h → t.map[n]? = some Holder.free) ∧ (¬ gone h → t.map[n]? = some h)) ∧
    t.map.length = l.map.length ∧ t.users = l.users.filter (fun u => u.bank != k) ∧
    t.zeroQueue.Sublist l.zeroQueue ∧ (∀ x ∈ l.zeroQueue, x ∈ t.zeroQueue ↔ ¬ gone (l.map.getD x.1 .free)) ∧
    t.impulses = l.impulses ∧ t.samples = l.samples ∧ t.answers = l.answers) ∧
  ∀ (s : State) (k : BankId), s.resetHeld = false →
    let b := openBoundary s
    ((b.bankCtl k).state = .trailing → (b.bankCtl k).trailEnd ≤ b.frames →
      exec (.trailTimerExpiry k) s = .next (publish s { b with scene := { b.scene with
        banks := b.scene.banks.set k { b.bankCtl k with state := .cutting, cutFrom := b.frames } } })) ∧
    ((b.bankCtl k).state = .cutting → (b.bankCtl k).cutFrom + 16 ≤ b.frames →
      let freed := fun c => { b with
        lines := b.lines.freeBank k, scene := { b.scene with banks := b.scene.banks.set k c },
        lane := { b.lane with bankRequests := b.lane.bankRequests ++ [.release k] } }
      (b.scene.latch = none ∨ k ≠ b.loadBank ∨ (b.scene.state ≠ .fetching ∧ b.scene.state ≠ .allocating) →
        exec (.cutEnd k) s = .next (publish s (finish (freed BankControl.reset)))) ∧
      ∀ r, b.scene.latch = some r → k = b.loadBank →
        let waiting := freed { BankControl.reset with state := .loading, scene := some r.scene }
        (b.scene.state = .fetching → exec (.cutEnd k) s = .next (publish s (finish waiting))) ∧
        (b.scene.state = .allocating → exec (.cutEnd k) s = .next (publish s (finish (allocateLoad waiting)))))

/-- FADE_END (R72): a SLOT owner completes OK with flags, scene, bank and mode, and the next order handed to the scene unit
then waits in the latch (R62, R195); a SET_LIST owner sets the preload mark when the preload flag is 1. The unit is IDLE,
and a request in the latch is taken as in IDLE. An old bank still OUTGOING at that boundary leaves it first. The fade ends F
ms after the swap, or after both fades and the gap where there is an old bank and the mode is not BLEND (R70). What an
arriving boundary does first is FrameBoundaryCountsOnce's (log 2). -/
def Obligations.FadeEndCompletesOwner : Prop :=
  (∀ f : Fade, f.flags = { ResultFlags.none with
    fadeDowngraded := f.downgraded, trailDropped := f.trailDropped, trailCut := f.owner.trailCut, lean := f.owner.lean }) ∧
  (∀ f : Fade, f.endAt = if f.oldBank = none ∨ f.mode = .blend then f.swapAt + f.f else f.swapAt + 2 * f.f + f.g) ∧
  (∀ s : State, s.fadeOutDue = true ↔ ∃ f k, s.scene.fade = some f ∧ f.oldBank = some k ∧
    (s.bankCtl k).state = .outgoing ∧ f.swapAt + f.f ≤ s.frames) ∧
  ∀ (s : State) (f : Fade), s.resetHeld = false →
    let b := openBoundary s
    let v := if b.fadeOutDue then finish (fadeOutEnd b) else b
    b.scene.fade = some f → b.scene.state = .fading → f.endAt ≤ b.frames → v.scene.fade = some f →
    ∃ w, (∀ i, f.owner.origin = .slot i → w = chooseScene
        (complete i .ok f.flags [word f.owner.scene, bankWord f.newBank, word f.mode.code] v)) ∧
      (∀ i, f.owner.origin = .setList i → w = { v with scene := { v.scene with
        preloadMark := v.scene.preloadMark || v.scene.setList.preload } }) ∧
      ((∀ i, f.owner.origin ≠ .slot i) → (∀ i, f.owner.origin ≠ .setList i) → w = v) ∧
      let idle := { w with scene := { w.scene with state := .idle, fade := none } }
      (w.scene.latch = none → exec .fadeEnd s = .next (publish s (finish idle))) ∧
      (∀ r, w.scene.latch = some r → exec .fadeEnd s = .next (publish s (finish
        (takeRequest r { idle with scene := { idle.scene with latch := none } }))))

/-- LEAN_SILENCE (R75): at the end of the lean fade-out the LIVE bank is emptied (log 7 for what an EMPTY bank's defaults
hold) and its release sent to the lane engine, the local view and the resolved spans are gone, and the bound pairs are those
of the global table alone (R120). All else stands, the record buffer with the copy already fetched in it: so the request in
the latch is allocated with that copy, or fetched when it was replaced meanwhile; with an empty latch the unit is IDLE. What
an arriving boundary does first is FrameBoundaryCountsOnce's (log 2). -/
def Obligations.LeanSilenceEmptiesLiveBank : Prop :=
  ∀ (s : State) (l : LeanFade) (k : BankId), s.resetHeld = false →
    let b := openBoundary s
    b.scene.state = .leanEmptying → b.scene.lean = some l → l.first + l.f ≤ b.frames → b.liveBank = some k →
    ∃ pairs : List (Nat × Nat), pairs.Nodup ∧
      (∀ q, q ∈ pairs ↔ ∃ e x y, some e ∈ b.bind.global ∧ e.trigger = .chord x y ∧ x ≠ y ∧ q = (min x y, max x y)) ∧
      let v : State := { b with
        lines := b.lines.freeBank k,
        scene := { b.scene with banks := b.scene.banks.set k BankControl.reset, lean := none },
        lane := { b.lane with bankRequests := b.lane.bankRequests ++ [.release k] },
        bind := { b.bind with view := none, localSpans := [], globalSpans := b.bind.global.map fun _ => none },
        scanner := { b.scanner with pairs := pairs } }
      (b.scene.latch = none → exec .leanSilence s = .next (publish s (finish
        { v with scene := { v.scene with state := .idle } }))) ∧
      ∀ r, b.scene.latch = some r →
        let w := { v with scene := { v.scene with
          leanLoad := r.kind == .go, latch := some { r with lean := r.kind == .go } } }
        (l.replaced = true → exec .leanSilence s = .next (publish s (finish (beginFetch r.scene w)))) ∧
        (l.replaced = false → exec .leanSilence s = .next (publish s (finish (enterAllocating w))))

/-! ### Tempo (R83, R84, R86, R87, R89, R90) -/

/-- A beat (R84): it carries its cause, the bar position and its frame time (kept as the model's record, log 48), the
position advances, the beat is counted for the MOD stages, the beat window opens for 100 ms, and an ARMED request that waits
for a beat, or for a bar at position 0, is marked. A boundary's addition (R83) is due when the boundary arrives and is made
once, by ACCUMULATOR_BEAT where it gives a beat, or at the end of the frame's work (log 2); at 600000 or more 600000 is
taken off and the beat is produced in that event. ACCUMULATOR_BEAT where no addition gives a beat, and LINK_WATCH_EXPIRY
where the link watch has not run out, leave the part as it is (log 1); a watch that has run out makes the link beat lost
(R90). -/
def Obligations.AccumulatorBeatAndWatch : Prop :=
  (∀ (cause : BeatCause) (s : State), ∃ mark, produceBeat cause s =
      { s with tempo := { s.tempo with bar := (s.tempo.bar + 1) % 4,
                                       lastBeat := some ⟨cause, s.tempo.bar, s.frameCounter⟩ },
               lane := { s.lane with beats := s.lane.beats + 1 },
               lamps := { s.lamps with window := 100, windowOpen := true },
               scene := { s.scene with quantMark := mark } } ∧
    (mark = true ↔ s.scene.quantMark = true ∨ ∃ r, s.scene.latch = some r ∧ s.scene.state = .armed ∧
      let q := if r.lean then Quantize.none else (r.override.getD (s.bankCtl s.loadBank).profile).quantize
      (q = .beat ∨ (q = .bar ∧ s.tempo.bar = 0)))) ∧
  (∀ s : State,
    let sum := s.tempo.phase + s.tempo.tempo
    (s.tempo.addDue = false → takeAddition s = s) ∧
    (s.tempo.addDue = true → sum < 600000 →
      takeAddition s = { s with tempo := { s.tempo with phase := sum, addDue := false } }) ∧
    (s.tempo.addDue = true → 600000 ≤ sum → takeAddition s = produceBeat .accumulator
      { s with tempo := { s.tempo with phase := sum - 600000, addDue := false } })) ∧
  (∀ s : State, s.resetHeld = false →
    let b := openBoundary s
    let gives := b.tempo.addDue = true ∧ 600000 ≤ b.tempo.phase + b.tempo.tempo
    (s.opened = false → b.tempo.addDue = true) ∧
    (gives → exec .accumulatorBeat s = .next (publish s (takeAddition b))) ∧
    (¬ gives → exec .accumulatorBeat s = .next (publish s s))) ∧
  ∀ s : State, s.resetHeld = false →
    (s.tempo.watch = some 0 → exec .linkWatchExpiry s = .next (publish s
      { s with tempo := { s.tempo with watch := none, linkLost := true } })) ∧
    (s.tempo.watch ≠ some 0 → exec .linkWatchExpiry s = .next (publish s s))

/-- Taps and link beats (R86, R87, R89): a repeat at the same frame time changes nothing; another tap sets the phase
to 0 and advances the bar, within 2000 ms it joins the history of three and sets the tempo to the mean, held to
40.0-300.0 BPM, and after longer it starts a new series. A link beat in LINK does so by its one interval of 200 to
1500 ms, and restarts the watch. Each makes a beat of its cause. A TAP action acts so while the source is INTERNAL, and is
refused with WRONG_MODE while it is LINK (R88). A tempo that changed is noted for the lane engine (R85) and, once the beat is
made, reported by TEMPO_CHANGED with old and new tempo, cause, the count of intervals and their sum (R92). -/
def Obligations.TapsAndLinkBeatsSetTempo : Prop :=
  (∀ a b : Nat, 0 < b → 2 * b * roundDiv a b ≤ 2 * a + b ∧ 2 * a + b < 2 * b * (roundDiv a b + 1)) ∧
  (∀ (s : State) (f : Firing), f.action = .tap →
    (s.tempo.source = .internal → fireAction f s = answerFiring f ⟨.done, false, false, 0, 0, 0, none⟩ (takeTap f.ref s)) ∧
    (s.tempo.source = .link → fireAction f s = answerFiring f ⟨.failed .wrongMode, false, false, 0, 0, 0, none⟩ s)) ∧
  (∀ (source old new cause count sum : Nat) (time : Long), (tempoReport source old new cause count sum time).words =
    [bytePair 8 0, word source, lowWord time, highWord time, word new, word old, bytePair cause count, word sum,
      0, 0, 0, 0, 0, 0, 0, 0]) ∧
  ∀ s : State,
    let noted := fun (w : Nat) (l : LaneEngine) =>
      if w = s.tempo.tempo then l else { l with notedTempo := w, tempoNoted := true }
    let told := fun (r : Report) (w : Nat) (u : State) => if w = s.tempo.tempo then u else appendReport r u
    (∀ ref, let t := takeTap ref s
      (s.tempo.lastTap = some s.frameCounter → t = s) ∧
      (s.tempo.lastTap ≠ some s.frameCounter →
        (let w := t.tempo.tempo
         let h := t.tempo.history
         t = told (tempoReport (sourceEntry ref) s.tempo.tempo w 0 h.length h.sum s.frameCounter) w (produceBeat .tap { s with
           lane := noted w s.lane,
           tempo := { s.tempo with tempo := w, history := h, lastTap := some s.frameCounter, phase := 0 } })) ∧
        t.tempo.lastTap = some s.frameCounter ∧ t.tempo.phase = 0 ∧ t.tempo.bar = (s.tempo.bar + 1) % 4 ∧
        t.tempo.lastBeat = some ⟨.tap, s.tempo.bar, s.frameCounter⟩ ∧
        (∀ last, s.tempo.lastTap = some last →
          let d := (s.frameCounter - last).toNat
          (d ≤ 2000 → t.tempo.history = (d :: s.tempo.history).take 3 ∧
            t.tempo.tempo = max 400 (min 3000 (roundDiv (600000 * t.tempo.history.length) t.tempo.history.sum))) ∧
          (2000 < d → t.tempo.history = [] ∧ t.tempo.tempo = s.tempo.tempo)) ∧
        (s.tempo.lastTap = none → t.tempo.history = [] ∧ t.tempo.tempo = s.tempo.tempo))) ∧
    let t := takeLinkBeat s
    (s.tempo.source = .internal → t = s) ∧
    (s.tempo.source = .link →
      (let w := t.tempo.tempo
       let d := (s.tempo.prevBeat.map fun p => (s.frameCounter - p).toNat).getD 0
       t = told (tempoReport 0 s.tempo.tempo w 1 1 d s.frameCounter) w (produceBeat .link { s with
         lane := noted w s.lane,
         tempo := { s.tempo with
           tempo := w, prevBeat := some s.frameCounter, phase := 0, watch := some 3000, linkLost := false } })) ∧
      t.tempo.prevBeat = some s.frameCounter ∧ t.tempo.phase = 0 ∧ t.tempo.watch = some 3000 ∧ t.tempo.linkLost = false ∧
      t.tempo.bar = (s.tempo.bar + 1) % 4 ∧ t.tempo.lastBeat = some ⟨.link, s.tempo.bar, s.frameCounter⟩ ∧
      (∀ p, s.tempo.prevBeat = some p →
        let d := (s.frameCounter - p).toNat
        t.tempo.tempo = if 200 ≤ d ∧ d ≤ 1500 then roundDiv 600000 d else s.tempo.tempo) ∧
      (s.tempo.prevBeat = none → t.tempo.tempo = s.tempo.tempo))

/-! ### The tuner (R103-R106, R108, R109) -/

/-- The cell's words (R213): status code and note, cents and group size, each byte signed or 0x80 for absent, the frequency,
0xFFFFFFFF for absent, and the tick sum low word first, the counter last. A settle (R107): the measure is emptied, the
next group will be discarded, the silence timer set to 200, and SETTLING written with nothing measured unless the cell shows
it. The tuner switches on (R97) by a settle, and off by emptying the measure and writing OFF; in MUTE mode the TUNER holder
joins or leaves the mute set in the same event (R98). The crossings (R100-R102): after three samples in a row below minus the
band the next one above the band crosses, at the tick where the straight line between the two samples meets the band; the
period counter wraps past 65535. A frame's samples of the source are taken in order, and the silence timer counts unless a
crossing sets it (log 18). GROUP_COMPLETE (R103-R105, R107): the group after a settle is discarded; any other is read. A
wrapped period is LOW_RANGE, a frequency above 2000.00 Hz HIGH_RANGE; otherwise the status is STABLE when the spread is at
most 1/64 of the mean period and WANDER when it is not, and the note and cents are those of the whole cents nearest to the
frequency (log 19). Each reading is written whole to the cell in memory, the counter last, and attention TUNER is set (R108).
SILENCE_TIMER_EXPIRY (R106): the measure is emptied, the timer stops, and SILENT is written with nothing measured. Neither
acts when it is not due (log 1). -/
def Obligations.TunerReadsOrFindsSilence : Prop :=
  let shown := fun (s : State) (t : Tuner) (c : TunerCell) => { s with
    writes := s.writes ++ wordsAt 0x100 c.words, tuner := { t with cell := c },
    disp := { s.disp with attention := { s.disp.attention with tuner := true } } }
  let written := fun (s : State) (t : Tuner) (c : TunerCell) => publish s (shown s t c)
  let empty := fun (t : Tuner) => { t with below := 0, counting := false, ticks := 0, wrapped := false, group := [] }
  let bare := fun (status : CellStatus) (t : Tuner) =>
    (⟨status, none, none, none, 0, t.settings.n, t.cell.counter + 1⟩ : TunerCell)
  ([CellStatus.off, .settling, .silent, .wander, .stable, .lowRange, .highRange].map CellStatus.code =
      [0, 1, 2, 3, 4, 5, 6] ∧
    ∀ c : TunerCell,
      let f := c.frequency.getD 0xFFFFFFFF
      let signed := fun (x : Option Int) => x.elim 0x80 fun v => (v % 256).toNat
      c.words = [bytePair c.status.code (signed c.note), bytePair (signed c.cents) c.n, word f, word (f / 65536),
        word c.tickSum, word (c.tickSum / 65536), c.counter]) ∧
  (∀ s : State,
    let t := s.tuner
    let settled := { empty t with discard := true, silence := some 200 }
    let on := settleTuner { s with tuner := { t with settings := { t.settings with on := true } } }
    let off := shown s { empty t with settings := { t.settings with on := false }, discard := false, silence := none }
      (bare .off t)
    (t.cell.status = .settling → settleTuner s = { s with tuner := settled }) ∧
    (t.cell.status ≠ .settling → settleTuner s = shown s settled (bare .settling t)) ∧
    (t.settings.thru = true → switchTunerOn s = on ∧ switchTunerOff s = off) ∧
    (t.settings.thru = false → switchTunerOn s = muteTuner true on ∧ switchTunerOff s = muteTuner false off) ∧
    ∀ b, muteTuner b s = changeMute (fun m => { m with tuner := b }) s) ∧
  (∀ (s : State) (t : Tuner) (c : TunerCell), c.words.length = 7 ∧ c.words.getD 6 0 = c.counter ∧
    (written s t c).attn.getLsbD 1 = true ∧
    (s.mem.wf = true → ∀ k < 7, (written s t c).mem.readWord (0x100 + 2 * k) = c.words.getD k 0)) ∧
  (∀ (t : Tuner) (c : Int),
    let h : Int := 8192 * 2 ^ t.settings.level
    let per : Nat := if t.settings.wide then 16 else 64
    let add := fun (d : Nat) => { t with
      ticks := t.ticks + BitVec.ofNat 16 d, wrapped := t.wrapped || decide (65535 < t.ticks.toNat + d) }
    let f := ((h - t.prev) * per / (c - t.prev)).toNat
    (h < c → t.below = 3 → t.sample c = { t with
      below := 0, prev := c, counting := true, ticks := BitVec.ofNat 16 (per - f), wrapped := false, silence := some 200,
      group := if t.counting then t.group ++ [⟨(add f).ticks.toNat, (add f).wrapped⟩] else t.group }) ∧
    (c ≤ h ∨ t.below ≠ 3 → t.sample c = { (if t.counting then add per else t) with
      below := if t.below = 3 then 3 else if c < -h then t.below + 1 else 0, prev := c })) ∧
  (∀ (s : State) (input : List (Sample × Sample)),
    let xs := input.map fun x => if s.tuner.settings.sourceB then x.2.toInt else x.1.toInt
    let u := xs.foldl Tuner.sample { s.tuner with silence := none }
    (s.tuner.settings.on = false → tunerFrame input s = s) ∧
    (s.tuner.settings.on = true → tunerFrame input s = { s with tuner := { u with silence := match u.silence with
      | some v => some v
      | none => s.tuner.silence.map (· - 1) } })) ∧
  (∀ f r : Nat, 0 < f → 0 < r → (2 : ℚ) ^ (2 * centsFrom f r - 1) ≤ ((f : ℚ) / (10 * r)) ^ 2400 ∧
    ((f : ℚ) / (10 * r)) ^ 2400 < (2 : ℚ) ^ (2 * centsFrom f r + 1)) ∧
  (∀ s : State, s.resetHeld = false →
    let n := s.tuner.settings.n
    let ticks := (s.tuner.group.take n).map Period.ticks
    let sum := ticks.sum
    let frequency := roundDiv ((if s.tuner.settings.wide then 768000 else 3072000) * n * 100) sum
    let spread := ticks.foldl max 0 - ticks.foldl min (ticks.headD 0)
    let dc := centsFrom frequency s.tuner.settings.reference
    let counter := s.tuner.cell.counter + 1
    let rest := { s.tuner with group := s.tuner.group.drop n }
    let due := s.tuner.settings.on = true ∧ 0 < n ∧ n ≤ s.tuner.group.length
    (due → s.tuner.discard = true →
      exec .groupComplete s = .next (publish s { s with tuner := { rest with discard := false } })) ∧
    (due → s.tuner.discard = false → exec .groupComplete s = .next (written s rest
      (if (s.tuner.group.take n).any Period.wrapped then ⟨.lowRange, none, none, none, 0, n, counter⟩
      else if 200000 < frequency then ⟨.highRange, none, none, some frequency, sum, n, counter⟩
      else ⟨if spread * 64 * n ≤ sum then .stable else .wander, some (57 + (dc + 50) / 100),
        some (dc - 100 * ((dc + 50) / 100)), some frequency, sum, n, counter⟩))) ∧
    (¬ due → exec .groupComplete s = .next (publish s s))) ∧
  ∀ s : State, s.resetHeld = false →
    (s.tuner.silence = some 0 → exec .silenceTimerExpiry s = .next (written s
      { empty s.tuner with silence := none } (bare .silent s.tuner))) ∧
    (s.tuner.silence ≠ some 0 → exec .silenceTimerExpiry s = .next (publish s s))

/-- R109 whole: the indication is worked out from the cell as it stands and the in-tune window, in whatever event
changes either, and the lamp driver's three tuner sources use it. -/
def Obligations.IndicationFollowsCell : Prop :=
  (∀ t : Tuner,
    (t.cell.status ≠ .stable → t.indication = .none) ∧
    ∀ c, t.cell.status = .stable → t.cell.cents = some c →
      (c < -(t.settings.window : Int) → t.indication = .flat) ∧
      (-(t.settings.window : Int) ≤ c → c ≤ t.settings.window → t.indication = .inTune) ∧
      ((t.settings.window : Int) < c → t.indication = .sharp)) ∧
    ∀ s : State, s.lampCondition .tunerFlat = (s.tuner.indication == .flat) ∧
      s.lampCondition .tunerIn = (s.tuner.indication == .inTune) ∧
      s.lampCondition .tunerSharp = (s.tuner.indication == .sharp)

/-! ### Footswitches and pedals (R113-R127) -/

/-- DEBOUNCED_CHANGE (R113, R116-R118): the debounced level changes and the run count starts anew; an UP line goes
DOWN with its hold timer set and gives PRESS, a DOWN or HELD line goes UP with its timers stopped and gives RELEASE, a
BLOCKED line goes UP with no event, a WATCHING line gives PRESS at either change. When no change is due nothing
happens (log 1). The line timers (R114, R116, R117), with no debounced change due at the same boundary: the settle's
end makes a LATCHING line WATCHING, another BLOCKED when ACTIVE and UP when not; a hold's end makes a DOWN line HELD
and gives HOLD, starting the repeat timer of a REPEATING line; a repeat's end restarts that timer and gives REPEAT. A frame
(R113, R114, R121): a line that is not OFF counts the boundaries in a row whose sample differs from its debounced level, to
31, and its timers and the chord window count down; an OFF line stays as it is, and nothing else changes. -/
def Obligations.LineStatesChange : Prop :=
  (∀ (s : State) (pins : BitVec 8),
    let t := scannerFrame pins s
    t = { s with scanner := { s.scanner with
      lines := t.scanner.lines, pins := pins, waiting := s.scanner.waiting.map fun w => { w with left := w.left - 1 } } } ∧
    t.scanner.lines.length = s.scanner.lines.length ∧
    ∀ (n : Nat) (x : Line), s.scanner.lines[n]? = some x →
      (x.state = .off → t.scanner.lines[n]? = some x) ∧
      (x.state ≠ .off → t.scanner.lines[n]? = some { x with
        run := if (pins.getLsbD n == x.config.activeHigh) = x.level then 0 else min 31 (x.run + 1),
        settle := x.settle.map (· - 1), hold := x.hold.map (· - 1), rept := x.rept.map (· - 1) })) ∧
  (∀ (s : State) (n : Fin 8), s.resetHeld = false →
    let x := s.line n
    let y := { x with level := !x.level, run := 0 }
    let answers := fun u => exec (.debouncedChange n) s = .next (publish s (finish u))
    (x.state ≠ .off → 0 < x.config.debounce → x.config.debounce ≤ x.run →
      (x.state = .up → x.level = false → answers (pressLine n (setLine n
        { y with state := .down, hold := if x.config.holdTime = 0 then none else some x.config.holdTime } s))) ∧
      (x.state = .down → x.level = true → answers (releaseLine n (setLine n { y with state := .up, hold := none } s))) ∧
      (x.state = .held → x.level = true → answers (releaseLine n (setLine n { y with state := .up, rept := none } s))) ∧
      (x.state = .blocked → x.level = true → answers (setLine n { y with state := .up } s)) ∧
      (x.state = .watching → answers (pressLine n (setLine n y s))) ∧
      (x.state = .standby ∨ x.state = .settling → answers (setLine n y s))) ∧
    (x.state = .off ∨ x.config.debounce = 0 ∨ x.run < x.config.debounce →
      exec (.debouncedChange n) s = .next (publish s s))) ∧
  (∀ (s : State) (n : Fin 8), s.resetHeld = false →
    let x := s.line n
    (x.state = .off ∨ x.config.debounce = 0 ∨ x.run < x.config.debounce) →
    (x.state = .settling → x.settle = some 0 → exec (.switchSettleEnd n) s = .next (publish s (setLine n
      { x with settle := none, state := if x.config.mode = .latching then .watching
        else if x.level then .blocked else .up } s))) ∧
    (x.state = .down → x.hold = some 0 → exec (.holdTimerExpiry n) s = .next (publish s (finish
      (timerEvent (.hold n) n (setLine n { x with
        state := .held, hold := none,
        rept := if x.config.mode = .repeating then some x.config.repeatInterval else none } s))))) ∧
    (x.state = .held → x.rept = some 0 → exec (.repeatTimerExpiry n) s = .next (publish s (finish
      (timerEvent (.rept n) n (setLine n { x with rept := some x.config.repeatInterval } s))))))

/-- Presses, chords and the chord window (R121, R122): the first case that fits decides a press, which R121 puts before the
order of R119 (log 53); a line in a formed chord gives nothing, and is marked released by its release; the release of any
other line delivers its waiting press first; CHORD_WINDOW_EXPIRY delivers the waiting press late with its own frame time,
once no line's debounced change is due (log 76), and does nothing while the window runs (log 1). -/
def Obligations.ChordsGatherPresses : Prop :=
  (∀ x : Line, x.debounceDue = true ↔ x.state ≠ .off ∧ 0 < x.config.debounce ∧ x.config.debounce ≤ x.run) ∧
  (∀ (s : State) (m n : Nat),
    let q := s.scanner
    (s.inChord n = true ↔ ∃ c, q.chord = some c ∧ (c.a = n ∨ c.b = n)) ∧
    (q.isMember n = true ↔ ∃ p ∈ q.pairs, p.1 = n ∨ p.2 = n) ∧ (q.isPair m n = true ↔ (min m n, max m n) ∈ q.pairs) ∧
    startWaiting n s = { s with scanner := { q with waiting := some ⟨n, s.frameCounter, q.window⟩ } }) ∧
  (∀ (s : State) (n : Nat),
    let q := s.scanner
    let deliver := fun m time u => bindingEvent (.press m) time (u.line m).config.report u
    (s.inChord n = true → pressLine n s = s ∧ (∀ e, timerEvent e n s = s)) ∧
    (s.inChord n = false → q.chord ≠ none ∨ q.isMember n = false → pressLine n s = deliver n s.frameCounter s) ∧
    (q.chord = none → q.isMember n = true →
      (q.waiting = none → pressLine n s = { s with scanner := { q with waiting := some ⟨n, s.frameCounter, q.window⟩ } }) ∧
      ∀ w, q.waiting = some w →
        (w.line ≠ n → q.isPair w.line n = true →
          let latching := fun m => (s.line m).config.mode == .latching
          let c : Chord := ⟨w.line, n, latching w.line, latching n⟩
          pressLine n s = bindingEvent (.chord w.line n) s.frameCounter
            ((s.line w.line).config.report || (s.line n).config.report)
            { s with scanner := { q with waiting := none,
                                         chord := if latching w.line && latching n then none else some c } }) ∧
        (w.line = n ∨ q.isPair w.line n = false →
          pressLine n s = startWaiting n (deliver w.line w.time { s with scanner := { q with waiting := none } })))) ∧
  (∀ (s : State) (n : Nat) (c : Chord), s.scanner.chord = some c → c.a = n ∨ c.b = n →
    let a := c.releasedA || c.a == n
    let b := c.releasedB || c.b == n
    releaseLine n s = { s with scanner := { s.scanner with
      chord := if a && b then none else some { c with releasedA := a, releasedB := b } } }) ∧
  (∀ (s : State) (n : Nat), s.inChord n = false →
    let released := fun (u : State) => bindingEvent (.release n) u.frameCounter (u.line n).config.report u
    (∀ w, s.scanner.waiting = some w → w.line = n → releaseLine n s = released
      (bindingEvent (.press n) w.time (s.line n).config.report { s with scanner := { s.scanner with waiting := none } })) ∧
    ((∀ w, s.scanner.waiting = some w → w.line ≠ n) → releaseLine n s = released s) ∧
    ∀ e, timerEvent e n s = bindingEvent e s.frameCounter (s.line n).config.report s) ∧
  ∀ (s : State) (w : Waiting), s.resetHeld = false → s.scanner.waiting = some w →
    (w.left = 0 → (∀ x ∈ s.scanner.lines, x.debounceDue = false) → exec .chordWindowExpiry s = .next (publish s (finish
      (bindingEvent (.press w.line) w.time (s.line w.line).config.report
        { s with scanner := { s.scanner with waiting := none } })))) ∧
    (0 < w.left ∨ (∃ x ∈ s.scanner.lines, x.debounceDue = true) → exec .chordWindowExpiry s = .next (publish s s))

/-- The pedals (R124-R127): a position reading's value is (raw - heel) * 1000 / (toe - heel), its fraction dropped and held
to 0 to 1000: 0 at heel and 1000 at toe. A reading counts high or position readings; it counts down a SETTLING pedal's
discards; a READY pedal's first reading only sets value and last event, and a later one gives an event in RUN when it
lies the deadband away from the last event's value, or newly at 0 or 1000. A boundary reads pedal 0 or 1 by the frame
counter's parity. The end of the discards makes a SETTLING pedal READY with its first reading unused; 25 high readings
make a SETTLING or READY pedal DISCONNECTED; 25 position readings make a DISCONNECTED pedal settle again with 4 readings
to discard; the three events do nothing to a DISABLED pedal (log 1). -/
def Obligations.PedalsSettleAndDisconnect : Prop :=
  (∀ (c : PedalConfig) (raw : Nat), c.heel ≠ c.toe →
    c.value c.heel = 0 ∧ c.value c.toe = 1000 ∧ c.value raw ≤ 1000 ∧ (c.value raw : Int) =
      max 0 (min 1000 (Int.tdiv (((raw : Int) - c.heel) * 1000) ((c.toe : Int) - c.heel)))) ∧
  (∀ (x : Pedal) (raw : Nat) (run : Bool),
    (1020 < raw → x.reading raw run = ({ x with raw := raw, high := min 25 (x.high + 1), low := 0 }, none)) ∧
    (raw ≤ 1020 →
      let y := { x with raw := raw, high := 0, low := min 25 (x.low + 1) }
      let v := x.config.value raw
      let gives := run = true ∧ (x.config.deadband ≤ ((v : Int) - x.lastEvent).natAbs ∨
        ((v = 0 ∨ v = 1000) ∧ v ≠ x.lastEvent))
      (x.state = .settling → x.reading raw run = ({ y with discard := x.discard - 1 }, none)) ∧
      (x.state = .disabled ∨ x.state = .disconnected → x.reading raw run = (y, none)) ∧
      (x.state = .ready → x.used = false →
        x.reading raw run = ({ y with value := v, lastEvent := v, used := true }, none)) ∧
      (x.state = .ready → x.used = true →
        (gives → x.reading raw run = ({ y with value := v, lastEvent := v }, some v)) ∧
        (¬ gives → x.reading raw run = ({ y with value := v }, none))))) ∧
  (∀ (s : State) (raw : BitVec 10),
    let p := s.frames % 2
    let x := s.pedal p
    let r := x.reading raw.toNat (s.disp.mode == .run)
    let u := { s with pedals := putAt 2 p r.1 Pedal.reset s.pedals, writes := s.writes ++ [(0x11E + 6 * p, word raw.toNat)] }
    (x.config.enable = false → pedalFrame raw s = s) ∧
    (x.config.enable = true → r.2 = none → pedalFrame raw s = u) ∧
    ∀ v, x.config.enable = true → r.2 = some v → pedalFrame raw s =
      bindingEvent (.pedal p v) s.frameCounter x.config.report u) ∧
  ∀ (s : State) (p : Fin 2), s.resetHeld = false →
    let x := s.pedal p
    (x.state = .settling → x.discard = 0 → exec (.pedalSettleEnd p) s =
      .next (publish s (setPedal p { x with state := .ready, used := false } s))) ∧
    (x.state = .settling ∨ x.state = .ready → 25 ≤ x.high → exec (.pedalDisconnect p) s =
      .next (publish s (setPedal p { x with state := .disconnected } s))) ∧
    (x.state = .disconnected → 25 ≤ x.low → exec (.pedalReconnect p) s =
      .next (publish s (setPedal p { x with state := .settling, discard := 4 } s))) ∧
    (x.state = .disabled → exec (.pedalSettleEnd p) s = .next (publish s s) ∧
      exec (.pedalDisconnect p) s = .next (publish s s) ∧ exec (.pedalReconnect p) s = .next (publish s s))

/-! ### Bindings (R135, R142, R144) -/

/-- The words that show an event in its reports (R211), where a field that the event does not have, a message of length 0's
first payload byte among them, shows 0 by the model's choice (log 69). The matching of a trigger and an event (R134): the
same line or pedal, a chord in either order, and for a message the masked topic, with the first payload byte where the entry
names one. An event (R135, R142): the first match of the local view fires, else the first of the global table, and the fire
counter rises; an unmatched switch or pedal event is reported when its flag is set, and otherwise dropped. -/
def Obligations.EventFiresFirstMatch : Prop :=
  (∀ (n x y p v k sender : Nat) (m : Message) (time : Long),
    let shows := fun (e : ControlEvent) (words : List Word) (source : Nat) => e.words = words ∧
      (switchEventReport e time).words =
        [bytePair 7 0, word source, lowWord time, highWord time] ++ words.take 3 ++ List.replicate 9 0
    shows (.press n) [bytePair 1 n, 0, 0, 0] (0x7000 + n) ∧ shows (.release n) [bytePair 2 n, 0, 0, 0] (0x7000 + n) ∧
    shows (.hold n) [bytePair 3 n, 0, 0, 0] (0x7000 + n) ∧ shows (.rept n) [bytePair 4 n, 0, 0, 0] (0x7000 + n) ∧
    shows (.chord x y) [bytePair 5 x, bytePair y 0, 0, 0] (0x7000 + x) ∧
    shows (.pedal p v) [bytePair 6 p, 0, word v, 0] (0x8000 + p) ∧
    (ControlEvent.link k sender m).words =
      [bytePair 7 sender, bytePair 0 m.length, word m.topic, bytePair (m.payload.headD 0).toNat 0]) ∧
  (∀ (t : Trigger) (e : ControlEvent), t.hits e = true ↔
    (∃ n, (t = .press n ∧ e = .press n) ∨ (t = .release n ∧ e = .release n) ∨ (t = .hold n ∧ e = .hold n) ∨
      (t = .rept n ∧ e = .rept n)) ∨
    (∃ x y, t = .chord x y ∧ (e = .chord x y ∨ e = .chord y x)) ∨ (∃ p v, t = .pedal p ∧ e = .pedal p v) ∨
    ∃ code mask first n sender m, t = .link code mask first ∧ e = .link n sender m ∧ m.topic &&& mask = code &&& mask ∧
      ∀ x, first = some x → 1 ≤ m.length ∧ m.payload.head? = some x) ∧
  ∀ (s : State) (e : ControlEvent) (time : Long) (report : Bool),
    let fired := fun (r : EntryRef) (x : Entry) => s.lookup e = some (r, x) ∧ bindingEvent e time report s =
      fireAction ⟨r, x.report, e, time, false, x.action⟩ { s with bind := { s.bind with fires := s.bind.fires + 1 } }
    let hits := fun (l : List (Option Entry)) (n : Nat) (x : Entry) =>
      l[n]? = some (some x) ∧ x.trigger.hits e = true ∧ ∀ m < n, ∀ y, l[m]? = some (some y) → y.trigger.hits e = false
    let silent := fun (l : List (Option Entry)) => ∀ y, some y ∈ l → y.trigger.hits e = false
    (∀ n x, hits s.localEntries n x → fired ⟨.localTable, n⟩ x) ∧
    (silent s.localEntries → ∀ n x, hits s.bind.global n x → fired ⟨.globalTable, n⟩ x) ∧
    (silent s.localEntries → silent s.bind.global → s.lookup e = none ∧ bindingEvent e time report s =
      if report then appendReport (switchEventReport e time) s else s)

/-- The codes of actions and answers in the BINDING_FIRED report are those of R211 and R215, the result code that of a
FAILED answer and 0 beside DONE and TAKEN, by the model's choice (log 69). The actions of a firing entry and their answers
(R137-R142): a scene go or cursor move is TAKEN, or done at once, or refused, and the scene order that it supersedes is
followed by the scene unit's next order before the answer (R195; log 31); a stage action joins the request list or meets
LIST_FULL; a pedal's target lies on the line between the span's bounds, to the nearest whole number, and an UNRESOLVED span
fails; tuner, mutes and notice answer at once. At the boundary a pedal's value is held within the range of the stage's
parameter and set as STAGE_SET sets it, and fails where STAGE_SET would (R24). Where an action fails with no target or flag
worked out the answer holds 0 (log 49), what the action has no field for is 0 (log 69), and a refused move shows no scene
(log 30). An answer is reported when the entry asks for it, when it FAILED, and always for REPORT_ONLY. Spans (R139) are
resolved against the LIVE bank. Follow (R143): at the scene-live notice the view is the new bank's, every span is resolved,
and pedals 0 and 1, when READY, fire the entry they would find if it is a following PARAM_FROM_PEDAL; at the none-live
notice the view and every span go (R75). -/
def Obligations.ActionsAreSentAndAnswered : Prop :=
  (∀ s : State,
    (∀ n, moveCursor n s = takeRequest (newRequest .go (s.scene.setList.entries.getD n 0) none (.setList n))
      { s with scene := { s.scene with cursor := n } }) ∧
    (∀ (l : SetList) (cursor : Nat) (absolute : Bool) (v : Int),
      let aim : Int := if absolute = true then v else cursor + v
      l.move cursor absolute v = if l.count = 0 then .error .emptyEntry else if 0 ≤ aim ∧ aim < l.count then .ok aim.toNat
        else if absolute = false ∧ l.wrap = true then .ok (aim % l.count).toNat else .error .badArgument) ∧
    (∀ r : Request, s.goAtOnce r = true ↔ r.kind = .go ∧ r.reswap = false ∧ s.activeScene = some r.scene ∧
      s.scene.state ≠ .fading ∧ s.scene.state ≠ .leanEmptying ∧
      (s.scene.state = .idle ∨ ∀ old, s.scene.latch = some old → old.scene ≠ r.scene)) ∧
    (∀ n, s.spanOf ⟨.localTable, n⟩ = s.bind.localSpans.getD n none ∧
      s.spanOf ⟨.globalTable, n⟩ = s.bind.globalSpans.getD n none) ∧
    s.localEntries = (match s.bind.view with
      | none => []
      | some k => (s.lane.banks.get k).bindings) ∧
    (∀ (x : Stage) (index : Nat), x.settable index = (x.kind.param (x.target 0) index).filter fun c => c.cls != .loadTime) ∧
    (∀ r : LaneRequest, r.isBinding = false ↔
      (∃ i lane p index v, r = .setOrder i lane p index v) ∨ ∃ i lane p v, r = .bypassOrder i lane p v) ∧
    ∀ lane p : Nat,
      let good := (lane = 1 ∨ lane = 2) ∧ p ≤ 11
      (¬ good → s.findStage lane p = .error .badArgument) ∧ (good → s.liveBank = none → s.findStage lane p = .error .notReady) ∧
      ∀ bank ln, good → laneNumber ln = lane → s.liveBank = some bank →
        s.findStage lane p = match s.stageAt bank ln p with
          | none => .error .badArgument
          | some x => .ok (bank, ln, x)) ∧
  (∀ (f : Firing) (s : State),
    let answer := fun (kind : AnswerKind) (first position : Nat) (value : Int) (u : State) =>
      answerFiring f ⟨kind, false, false, first, position, value, none⟩ u
    let listed := fun (r : LaneRequest) (lane p : Nat) (v : Int) =>
      if 31 ≤ (s.lane.requests.filter LaneRequest.isBinding).length then
        answerFiring f ⟨.failed .notReady, false, true, lane, p, v, none⟩ s
      else { s with lane := { s.lane with requests := s.lane.requests ++ [r] } }
    let moved := fun (absolute : Bool) (v : Int) => match s.scene.setList.move s.scene.cursor absolute v with
      | .error c => answer (.failed c) 0xFF 0 0 s
      | .ok n => answer .taken (s.scene.setList.entries.getD n 0) 0 0 (chooseScene (moveCursor n s))
    let muted := fun (change : MuteSet → MuteSet) =>
      let u := changeMute change s
      answer .done u.lane.mute.code 0 0 u
    (∀ n p, f.action = .sceneGo n p →
      let r := newRequest .go n p (.binding f.ref)
      let bad := 63 < n ∨ ∃ q, p = some q ∧ (q.f < 1 ∨ 250 < q.f ∨ 250 < q.g)
      (bad → fireAction f s = answer (.failed .badArgument) n 0 0 s) ∧
      (¬ bad → fireAction f s = answer (if s.goAtOnce r then .done else .taken) n 0 0 (chooseScene (takeRequest r s)))) ∧
    (∀ v, f.action = .setlistStep v → fireAction f s = moved false v) ∧
    (∀ n, f.action = .setlistJump n → fireAction f s = moved true n) ∧
    (∀ lane p, (f.action = .stageToggle lane p → fireAction f s = listed (.toggle f lane p) lane p 0) ∧
      (f.action = .stageOn lane p → fireAction f s = listed (.engage f lane p) lane p 0) ∧
      (f.action = .stageOff lane p → fireAction f s = listed (.bypass f lane p) lane p 0)) ∧
    (∀ lane p index lo hi, f.action = .paramFromPedal lane p index lo hi →
      (s.spanOf f.ref = none → fireAction f s =
        answer (.failed (if s.liveBank = none then .notReady else .badArgument)) lane p 0 s) ∧
      ∀ x y v, s.spanOf f.ref = some (x, y) → f.event = .pedal 0 v ∨ f.event = .pedal 1 v →
        let aim := x + ((y - x) * v * 2 + 1000) / 2000
        fireAction f s = listed (.param f lane p index aim) lane p aim) ∧
    (f.action = .tunerToggle → ∃ u, u = (if s.tuner.settings.on then switchTunerOff s else switchTunerOn s) ∧
      fireAction f s = answerFiring f ⟨.done, false, false, 0, 0, 0, some u.tuner.settings.on⟩ u ∧
      u.tuner.settings.on = !s.tuner.settings.on) ∧
    (f.action = .muteToggle → fireAction f s = muted fun m => { m with switch := !m.switch }) ∧
    (f.action = .linkMuteOn → fireAction f s = muted fun m => { m with link := true }) ∧
    (f.action = .linkMuteOff → fireAction f s = muted fun m => { m with link := false }) ∧
    (∀ m, f.action = .notice m →
      (s.noticeFault = none → fireAction f s = answer .done 0 0 0 (offerNotice m s)) ∧
      ∀ c, s.noticeFault = some c → fireAction f s = answerFiring f ⟨.failed c, true, false, 0, 0, 0, none⟩ s) ∧
    (f.action = .reportOnly → fireAction f s = answer .done 0 0 0 s) ∧
    (∀ lane p, (∀ r change, (r = .toggle f lane p ∧ change = Bool.not) ∨ (r = .engage f lane p ∧ change = fun _ => false) ∨
        (r = .bypass f lane p ∧ change = fun _ => true) →
      (∀ c, s.findStage lane p = .error c → applyRequest s r = answer (.failed c) lane p 0 s) ∧
      ∀ bank ln x, s.findStage lane p = .ok (bank, ln, x) → applyRequest s r = answer .done lane p
        (if change x.bypass then 1 else 0) (putStage bank ln p { x with bypass := change x.bypass } s)) ∧
      ∀ index v, (∀ c, s.findStage lane p = .error c →
          applyRequest s (.param f lane p index v) = answer (.failed c) lane p v s) ∧
        ∀ bank ln x, s.findStage lane p = .ok (bank, ln, x) →
          (x.settable index = none → applyRequest s (.param f lane p index v) = answer (.failed .badArgument) lane p v s) ∧
          ∀ c, x.settable index = some c →
            let w := max c.min (min c.max v)
            applyRequest s (.param f lane p index v) = answer .done lane p w (putStage bank ln p
              ((x.setTarget s.lane.notedTempo index c.cls w).followIn (s.lane.banks.get bank).runMode) s))) ∧
  (∀ (f : Firing) (x : Answer) (s : State),
    let r := firedReport f x
    let told := f.report = true ∨ (∃ c, x.kind = .failed c) ∨ f.action = .reportOnly
    (told → answerFiring f x s = appendReport r s) ∧ (¬ told → answerFiring f x s = s) ∧
    ((AnswerKind.done.code, AnswerKind.done.resultCode) = (0, 0) ∧ (AnswerKind.taken.code, AnswerKind.taken.resultCode) = (1, 0) ∧
      ∀ c, ((AnswerKind.failed c).code, (AnswerKind.failed c).resultCode) = (2, c.code)) ∧
    (∀ a b c n q v lo hi m, [Action.sceneGo n q, .setlistStep v, .setlistJump n, .stageToggle a b, .stageOn a b, .stageOff a b,
      .paramFromPedal a b c lo hi, .tunerToggle, .muteToggle, .linkMuteOn, .linkMuteOff, .tap, .notice m, .reportOnly].map
        Action.code = [1, 2, 3, 4, 5, 6, 7, 8, 9, 10, 11, 12, 13, 14]) ∧
    r.flags = natOfBool x.kind.isFailed + 2 * natOfBool f.follow + 4 * natOfBool x.noticeDropped +
      8 * natOfBool x.listFull ∧
    r.words = [bytePair 4 r.flags, word (sourceEntry f.ref), lowWord f.time, highWord f.time] ++ f.event.words ++
      [bytePair f.action.code x.kind.code, bytePair x.kind.resultCode 0, bytePair x.first x.position, wordOfInt x.value,
        0, 0, 0, 0]) ∧
  (∀ (s : State) (e : Entry) (lane p index : Nat) (lo hi : Int), e.action = .paramFromPedal lane p index lo hi →
    (∀ c, s.findStage lane p = .error c → s.resolveSpan (some e) = none) ∧
    ∀ bank ln x, s.findStage lane p = .ok (bank, ln, x) →
      (x.settable index = none → s.resolveSpan (some e) = none) ∧
      ∀ c, x.settable index = some c →
        s.resolveSpan (some e) = some (max c.min (min c.max lo), max c.min (min c.max hi))) ∧
  (∀ (k : BankId) (s : State),
    let u := { s with bind := { s.bind with view := some k } }
    let v := { u with bind := { u.bind with
      localSpans := (s.lane.banks.get k).bindings.map u.resolveSpan, globalSpans := s.bind.global.map u.resolveSpan } }
    bindSceneLive k s = followPedal 1 (followPedal 0 v) ∧
    bindNoneLive s = { s with bind := { s.bind with
      view := none, localSpans := [], globalSpans := s.bind.global.map fun _ => none } }) ∧
  ∀ (p : Nat) (s : State),
    let x := s.pedal p
    let event := ControlEvent.pedal p x.value
    let follows := fun (e : Entry) => e.follow = true ∧ ∃ a b c d g, e.action = .paramFromPedal a b c d g
    (x.state ≠ .ready ∨ s.lookup event = none → followPedal p s = s) ∧
    ∀ r e, x.state = .ready → s.lookup event = some (r, e) →
      (follows e → followPedal p s = fireAction ⟨r, e.report, event, s.frameCounter, true, e.action⟩
        { s with bind := { s.bind with fires := s.bind.fires + 1 } }) ∧
      (¬ follows e → followPedal p s = s)

/-- SETLIST_COPY_END (R77): a count above 32 or an entry above 63 within it completes BAD_ARGUMENT and keeps the old
copy; a good copy replaces it, sets the cursor to 0 and clears the preload mark, and completes OK with the count.
BINDING_COPY_END (R144): the first failing entry completes BAD_ARGUMENT with its index and the table stays; a good copy
replaces the table, its spans are resolved and the bound pairs derived anew, and it completes OK with the count. The bound
pairs (R120): one for each CHORD trigger of two different lines in the local view or the global table, each once. -/
def Obligations.CopiesReplaceOrRefuse : Prop :=
  (∀ (s : State) (i : Nat), s.resetHeld = false → s.disp.port.running = some (.setlistCopy i) →
     let l := s.mem.bytes 0x1500 68
     let count := byteAt l 0
     let entries := (List.range count).map fun n => wordAt l (4 + 2 * n)
     let b := endBurst s
     (32 < count ∨ (∃ e ∈ entries, 63 < e) →
       exec .setlistCopyEnd s = .next (publish s (finish (complete i .badArgument ResultFlags.none [] b)))) ∧
     (count ≤ 32 → (∀ e ∈ entries, e ≤ 63) →
       exec .setlistCopyEnd s = .next (publish s (finish (complete i .ok ResultFlags.none [word count]
         { b with scene := { b.scene with
           setList := ⟨count, (l.getD 1 0).getLsbD 0, (l.getD 1 0).getLsbD 1, entries⟩, cursor := 0, preloadMark := false } }))))) ∧
  (∀ (s : State) (i : Nat), s.resetHeld = false → s.disp.port.running = some (.bindingCopy i) →
     let l := s.mem.bytes 0x1200 768
     let bad := fun n => (firstFault (entryFaults l (16 * n))).isSome
     let table := (List.range 48).map fun n => entryAt l (16 * n)
     let b := endBurst s
     (∀ n, n < 48 → bad n = true → (∀ m < n, bad m = false) → exec .bindingCopyEnd s = .next (publish s (finish
       (complete i .badArgument ResultFlags.none [word n] b)))) ∧
     ((∀ n < 48, bad n = false) → ∃ u, exec .bindingCopyEnd s = .next (publish s (finish
         (complete i .ok ResultFlags.none [word (table.filter Option.isSome).length] u))) ∧
       u.bind = { s.bind with global := table, globalSpans := table.map s.resolveSpan } ∧
       u.scanner.pairs = u.pairsNow ∧
       u = { b with bind := u.bind, scanner := { s.scanner with pairs := u.scanner.pairs } })) ∧
  ∀ s : State, derivePairs s = { s with scanner := { s.scanner with pairs := s.pairsNow } } ∧ s.pairsNow.Nodup ∧
    (s.bind.view = none → s.localEntries = []) ∧ (∀ k, s.bind.view = some k → s.localEntries = (s.lane.banks.get k).bindings) ∧
    ∀ q, q ∈ s.pairsNow ↔ ∃ e x y, (some e ∈ s.localEntries ∨ some e ∈ s.bind.global) ∧ e.trigger = .chord x y ∧ x ≠ y ∧
      q = (min x y, max x y)

/-! ### The rack link (R149-R172) -/

/-- The bits on the line (R149): after six bits of equal value a stuff bit of the other value, which counts as the first of
a new run; the start bit begins the first run. A message read back from the line (R148-R150, R216): removing the stuff bits
of a message's stuffed part and reading its fields gives its sender and the message, for every topic, sender, length and
payload. The check (R150): an 8-bit register from 0, shifted left for each header, length and payload bit, with 0x07 XORed
in when its top bit and the message bit differ; sent after the payload, most significant bit first; bits whose check differs
are read as no message (log 28). -/
def Obligations.LineCarriesCheckedMessage : Prop :=
  (∀ (n v : Nat), msbBits n v = (List.range n).map fun i => v.testBit (n - 1 - i)) ∧
  (∀ (sender : Nat) (m : Message), checkedBits sender m = msbBits 10 m.topic ++ msbBits 6 sender ++ msbBits 3 m.length ++
    m.payload.flatMap fun x => msbBits 8 x.toNat) ∧
  (∀ (sender : Nat) (m : Message), lineBits sender m = stuff true 0 (messageBits sender m)) ∧
  (∀ (last x : Bool) (run : Nat) (rest : List Bool),
    let n := if x = last then run + 1 else 1
    stuff last run [] = [] ∧ (n = 6 → stuff last run (x :: rest) = x :: (!x) :: stuff (!x) 1 rest) ∧
    (n ≠ 6 → stuff last run (x :: rest) = x :: stuff x n rest)) ∧
  (∀ (sender : Nat) (m : Message), sender < 64 → m.topic < 1024 → m.length ≤ 6 → m.payload.length = m.length →
     decodeLine (lineBits sender m) = some (sender, m)) ∧
  crc8 [] = 0 ∧
  (∀ (l : List Bool) (x : Bool),
    crc8 (l ++ [x]) = if (crc8 l).msb = x then crc8 l <<< 1 else (crc8 l <<< 1) ^^^ 0x07) ∧
  (∀ (sender : Nat) (m : Message), messageBits sender m = [false] ++ checkedBits sender m ++
    (List.range 8).map fun i => (crc8 (checkedBits sender m)).getLsbD (7 - i)) ∧
  ∀ (l : List Bool) (r : Nat × Message), readMessage l = some r →
    let n := 19 + 8 * r.2.length
    l.drop (n + 1) = (List.range 8).map fun i => (crc8 ((l.drop 1).take n)).getLsbD (7 - i)

/-- The start of a message (R151, R162): on the bus, not DETACHED, no SETUP request pending, the line free, nothing sent or
received, the PENDING hold of the lowest topic, the older between equal ones, is SENDING its bits. The ends of an attempt
that is no error (R152, R154, R162), out of loopback. Lost: the hold is PENDING with one loss more, or empty and its order
CANCELLED when marked; nothing is driven, and the rest is received. Sent: TEC falls by 1, the sent counter rises, and a
change of the link state is reported with cause SUCCESS (R158) before (log 27) the order completes OK with attempts, losses
and time; the hold is EMPTY (log 64 for what it shows). The next choice for the link controller follows a completion (R195;
log 31). At the end of every attempt with a SETUP request pending, and in no other case, the controller tells that it is not
sending (`answerNotSending`), which is the mark the change to SETUP waits for (R172, R202). -/
def Obligations.AttemptStartsAndEnds : Prop :=
  (∀ s : State, (∀ h, s.sendingHold = some h ↔
      h < 3 ∧ (s.hold h).state = .sending ∧ ∀ g < h, (s.hold g).state ≠ .sending) ∧
    (s.sendingHold = none ↔ ∀ h < 3, (s.hold h).state ≠ .sending)) ∧
  (∀ s : State,
    let answers := s.link.inhibit = true ∧ s.disp.setupPending = true ∧ ∀ h < 3, (s.hold h).state ≠ .sending
    (answers → answerNotSending s = { s with disp := { s.disp with linkClear := true } }) ∧
    (¬ answers → answerNotSending s = s)) ∧
  (∀ (s : State) (run h : Nat), s.resetHeld = false → s.link.engagement = .onBus → s.link.state ≠ .detached →
     s.link.inhibit = false → s.link.lineFree = true → s.link.receiving = false →
     (if s.link.justSent = true ∧ s.link.state = .quiet then 24 ≤ run else 16 ≤ run) →
     (∀ g < 3, (s.hold g).state ≠ .sending) → h < 3 → (s.hold h).state = .pending →
     (∀ g < 3, g ≠ h → (s.hold g).state = .pending → (s.hold h).message.topic < (s.hold g).message.topic ∨
       ((s.hold h).message.topic = (s.hold g).message.topic ∧ (s.hold h).stamp < (s.hold g).stamp)) →
     ∃ t, exec (.linkMessageStart run) s = .next t ∧ t.hold h = { s.hold h with state := .sending } ∧
       (∀ g < 3, g ≠ h → t.hold g = s.hold g) ∧ t.link.lineFree = false ∧
       t.link.sendBits = lineBits s.link.config.address (s.hold h).message ++ List.replicate 9 true ∧
       t = publish s { s with link := { s.link with
         holds := t.link.holds, lineFree := false, justSent := false, errorMark := none, sendBits := t.link.sendBits } }) ∧
  ∀ (s : State) (h : Nat), s.resetHeld = false → s.sendingHold = some h → s.link.config.loopback = false →
    let x := s.hold h
    let ended := { s with link := { s.link with sendBits := [], justSent := true, receiving := true, ackDriven := false } }
    (x.cancelMark = false → exec .linkArbitrationLost s = .next (publish s (finish (answerNotSending
      (setHold h { x with state := .pending, losses := min 255 (x.losses + 1) } ended))))) ∧
    (∀ i, x.cancelMark = true → x.origin = .slot i → exec .linkArbitrationLost s = .next (publish s (finish
      (answerNotSending (chooseLink (complete i .cancelled ResultFlags.none [] (setHold h Hold.empty ended))))))) ∧
    let state := linkStateOf (s.link.tec - 1) s.link.rec_ s.link.state
    let counted := { s with link := { s.link with
      sent := s.link.sent + 1, tec := s.link.tec - 1, state := state, sendBits := [], justSent := true } }
    let v := setHold h Hold.empty
      (if state = s.link.state ∨ state = .detached then counted else reportLinkState s.link.state 6 0 0 counted)
    v.hold h = Hold.empty ∧ v.disp.slots = s.disp.slots ∧
      (∀ i, x.origin = .slot i → exec .linkMessageSent s = .next (publish s (finish (answerNotSending (chooseLink
        (complete i .ok ResultFlags.none
          [word x.attempts, word x.losses, lowWord s.frameCounter, highWord s.frameCounter] v)))))) ∧
      (x.origin = .notice → exec .linkMessageSent s = .next (publish s (finish (answerNotSending v))))

/-- LINK_MESSAGE_RECEIVED (R153, R154, R166, R167), for a node on the bus that receives: REC falls by 1, the received
counter rises, an ACTIVE or CAUTION node has driven the acknowledge slot; a message of the own address only marks
ADDRESS_SEEN, any other goes to the tempo unit when its topic is the beat topic, and to the first filter it hits. Bits that
spell no message are no success (log 28). The first enabled filter by index whose masked code equals the masked header
decides: LINK_MESSAGE report, link event with the filter's index, or both, report first (R167). A change of the link state
is reported by LINK_STATE with cause SUCCESS before the message counts as received (R158). In loopback a message sent is
received: it counts, is not held for the own address, and is passed on in the same way (R168). The LINK_MESSAGE report
(R211): the bytes beyond the payload are 0 (log 69). -/
def Obligations.ReceivedMessageIsPassedOn : Prop :=
  (∀ (n sender : Nat) (m : Message) (time : Long),
    let b := fun i => (m.payload.getD i 0).toNat
    (linkMessageReport n sender m time).words = [bytePair 5 0, word (0x6000 + n), lowWord time, highWord time, word m.topic,
      bytePair sender m.length, bytePair (b 0) (b 1), bytePair (b 2) (b 3), bytePair (b 4) (b 5), 0, 0, 0, 0, 0, 0, 0]) ∧
  (∀ (s : State) (bits : List Bool), s.resetHeld = false → s.link.receiving = true → s.link.engagement = .onBus →
    s.link.state ≠ .detached → s.link.config.loopback = false →
    (decodeLine bits = none → exec (.linkMessageReceived bits) s = .next (publish s (finish s))) ∧
    ∀ sender m, decodeLine bits = some (sender, m) →
      let state := linkStateOf s.link.tec (s.link.rec_ - 1) s.link.state
      let counted := { s with link := { s.link with
        rec_ := s.link.rec_ - 1, state := state, receiving := false,
        ackDriven := s.link.state == .active || s.link.state == .caution } }
      let told := if state = s.link.state ∨ state = .detached then counted else reportLinkState s.link.state 6 0 0 counted
      let v := { told with link := { told.link with received := s.link.received + 1 } }
      v.disp.slots = s.disp.slots ∧
      (sender = s.link.config.address → exec (.linkMessageReceived bits) s =
        .next (publish s (finish { v with link := { v.link with addressSeen := true } }))) ∧
      (sender ≠ s.link.config.address → exec (.linkMessageReceived bits) s = .next (publish s (finish
        (filterMessage sender m (if s.link.config.beatTopic = some m.topic then takeLinkBeat v else v)))))) ∧
  (∀ (f : Filter) (h : Word), f.hits h = true ↔ f.enable = true ∧ h &&& f.mask = f.code &&& f.mask) ∧
  (∀ (s : State) (sender : Nat) (m : Message),
    let h := word (64 * m.topic + sender)
    let filters := s.link.config.filters
    ((∀ f ∈ filters, f.hits h = false) → filterMessage sender m s = s) ∧
    ∀ n f, filters[n]? = some f → f.hits h = true → (∀ k < n, ∀ g, filters[k]? = some g → g.hits h = false) →
      let told := appendReport (linkMessageReport n sender m s.frameCounter) s
      let event := bindingEvent (.link n sender m) s.frameCounter false
      (f.dest = .report → filterMessage sender m s = told) ∧ (f.dest = .bind → filterMessage sender m s = event s) ∧
      (f.dest = .both → filterMessage sender m s = event told)) ∧
  ∀ (s : State) (h : Nat), s.resetHeld = false → s.sendingHold = some h →
    let v := sentOk chooseLink h s
    let w := { v with link := { v.link with received := v.link.received + 1 } }
    let m := (s.hold h).message
    v.link.config.loopback = true → exec .linkMessageSent s = .next (publish s (finish
      (filterMessage s.link.config.address m (if v.link.config.beatTopic = some m.topic then takeLinkBeat w else w))))

/-- The errors (R155-R159): a transmitter's BIT, STUFF or FORM error adds 8 to TEC, and so does its NO_ACK error but for a
QUIET node, where it changes nothing; a receiver's STUFF, CHECK or FORM error adds 1 to REC, and it drove the acknowledge
slot when the error falls behind it (R153); both are held at 255. An ACTIVE or CAUTION node owes a mark of 8 dominant bits,
from the next bit on, or after a CHECK error from the first end-field bit. What an errored attempt does to its hold (R162):
PENDING with one attempt more, LINK_FAILED at the fourth with attempts and kind, CANCELLED when marked; a notice that fails
counts. Becoming DETACHED (R159) takes the message off the line, empties the holds with LINK_DETACHED in index order and the
notice list, counts its notices, and reports; that the report counts the holds that were not EMPTY and the notices listed is
the model's choice (log 42), and so is a report of any other change of the state before the completion that goes with it
(log 27). A message sent takes 1 from TEC, in loopback from both counters. A notice is dropped with LINK_DETACHED, or with
NOT_READY beside eight listed ones; any other is listed and may fill a hold (R165). What `answerNotSending` does,
AttemptStartsAndEnds says. -/
def Obligations.ErrorsCountAndEndAttempts : Prop :=
  (∀ (h : Nat) (x : Hold) (s : State), h < 3 → (setHold h x s).hold h = x ∧
    (∀ g < 3, g ≠ h → (setHold h x s).hold g = s.hold g) ∧
    setHold h x s = { s with link := { s.link with holds := (setHold h x s).link.holds } }) ∧
  (∀ (choose : State → State) (h : Nat) (code : ResultCode) (words : List Word) (s : State),
    (∀ i, (s.hold h).origin = .slot i → emptyHold choose h code words s =
      choose (complete i code ResultFlags.none words (setHold h Hold.empty s))) ∧
    ((s.hold h).origin = .notice → emptyHold choose h code words s = setHold h Hold.empty s)) ∧
  let told := fun (before : LinkState) (cause : Nat) (u : State) =>
    if u.link.state = before ∨ u.link.state = .detached then u else reportLinkState before cause 0 0 u
  (∀ (s : State) (e : LinkErrorSeen) (h : Nat), s.resetHeld = false → s.link.config.loopback = false →
    s.sendingHold = some h → e.kind ≠ .check →
    let x := s.hold h
    let drives := s.link.state = .active ∨ s.link.state = .caution
    let tec := if e.kind = .noAck ∧ s.link.state = .quiet then s.link.tec else min 255 (s.link.tec + 8)
    let answers := fun u => exec (.linkError e) s = .next (publish s (finish (answerNotSending u)))
    let state := linkStateOf tec s.link.rec_ s.link.state
    let v := told s.link.state (errorCode e.kind) { s with link := { s.link with
        tec := tec, state := state, lastError := some e.kind,
        lastErrorTime := s.frameCounter, receiving := false, sendBits := [], justSent := true,
        errorMark := if drives then some ⟨.nextBit, List.replicate 8 false⟩ else none } }
    v.link.state = state ∧ v.disp.slots = s.disp.slots ∧ v.disp.ageList = s.disp.ageList ∧
      (v.link.state = .detached → s.link.state ≠ .detached →
        answers (detach chooseLink s.link.state (errorCode e.kind) v)) ∧
      (v.link.state ≠ .detached ∨ s.link.state = .detached →
        (x.cancelMark = false → x.attempts < 3 →
          answers (setHold h { x with state := .pending, attempts := x.attempts + 1 } v)) ∧
        (∀ i, x.origin = .slot i →
          (x.cancelMark = true →
            answers (chooseLink (complete i .cancelled ResultFlags.none [] (setHold h Hold.empty v)))) ∧
          (x.cancelMark = false → 3 ≤ x.attempts → answers (chooseLink (complete i .linkFailed ResultFlags.none
            [word (x.attempts + 1), word (errorCode e.kind)] (setHold h Hold.empty v))))) ∧
        (x.origin = .notice → x.cancelMark = false → 3 ≤ x.attempts → answers
          (setHold h Hold.empty { v with link := { v.link with failed := v.link.failed + 1 } })))) ∧
  (∀ (s : State) (e : LinkErrorSeen), s.resetHeld = false → s.link.config.loopback = false →
    s.sendingHold = none → s.link.receiving = true → e.kind ≠ .bit → e.kind ≠ .noAck →
    let drives := s.link.state = .active ∨ s.link.state = .caution
    let rec' := min 255 (s.link.rec_ + 1)
    let v := told s.link.state (errorCode e.kind) { s with link := { s.link with
        rec_ := rec', state := linkStateOf s.link.tec rec' s.link.state, lastError := some e.kind,
        lastErrorTime := s.frameCounter, receiving := false, sendBits := [],
        ackDriven := decide (e.tail = true ∧ e.kind = .form ∧ drives),
        errorMark := if drives then
          some ⟨if e.kind = .check then .firstEndBit else .nextBit, List.replicate 8 false⟩ else none } }
    exec (.linkError e) s = .next (publish s (finish v)) ∧ v.disp.slots = s.disp.slots) ∧
  (∀ (tec rec_ : Nat) (was : LinkState), linkStateOf tec rec_ was =
    if was = .detached ∨ 224 ≤ tec then .detached else if 128 ≤ tec ∨ 128 ≤ rec_ then .quiet
    else if 64 ≤ tec ∨ 64 ≤ rec_ then .caution else .active) ∧
  (∀ (before : LinkState) (cause : Nat) (s : State),
    let filled := (s.link.holds.filter fun x => x.state != .empty).length
    let held := (s.link.holds.filter fun x => x.state != .empty && x.origin == .notice).length
    let off := { s with link := { s.link with sendBits := [], errorMark := none, receiving := false,
                                              rejoinMark := s.link.config.autoRejoin, rejoinCount := 0 } }
    let w := [0, 1, 2].foldl
      (fun u h => if (u.hold h).state = .empty then u else emptyHold chooseLink h .linkDetached [] u) off
    let t := detach chooseLink before cause s
    t = reportLinkState before cause filled s.link.notices.length { w with link := { w.link with
        notices := [], failed := w.link.failed + word (held + s.link.notices.length) } } ∧
      t.link.notices = [] ∧ t.link.tec = s.link.tec ∧ t.link.state = s.link.state ∧
      ∀ h < 3, (t.hold h).state = .empty) ∧
  (∀ (choose : State → State) (h : Nat) (s : State), h < 3 →
    let x := s.hold h
    let rec' := if s.link.config.loopback = true then s.link.rec_ - 1 else s.link.rec_
    let v := setHold h Hold.empty (told s.link.state 6 { s with link := { s.link with
      sent := s.link.sent + 1, tec := s.link.tec - 1, rec_ := rec', sendBits := [], justSent := true,
      state := linkStateOf (s.link.tec - 1) rec' s.link.state } })
    v.hold h = Hold.empty ∧ v.disp.slots = s.disp.slots ∧
      (∀ i, x.origin = .slot i → sentOk choose h s = answerNotSending (choose (complete i .ok ResultFlags.none
        [word x.attempts, word x.losses, lowWord s.frameCounter, highWord s.frameCounter] v))) ∧
      (x.origin = .notice → sentOk choose h s = answerNotSending v)) ∧
  ∀ (m : Message) (s : State),
    (s.link.state = .detached → s.noticeFault = some .linkDetached ∧ offerNotice m s = s) ∧
    (s.link.state ≠ .detached → 8 ≤ s.link.notices.length → s.noticeFault = some .notReady ∧ offerNotice m s = s) ∧
    (s.link.state ≠ .detached → s.link.notices.length < 8 → s.noticeFault = none ∧ offerNotice m s =
      fillHolds { s with stamp := s.stamp + 1,
                         link := { s.link with notices := s.link.notices ++ [⟨m, s.stamp⟩] } })

/-- The line and the bus (R151, R160, R171): LINK_JOIN_BUS ends the wait for the idle run that engagement asks for, and does
nothing in any other engagement (log 1). An idle run frees the line for a node on the bus, and counts for the rejoin of a
DETACHED node with its mark set in RUN, to 32. That an idle run in AWAITING_IDLE does not join, and LINK_JOIN_BUS does not
count, so that this one moment is both commands, is the model's choice (log 72). In the event in which the count reaches 32
the node rejoins: counters, mark and count cleared, ACTIVE on the bus with the line free, the change reported by LINK_STATE
with cause REJOIN, and attention LINK set; REJOIN is that idle run, and does nothing where none would bring the count to 32
(log 1). Another node's start bit on a free line is received, and clears the QUIET wait (log 51). -/
def Obligations.LineAndBusEvents : Prop :=
  ∀ s : State, s.resetHeld = false →
    (s.link.engagement = .awaitingIdle → exec .linkJoinBus s = .next (publish s
      { s with link := { s.link with engagement := .onBus, lineFree := true } })) ∧
    (s.link.engagement ≠ .awaitingIdle → exec .linkJoinBus s = .next (publish s s)) ∧
    (let counts := s.link.state = .detached ∧ s.link.rejoinMark = true ∧ s.disp.mode = .run
     let u := { s with link := { s.link with
       rejoinCount := if counts then min 32 (s.link.rejoinCount + 1) else s.link.rejoinCount,
       errorMark := none, lineFree := s.link.lineFree || s.link.engagement == .onBus } }
     let back := { u with link := { u.link with
       tec := 0, rec_ := 0, state := .active, rejoinMark := false, rejoinCount := 0, engagement := .onBus,
       lineFree := true } }
     (s.sendingHold = none → s.link.receiving = false → s.link.engagement ≠ .offBus →
       (¬ (counts ∧ 31 ≤ s.link.rejoinCount) → exec .lineIdleRun s = .next (publish s u)) ∧
       (counts → 31 ≤ s.link.rejoinCount →
         exec .lineIdleRun s = .next (publish s (finish (reportLinkState .detached 7 0 0 back))) ∧
         exec .rejoin s = exec .lineIdleRun s)) ∧
     (¬ (counts ∧ 31 ≤ s.link.rejoinCount) → exec .rejoin s = .next (publish s s)) ∧
     ∀ (before : LinkState) (cause holds notices : Nat),
       let r := linkStateReport before s.link cause holds notices s.frameCounter
       let v := appendReport r s
       reportLinkState before cause holds notices s =
           { v with disp := { v.disp with attention := { v.disp.attention with link := true } } } ∧
         r.words = [bytePair 6 0, 0, lowWord s.frameCounter, highWord s.frameCounter,
           bytePair before.code s.link.state.code, bytePair s.link.tec s.link.rec_, bytePair cause holds,
           bytePair notices 0, 0, 0, 0, 0, 0, 0, 0, 0]) ∧
    (s.link.lineFree = true → s.link.engagement = .onBus → s.link.config.loopback = false →
      exec .startBitReceived s = .next (publish s { s with link := { s.link with
        lineFree := false, receiving := s.link.state != .detached, justSent := false, ackDriven := false } }))

/-! ### Lamps (R176-R181) -/

/-- BEAT_WINDOW_CLOSE (R177): the window that is shown closes when its timer has run out, and nothing happens before (log
1). The evaluation of a lamp (R176, R178): the condition of its source, and the level it should show, OFF for source OFF,
the off level without the condition, and with it the on level, but for a blink outside its lit phase; a boundary evaluates
every lamp and then lowers the window's timer (log 54). PERIOD_START (R179-R181): every generator loads the level worked out
for its lamp, or, beside a COMPLEMENT even lamp lit for E half counts with gap g, the pulse from E + 2g to 4096 - 2g, none
when that is empty. A pending LAMP_CONFIG is installed first: its lamps, and the odd partner of an even lamp that leaves
COMPLEMENT, are evaluated anew, any other lamp stays as it was, the configuration and gap words are written (log 57), and
the order completes with first and count (log 35). That a period start between a reset and the first boundary evaluates the
lamps it installs, where R183 has every level OFF until that boundary, is the model's choice (log 68). -/
def Obligations.PeriodStartLoadsLevels : Prop :=
  (∀ s : State, s.resetHeld = false →
    (s.lamps.windowOpen = true → s.lamps.window = 0 → exec .beatWindowClose s = .next (publish s
      { s with lamps := { s.lamps with windowOpen := false } })) ∧
    (s.lamps.windowOpen = false ∨ 0 < s.lamps.window → exec .beatWindowClose s = .next (publish s s)) ∧
    (s.lamps.pending = none → exec .periodStart s = .next (publish s (finish { s with lamps := s.lamps.loadAll }))) ∧
    (∀ p, s.lamps.pending = some p →
      let d := LampDriver.loadAll { s.lamps with lamps := s.installLamps p, pending := none }
      exec .periodStart s = .next (publish s (finish
        (complete p.slot .ok ResultFlags.none [word p.first, word p.configs.length] { s with
          lamps := d, writes := s.writes ++ (wordsAt 0x188 d.configWords ++ wordsAt 0x1D0 d.gapWords) })))) ∧
    ∀ (p : PendingLamps) (n : Nat) (x : Lamp), s.lamps.lamps[n]? = some x →
      let given := fun (k : Nat) => if p.first ≤ k then p.configs[k - p.first]? else none
      (∀ c, given n = some c → (s.installLamps p)[n]? = some (s.evaluate { x with config := c })) ∧
      (given n = none →
        let freed := n % 2 = 1 ∧ (s.lamps.lamp (n - 1)).config.complement = true ∧
          ∃ c, given (n - 1) = some c ∧ c.complement = false
        (freed → (s.installLamps p)[n]? = some (s.evaluate x)) ∧ (¬ freed → (s.installLamps p)[n]? = some x))) ∧
  (∀ d : LampDriver, d.loadAll = { d with lamps := d.loadAll.lamps, periodCounter := 0 } ∧
    ∀ n x, d.lamps[n]? = some x → ∃ y, d.loadAll.lamps[n]? = some { x with load := y } ∧
      (n % 2 = 0 → y = .level x.worked) ∧
      ∀ e, n % 2 = 1 → d.lamps[n - 1]? = some e →
        (e.config.complement = false → y = .level x.worked) ∧
        (e.config.complement = true → y =
          let lit := e.worked.halfCounts
          if 4 * e.config.gap < 4096 - lit then .paired (lit + 2 * e.config.gap) (4096 - 2 * e.config.gap)
          else .paired 0 0)) ∧
  (∀ l h, Level.halfCounts .off = 0 ∧ Level.halfCounts (.on l h) = 2 * l + (if h then 1 else 0) + 1) ∧
  (∀ (s : State) (x : Lamp),
    let c := x.config
    let cond := s.lampCondition c.source
    let lit := match c.blink with
      | .none => true
      | .beat => decide (0 < s.lamps.window)
      | .fast => decide (s.frameCounter.toNat % 250 < 125)
    s.evaluate x = { x with cond := cond, worked := if c.source = .off then .off
      else if cond = true ∧ lit = true then c.onLevel else c.offLevel } ∧
    lampFrame s = { s with lamps := { s.lamps with lamps := s.lamps.lamps.map s.evaluate, window := s.lamps.window - 1 } }) ∧
  ∀ s : State, s.lampCondition .off = false ∧ s.lampCondition .fixed = true ∧
    (∀ lane p, s.lampCondition (.stage lane p) = true ↔ ∃ bank ln x, laneOfNat lane = some ln ∧ p ≤ 11 ∧
      s.liveBank = some bank ∧ (s.lane.banks.get bank).stageAt ln p = some x ∧ x.bypass = false) ∧
    (∀ n, s.lampCondition (.sceneIs n) = true ↔ s.activeScene = some n) ∧
    (∀ i, s.lampCondition (.setlistAt i) = true ↔ i < s.scene.setList.count ∧ s.scene.cursor = i) ∧
    (s.lampCondition .beat = true ↔ 0 < s.lamps.window) ∧
    (s.lampCondition .linkOk = true ↔ s.link.state = .active ∨ s.link.state = .caution) ∧
    (s.lampCondition .muted = true ↔ s.lane.mute ≠ ⟨false, false, false, false, false⟩)
end

