-- ==== Sys2Proof/Laws/Audio.lean ====
section
/-! SUPPORT. The frame's signals keep their length: a stage, a lane and a bank give as many samples as they take. -/

namespace Sys2Proof.Machine

@[simp] theorem mapSamples_length (f : Nat → Int → Int) (xs : List Int) : (mapSamples f xs).length = xs.length := by
  simp [mapSamples]

@[simp] theorem cabRun_length (taps : List Int) (x : Stage) (i : Nat) (h xs : List Int) :
    (cabRun taps x i h xs).1.length = xs.length := by
  induction xs generalizing i h with
  | nil => rfl
  | cons s xs ih => simp [cabRun, ih]

@[simp] theorem delayRun_length (blocks : List Nat) (x : Stage) (i wp : Nat) (m : List (Nat × Int)) (xs : List Int) :
    (delayRun blocks x i wp m xs).1.length = xs.length := by
  induction xs generalizing i wp m with
  | nil => rfl
  | cons s xs ih => simp [delayRun, ih]

@[simp] theorem verbRun_length (blocks : List Nat) (x : Stage) (c : AudioCtx) (i wp : Nat) (m : List (Nat × Int))
    (xs : List Int) : (verbRun blocks x c i wp m xs).1.length = xs.length := by
  induction xs generalizing i wp m with
  | nil => rfl
  | cons s xs ih => simp [verbRun, ih]

@[simp] theorem Stage.run_length (l : LineMemory) (blocks : List Nat) (x : Stage) (input : List Int) (c : AudioCtx) :
    (x.run l blocks input c).2.1.length = input.length := by
  unfold Stage.run
  cases x.kind <;> cases x.trail <;> simp

@[simp] theorem runStages_length (l : LineMemory) (bk : BankId) (ln : LaneId) (f : FrameInput) (stages : List (Option Stage))
    (p : Nat) (cut : Bool) (signal : List Int) (c : AudioCtx) :
    (runStages l bk ln f stages p cut signal c).2.1.length = signal.length := by
  induction stages generalizing p cut signal c with
  | nil => rfl
  | cons x rest ih =>
    cases x with
    | none => simp [runStages, ih]
    | some x =>
      rw [runStages]; dsimp only; split
      · rw [ih, Stage.run_length]; split <;> simp
      · exact ih ..

theorem laneInput_length {f : FrameInput} (ha : f.inA.length = 48) (hb : f.inB.length = 48) (source : LaneSource)
    {lane1 : List Int} (h : source = .lane1 → lane1.length = 48) : (laneInput f source lane1).length = 48 := by
  unfold laneInput
  cases f.mode <;> cases source <;> simp_all [silence]

/-- A lane's last output and its contribution are 48 samples long when its input is. -/
theorem Lane.run_length (l : LineMemory) (bk : BankId) (ln : LaneId) (f : FrameInput) (k : Lane) {input : List Int}
    (c : AudioCtx) (h : input.length = 48) :
    (k.run l bk ln f input c).2.1.length = 48 ∧ (k.run l bk ln f input c).2.2.1.length = 48 := by
  unfold Lane.run; split
  · simp [Lane.contribution, h]
  · simp [h, zeroFrame]

/-- A bank's contribution is 48 samples long when both inputs are. -/
theorem Bank.run_length (l : LineMemory) (bk : BankId) {f : FrameInput} (k : Bank) (c : AudioCtx) (ha : f.inA.length = 48)
    (hb : f.inB.length = 48) : (k.run l bk f c).2.1.length = 48 := by
  unfold Bank.run
  split
  · simp [zeroFrame]
  · have h0 : (laneInput f .inA []).length = 48 := laneInput_length ha hb _ (by simp)
    simp only [List.length_zipWith]
    rw [(Lane.run_length l bk .one f k.lanes.one c h0).2,
      (Lane.run_length l bk .two f k.lanes.two _ (laneInput_length ha hb _ fun _ => ?_)).2]
    · rfl
    · split
      · exact (Lane.run_length l bk .one f k.lanes.one c h0).1
      · exact h0

end Sys2Proof.Machine
end

