-- ==== Sys2Proof/Laws/Gains.lean ====
section
/-! SUPPORT. How close the rational gains of Machine/Audio.lean come to the gains of R7 and R11: the dB gain to
10 ^ (q / 200), and the pan gains to the cosine and the sine of the pan's angle. -/

namespace Sys2Proof.Machine

open Finset

/-! ### The exponential series -/

theorem expSeries_eq_sum (x : ℚ) (n : ℕ) : ∀ k : ℕ,
    expSeries x k n = ∑ m ∈ range (n + 1), x ^ m * (k.factorial / (k + m).factorial) := by
  induction n with
  | zero => intro k; simp [expSeries, Nat.factorial_ne_zero]
  | succ n ih =>
    intro k
    rw [expSeries, ih, sum_range_succ' _ (n + 1), mul_sum, add_comm]
    congr 1
    · refine sum_congr rfl fun m _ => ?_
      have h : ((k + 1 + m).factorial : ℚ) ≠ 0 := by exact_mod_cast (k + 1 + m).factorial_ne_zero
      have e : k + (m + 1) = k + 1 + m := by ring
      rw [e, Nat.factorial_succ k]
      push_cast
      field_simp
      ring
    · simp [Nat.factorial_ne_zero]

theorem exp_sub_expSeries_le {x : ℚ} (h0 : 0 ≤ x) (h1 : x ≤ 4) :
    |Real.exp x - (expSeries x 0 30 : ℚ)| ≤ (x : ℝ) ^ 31 / (31).factorial * 2 := by
  have hx : ‖((x : ℝ) : ℂ)‖ = (x : ℝ) := by
    rw [Complex.norm_real, Real.norm_of_nonneg (by exact_mod_cast h0)]
  have hb := Complex.exp_bound' (x := ((x : ℝ) : ℂ)) (n := 31) (by
    rw [hx]
    have : (x : ℝ) ≤ 4 := by exact_mod_cast h1
    norm_num
    linarith)
  rw [hx] at hb
  refine le_trans (le_of_eq ?_) hb
  rw [expSeries_eq_sum, ← Real.norm_eq_abs, ← Complex.norm_real]
  congr 1
  push_cast
  congr 1
  refine sum_congr rfl fun m _ => ?_
  simp [div_eq_mul_inv]

theorem exp_ln10 : |Real.exp ln10 / 10 - 1| ≤ 1 / 10 ^ 21 := by
  have h := exp_sub_expSeries_le (x := ln10) (by norm_num [ln10]) (by norm_num [ln10])
  have e1 : (expSeries ln10 0 30 : ℚ) ≤ 10 + 1 / 10 ^ 22 := by decide +kernel
  have e2 : 10 - 1 / 10 ^ 22 ≤ expSeries ln10 0 30 := by decide +kernel
  have e1' : ((expSeries ln10 0 30 : ℚ) : ℝ) ≤ 10 + 1 / 10 ^ 22 := by
    have := (Rat.cast_le (K := ℝ)).2 e1; push_cast at this; exact this
  have e2' : (10 : ℝ) - 1 / 10 ^ 22 ≤ ((expSeries ln10 0 30 : ℚ) : ℝ) := by
    have := (Rat.cast_le (K := ℝ)).2 e2; push_cast at this; exact this
  have e3 : ((ln10 : ℚ) : ℝ) ^ 31 / (31).factorial * 2 ≤ 1 / 10 ^ 22 := by
    have : (ln10 : ℚ) ^ 31 / (31).factorial * 2 ≤ 1 / 10 ^ 22 := by norm_num [ln10, Nat.factorial]
    have := (Rat.cast_le (K := ℝ)).2 this; push_cast at this; exact this
  have h' := abs_le.1 (h.trans e3)
  rw [abs_le]
  constructor <;> linarith [h'.1, h'.2]

/-- A power between 0 and 1 of a number near 1 is as near. -/
theorem abs_rpow_sub_one_le {y r : ℝ} (hy : 0 < y) (h0 : 0 ≤ r) (h1 : r ≤ 1) : |y ^ r - 1| ≤ |y - 1| := by
  rcases le_total 1 y with h | h
  · have a := Real.one_le_rpow h h0
    have b := Real.rpow_le_rpow_of_exponent_le h h1
    rw [Real.rpow_one] at b
    rw [abs_of_nonneg (by linarith), abs_of_nonneg (by linarith)]
    linarith
  · have a := Real.rpow_le_one hy.le h h0
    have b := Real.rpow_le_rpow_of_exponent_ge hy h h1
    rw [Real.rpow_one] at b
    rw [abs_of_nonpos (by linarith), abs_of_nonpos (by linarith)]
    linarith

theorem tenTo_eq_zpow (n : ℤ) : tenTo n = (10 : ℚ) ^ n := by
  unfold tenTo
  split
  · next h => lift n to ℕ using h; simp
  · next h =>
    obtain ⟨k, hk⟩ := Int.eq_ofNat_of_zero_le (a := -n) (by omega)
    have : n = -(k : ℤ) := by omega
    subst this
    simp

theorem expSeries_close {r : ℚ} (h0 : 0 ≤ r) (h1 : r ≤ 1) :
    |((expSeries (r * ln10) 0 30 : ℚ) : ℝ) - (10 : ℝ) ^ (r : ℝ)| ≤ (10 : ℝ) ^ (r : ℝ) / 10 ^ 20 := by
  have hl : (0 : ℚ) ≤ ln10 := by norm_num [ln10]
  have hl4 : (ln10 : ℚ) ≤ 231 / 100 := by norm_num [ln10]
  have hr0 : (0 : ℝ) ≤ r := by exact_mod_cast h0
  have hr1 : (r : ℝ) ≤ 1 := by exact_mod_cast h1
  have hx : r * ln10 ≤ 231 / 100 := by nlinarith
  have a := exp_sub_expSeries_le (x := r * ln10) (mul_nonneg h0 hl) (by linarith)
  have e3 : ((r * ln10 : ℚ) : ℝ) ^ 31 / (31).factorial * 2 ≤ 1 / 10 ^ 21 := by
    have h : ((r * ln10 : ℚ) : ℝ) ≤ 231 / 100 := by
      have := (Rat.cast_le (K := ℝ)).2 hx; push_cast at this ⊢; exact this
    have hp : (0 : ℝ) ≤ ((r * ln10 : ℚ) : ℝ) := by exact_mod_cast mul_nonneg h0 hl
    have := pow_le_pow_left₀ hp h 31
    calc _ ≤ (231 / 100 : ℝ) ^ 31 / (31).factorial * 2 := by gcongr
      _ ≤ _ := by norm_num [Nat.factorial]
  have b : Real.exp ((r * ln10 : ℚ) : ℝ) = (10 : ℝ) ^ (r : ℝ) * (Real.exp ln10 / 10) ^ (r : ℝ) := by
    rw [Real.div_rpow (Real.exp_pos _).le (by norm_num), mul_div_cancel₀ _ (Real.rpow_pos_of_pos (by norm_num) _).ne',
      ← Real.exp_mul]
    congr 1
    push_cast
    ring
  have c := (abs_rpow_sub_one_le (y := Real.exp ln10 / 10) (by positivity) hr0 hr1).trans exp_ln10
  have one : (1 : ℝ) ≤ (10 : ℝ) ^ (r : ℝ) := Real.one_le_rpow (by norm_num) hr0
  have d : |Real.exp ((r * ln10 : ℚ) : ℝ) - (10 : ℝ) ^ (r : ℝ)| ≤ (10 : ℝ) ^ (r : ℝ) / 10 ^ 21 := by
    rw [b, show ∀ u v : ℝ, u * v - u = u * (v - 1) by intros; ring, abs_mul, abs_of_nonneg (by linarith)]
    calc _ ≤ (10 : ℝ) ^ (r : ℝ) * (1 / 10 ^ 21) := by gcongr
      _ = _ := by ring
  have a' := abs_le.1 (a.trans e3)
  have d' := abs_le.1 d
  rw [abs_le]
  constructor <;> linarith [a'.1, a'.2, d'.1, d'.2]

/-- The dB gain is within 10 ^ -20 of 10 ^ (q / 200), in proportion to it. -/
theorem gainOf_close (q : ℚ) :
    |(gainOf q : ℝ) - (10 : ℝ) ^ ((q : ℝ) / 200)| ≤ (10 : ℝ) ^ ((q : ℝ) / 200) / 10 ^ 20 := by
  set n := (q / 200).floor with hn
  set r := q / 200 - n with hr
  have h0 : 0 ≤ r := by rw [hr, hn]; linarith [Rat.floor_le (q / 200)]
  have h1 : r ≤ 1 := by rw [hr, hn]; have := Rat.lt_floor_add_one (q / 200); push_cast at this; linarith
  have e : (10 : ℝ) ^ ((q : ℝ) / 200) = (10 : ℝ) ^ n * (10 : ℝ) ^ (r : ℝ) := by
    rw [← Real.rpow_intCast, ← Real.rpow_add (by norm_num)]
    congr 1
    rw [hr]
    push_cast
    ring
  have g : (gainOf q : ℝ) = (10 : ℝ) ^ n * (if r = 0 then 1 else expSeries (r * ln10) 0 30 : ℚ) := by
    change ((if r = 0 then tenTo n else tenTo n * expSeries (r * ln10) 0 30 : ℚ) : ℝ) = _
    simp only [tenTo_eq_zpow]
    split <;> simp
  have p : (0 : ℝ) < (10 : ℝ) ^ n := by positivity
  rw [g, e, ← mul_sub, abs_mul, abs_of_pos p, mul_div_assoc]
  refine mul_le_mul_of_nonneg_left ?_ p.le
  split
  · next h => rw [h]; simp
  · exact expSeries_close h0 h1

/-! ### The cosine series -/

theorem cosSeries_eq_sum (x : ℚ) (n : ℕ) : ∀ k : ℕ,
    cosSeries x k n = ∑ m ∈ range (n + 1), (-1) ^ m * x ^ m * ((2 * k).factorial / (2 * (k + m)).factorial) := by
  induction n with
  | zero => intro k; simp [cosSeries, Nat.factorial_ne_zero]
  | succ n ih =>
    intro k
    rw [cosSeries, ih, sum_range_succ' _ (n + 1), mul_sum, sub_eq_add_neg, add_comm, ← sum_neg_distrib]
    congr 1
    · refine sum_congr rfl fun m _ => ?_
      have h : ((2 * (k + 1 + m)).factorial : ℚ) ≠ 0 := by exact_mod_cast (2 * (k + 1 + m)).factorial_ne_zero
      have e : k + (m + 1) = k + 1 + m := by ring
      rw [e, show 2 * (k + 1) = 2 * k + 1 + 1 by ring, Nat.factorial_succ (2 * k + 1), Nat.factorial_succ (2 * k)]
      push_cast
      field_simp
      ring
    · simp [Nat.factorial_ne_zero]

theorem cos_sub_cosSeries_le {a : ℚ} (h0 : 0 ≤ a) (h1 : a ≤ 4) :
    |Real.cos a - (cosSeries (a * a) 0 14 : ℚ)| ≤ (a : ℝ) ^ 29 / (29).factorial * 2 := by
  have hn : ‖((a : ℝ) : ℂ) * Complex.I‖ = (a : ℝ) := by
    rw [norm_mul, Complex.norm_I, mul_one, Complex.norm_real, Real.norm_of_nonneg (by exact_mod_cast h0)]
  have hb := Complex.exp_bound' (x := ((a : ℝ) : ℂ) * Complex.I) (n := 29) (by
    rw [hn]
    have : (a : ℝ) ≤ 4 := by exact_mod_cast h1
    norm_num
    linarith)
  rw [hn] at hb
  refine le_trans ?_ ((Complex.abs_re_le_norm _).trans hb)
  refine le_of_eq (congrArg _ ?_)
  rw [Complex.sub_re, Complex.exp_ofReal_mul_I_re]
  congr 1
  rw [cosSeries_eq_sum, Complex.re_sum]
  simp only [sum_range_succ, sum_range_zero]
  have odd : ∀ m : ℕ, ((((a : ℝ) : ℂ) * Complex.I) ^ (2 * m + 1) / ((2 * m + 1).factorial : ℂ)).re = 0 := by
    intro m
    have : (((a : ℝ) : ℂ) * Complex.I) ^ (2 * m + 1) / ((2 * m + 1).factorial : ℂ) =
        (((-1) ^ m * (a : ℝ) ^ (2 * m + 1) / (2 * m + 1).factorial : ℝ) : ℂ) * Complex.I := by
      push_cast
      rw [mul_pow, pow_succ Complex.I, pow_mul Complex.I, Complex.I_sq]
      ring
    rw [this, Complex.re_ofReal_mul, Complex.I_re, mul_zero]
  have even : ∀ m : ℕ, ((((a : ℝ) : ℂ) * Complex.I) ^ (2 * m) / ((2 * m).factorial : ℂ)).re =
      (-1) ^ m * (a : ℝ) ^ (2 * m) / (2 * m).factorial := by
    intro m
    have : (((a : ℝ) : ℂ) * Complex.I) ^ (2 * m) / ((2 * m).factorial : ℂ) =
        (((-1) ^ m * (a : ℝ) ^ (2 * m) / (2 * m).factorial : ℝ) : ℂ) := by
      push_cast
      rw [mul_pow, pow_mul Complex.I, Complex.I_sq]
      ring
    rw [this, Complex.ofReal_re]
  have o := fun m => odd m
  have e := fun m => even m
  rw [e 0, o 0, e 1, o 1, e 2, o 2, e 3, o 3, e 4, o 4, e 5, o 5, e 6, o 6, e 7, o 7, e 8, o 8, e 9, o 9, e 10, o 10,
    e 11, o 11, e 12, o 12, e 13, o 13, e 14]
  push_cast
  simp only [Nat.factorial]
  push_cast
  ring

/-- The left gain of a pan is within 10 ^ -20 of the cosine of its angle (R7). -/
theorem panLeftOf_close {p : ℤ} (h0 : -100 ≤ p) (h1 : p ≤ 100) :
    |(panLeftOf p : ℝ) - Real.cos (Real.pi * (p + 100) / 400)| ≤ 1 / 10 ^ 20 := by
  unfold panLeftOf
  split
  · next h => subst h; norm_num
  split
  · next h =>
    subst h
    rw [show Real.pi * (((100 : ℤ) : ℝ) + 100) / 400 = Real.pi / 2 by push_cast; ring, Real.cos_pi_div_two]
    norm_num
  dsimp only
  set a : ℚ := piRat * (p + 100) / 400 with ha
  have hp0 : (0 : ℚ) ≤ p + 100 := by exact_mod_cast (by omega : (0 : ℤ) ≤ p + 100)
  have hp1 : (p : ℚ) + 100 ≤ 200 := by exact_mod_cast (by omega : p + 100 ≤ 200)
  have hpi : (piRat : ℚ) ≤ 32 / 10 ∧ (0 : ℚ) ≤ piRat := by norm_num [piRat]
  have a0 : 0 ≤ a := by rw [ha]; have := mul_nonneg hpi.2 hp0; linarith
  have a1 : a ≤ 16 / 10 := by rw [ha]; nlinarith [hpi.1, hpi.2]
  have s := cos_sub_cosSeries_le a0 (by linarith)
  have e : (a : ℝ) ^ 29 / (29).factorial * 2 ≤ 1 / 10 ^ 22 := by
    have h : (a : ℝ) ≤ 16 / 10 := by
      have := (Rat.cast_le (K := ℝ)).2 a1; push_cast at this ⊢; exact this
    have := pow_le_pow_left₀ (by exact_mod_cast a0) h 29
    calc _ ≤ (16 / 10 : ℝ) ^ 29 / (29).factorial * 2 := by gcongr
      _ ≤ _ := by norm_num [Nat.factorial]
  have pi : |((piRat : ℚ) : ℝ) - Real.pi| ≤ 1 / 10 ^ 20 := by
    have u := Real.pi_gt_d20
    have v := Real.pi_lt_d20
    rw [abs_le]
    constructor <;> norm_num [piRat] at u v ⊢ <;> linarith
  have near : |(a : ℝ) - Real.pi * (p + 100) / 400| ≤ 1 / 10 ^ 20 / 2 := by
    rw [ha]
    push_cast
    have q0 : (0 : ℝ) ≤ p + 100 := by exact_mod_cast (by omega : (0 : ℤ) ≤ p + 100)
    have q1 : (p : ℝ) + 100 ≤ 200 := by exact_mod_cast (by omega : p + 100 ≤ 200)
    rw [show ∀ u v w : ℝ, u * w / 400 - v * w / 400 = (u - v) * (w / 400) by intros; ring, abs_mul,
      abs_of_nonneg (by linarith : (0 : ℝ) ≤ ((p : ℝ) + 100) / 400)]
    calc _ ≤ 1 / 10 ^ 20 * (1 / 2 : ℝ) := by
          refine mul_le_mul pi (by linarith) (by linarith) (by norm_num)
      _ = _ := by ring
  have c := (Real.abs_cos_sub_cos_le (a : ℝ) (Real.pi * (p + 100) / 400)).trans near
  have s' := abs_le.1 (s.trans e)
  have c' := abs_le.1 c
  rw [abs_le]
  constructor <;> linarith [s'.1, s'.2, c'.1, c'.2]

/-- The right gain of a pan is within 10 ^ -20 of the sine of its angle (R7). -/
theorem panRightOf_close {p : ℤ} (h0 : -100 ≤ p) (h1 : p ≤ 100) :
    |(panRightOf p : ℝ) - Real.sin (Real.pi * (p + 100) / 400)| ≤ 1 / 10 ^ 20 := by
  have h := panLeftOf_close (p := -p) (by omega) (by omega)
  rw [show Real.pi * (((-p : ℤ) : ℝ) + 100) / 400 = Real.pi / 2 - Real.pi * (p + 100) / 400 by push_cast; ring,
    Real.cos_pi_div_two_sub] at h
  exact h

end Sys2Proof.Machine
end

