-- ==== Sys2Proof/Laws/Memory.lean ====
section
/-! SUPPORT. Exchange memory: every operation keeps the canonical form, what a read gives after a write, and which bytes
the part's writes can change. -/

namespace Sys2Proof.Machine

/-! ### The canonical form -/

theorem Memory.wfFrom_mono {lo lo' : Nat} {m : Memory} (h : Memory.wfFrom lo m = true) (k : lo' ≤ lo) :
    Memory.wfFrom lo' m = true := by
  cases m with
  | nil => rfl
  | cons c rest =>
    simp only [Memory.wfFrom, Bool.and_eq_true, decide_eq_true_eq] at *
    exact ⟨⟨⟨k.trans h.1.1.1, h.1.1.2⟩, h.1.2⟩, h.2⟩

theorem Memory.insert_wfFrom {lo a : Nat} {m : Memory} (x : Byte) (h : Memory.wfFrom lo m = true) (hlo : lo ≤ a)
    (ha : a < 0x10000) : Memory.wfFrom lo (Memory.insert m a x) = true := by
  induction m generalizing lo with
  | nil => unfold Memory.insert; split <;> simp_all [Memory.wfFrom]
  | cons c rest ih =>
    obtain ⟨k, y⟩ := c
    simp only [Memory.wfFrom, Bool.and_eq_true, decide_eq_true_eq, bne_iff_ne, ne_eq] at h
    obtain ⟨⟨⟨h1, h2⟩, h3⟩, h4⟩ := h
    unfold Memory.insert
    split
    · split
      · simp only [Memory.wfFrom, Bool.and_eq_true, decide_eq_true_eq, bne_iff_ne, ne_eq]
        exact ⟨⟨⟨h1, h2⟩, h3⟩, h4⟩
      · simp only [Memory.wfFrom, Bool.and_eq_true, decide_eq_true_eq, bne_iff_ne, ne_eq]
        refine ⟨⟨⟨hlo, ha⟩, by assumption⟩, ⟨⟨by omega, h2⟩, h3⟩, h4⟩
    · split
      · split
        · exact Memory.wfFrom_mono h4 (by omega)
        · simp_all [Memory.wfFrom]
      · simp only [Memory.wfFrom, Bool.and_eq_true, decide_eq_true_eq, bne_iff_ne, ne_eq]
        exact ⟨⟨⟨h1, h2⟩, h3⟩, ih h4 (by omega)⟩

theorem Memory.write_wf {m : Memory} (a : Nat) (x : Byte) (h : m.wf = true) : (m.write a x).wf = true := by
  unfold Memory.write; split
  · exact Memory.insert_wfFrom x h (Nat.zero_le a) (by assumption)
  · exact h

theorem Memory.writeWord_wf {m : Memory} (a : Nat) (w : Word) (h : m.wf = true) : (m.writeWord a w).wf = true :=
  Memory.write_wf _ _ (Memory.write_wf _ _ h)

theorem Memory.partWrite_wf {m : Memory} (x : Nat × Word) (h : m.wf = true) : (m.partWrite x).wf = true := by
  unfold Memory.partWrite; split
  · exact Memory.writeWord_wf _ _ h
  · exact h

theorem Memory.partWrites_wf {m : Memory} (l : List (Nat × Word)) (h : m.wf = true) : (m.partWrites l).wf = true := by
  induction l generalizing m with
  | nil => exact h
  | cons x l ih => exact ih (Memory.partWrite_wf x h)

theorem hostAccess_wf {s : State} (acc : HostAccess) (h : s.mem.wf = true) : (hostAccess acc s).mem.wf = true := by
  cases acc with
  | read w => exact h
  | write w v => exact Memory.writeWord_wf _ _ h

theorem endBurst_wf {s : State} (h : s.mem.wf = true) : (endBurst s).mem.wf = true := by
  unfold endBurst; split
  · exact h
  · exact hostAccess_wf _ h

/-! ### Reads after writes -/

theorem Memory.read_below {lo b : Nat} {m : Memory} (h : Memory.wfFrom lo m = true) (hb : b < lo) : m.read b = 0 := by
  cases m with
  | nil => rfl
  | cons c rest =>
    obtain ⟨k, y⟩ := c
    simp only [Memory.wfFrom, Bool.and_eq_true, decide_eq_true_eq] at h
    unfold Memory.read
    rw [if_neg (by omega), if_pos (by omega)]

theorem Memory.read_insert {lo : Nat} {m : Memory} (h : Memory.wfFrom lo m = true) (a : Nat) (x : Byte) (b : Nat) :
    (Memory.insert m a x).read b = if b = a then x else m.read b := by
  induction m generalizing lo with
  | nil =>
    unfold Memory.insert; split
    · simp_all [Memory.read]
    · by_cases hb : b = a
      · subst hb; simp only [Memory.read, if_pos]
      · rw [if_neg hb]; unfold Memory.read
        rw [if_neg (Ne.symm hb)]; split <;> rfl
  | cons c rest ih =>
    obtain ⟨k, y⟩ := c
    simp only [Memory.wfFrom, Bool.and_eq_true, decide_eq_true_eq] at h
    have low : ∀ b, b < k + 1 → Memory.read rest b = 0 := fun b hb => Memory.read_below h.2 hb
    unfold Memory.insert
    split
    · split
      · split
        · subst_vars; unfold Memory.read; rw [if_neg (by omega), if_pos (by omega)]
        · rfl
      · conv_lhs => unfold Memory.read
        split
        · simp_all
        · split
          · rw [if_neg (by omega)]; unfold Memory.read; rw [if_neg (by omega), if_pos (by omega)]
          · rw [if_neg (by omega)]
    · split
      · subst_vars
        split
        · split
          · subst_vars; exact low _ (by omega)
          · conv_rhs => unfold Memory.read
            rw [if_neg (by omega)]
            split
            · exact low _ (by omega)
            · rfl
        · by_cases hb : b = k
          · subst hb; simp only [Memory.read, if_pos]
          · rw [if_neg hb]; unfold Memory.read
            rw [if_neg (Ne.symm hb), if_neg (Ne.symm hb)]
      · conv_lhs => unfold Memory.read
        conv_rhs => rw [Memory.read]
        rw [ih h.2]
        (repeat' split) <;> first | rfl | omega

theorem Memory.read_write {m : Memory} (h : m.wf = true) {a : Nat} (ha : a < 0x10000) (x : Byte) (b : Nat) :
    (m.write a x).read b = if b = a then x else m.read b := by
  unfold Memory.write; rw [if_pos ha]; exact Memory.read_insert h a x b

/-- A byte apart from both bytes of the word written. -/
theorem Memory.read_writeWord_other {m : Memory} (h : m.wf = true) (a : Nat) (w : Word) {b : Nat} (h0 : b ≠ a)
    (h1 : b ≠ a + 1) : (m.writeWord a w).read b = m.read b := by
  have other : ∀ {m : Memory} (c : Nat) (x : Byte), m.wf = true → b ≠ c → (m.write c x).read b = m.read b := by
    intro m c x hm hc
    unfold Memory.write; split
    · rw [Memory.read_insert hm, if_neg hc]
    · rfl
  unfold Memory.writeWord
  rw [other _ _ (Memory.write_wf _ _ h) h1, other _ _ h h0]

/-- A word written is the word read. -/
theorem Memory.readWord_writeWord {m : Memory} (h : m.wf = true) {a : Nat} (ha : a + 1 < 0x10000) (w : Word) :
    (m.writeWord a w).readWord a = w := by
  unfold Memory.readWord Memory.writeWord
  rw [Memory.read_write (Memory.write_wf _ _ h) ha, Memory.read_write (Memory.write_wf _ _ h) ha, if_neg (by omega),
    if_pos rfl, Memory.read_write h (by omega), if_pos rfl]
  unfold wordOfBytes lowByte highByte
  apply BitVec.eq_of_getLsbD_eq
  intro i hi
  rw [BitVec.getLsbD_append]
  split
  · rw [BitVec.getLsbD_setWidth]; simp; omega
  · rw [BitVec.getLsbD_setWidth, BitVec.getLsbD_ushiftRight, Nat.add_sub_cancel' (by omega)]
    simp; omega

/-! ### What the part's writes leave -/

theorem Memory.read_partWrites_host {m : Memory} (l : List (Nat × Word)) (h : m.wf = true) {b : Nat}
    (hb : partByte b = false) : (m.partWrites l).read b = m.read b := by
  induction l generalizing m with
  | nil => rfl
  | cons x l ih =>
    have step : (m.partWrite x).read b = m.read b := by
      unfold Memory.partWrite; split
      · rename_i hx
        simp only [Bool.and_eq_true] at hx
        apply Memory.read_writeWord_other h
        · rintro rfl; simp [hx.1] at hb
        · rintro rfl; simp [hx.2] at hb
      · rfl
    exact (ih (Memory.partWrite_wf x h)).trans step

/-- A byte that no word of the part's writes covers. -/
theorem Memory.read_partWrites_other {m : Memory} (l : List (Nat × Word)) (h : m.wf = true) {b : Nat}
    (hb : ∀ x ∈ l, b ≠ x.1 ∧ b ≠ x.1 + 1) : (m.partWrites l).read b = m.read b := by
  induction l generalizing m with
  | nil => rfl
  | cons x l ih =>
    have step : (m.partWrite x).read b = m.read b := by
      unfold Memory.partWrite; split
      · exact Memory.read_writeWord_other h _ _ (hb x List.mem_cons_self).1 (hb x List.mem_cons_self).2
      · rfl
    exact (ih (Memory.partWrite_wf x h) fun y hy => hb y (List.mem_cons_of_mem _ hy)).trans step

/-! ### Lists of a fixed length -/

@[simp] theorem putAt_length {α : Type} (n i : Nat) (x d : α) (l : List α) : (putAt n i x d l).length = n := by
  simp [putAt]

theorem putAt_getD {α : Type} {n i : Nat} (hi : i < n) (x d : α) (l : List α) (j : Nat) :
    (putAt n i x d l).getD j d = if j = i then x else if j < n then l.getD j d else d := by
  simp only [putAt, List.getD_eq_getElem?_getD, List.getElem?_map]
  by_cases hj : j < n
  · rw [List.getElem?_range hj]
    simp [hj]
  · have hji : j ≠ i := by omega
    rw [List.getElem?_eq_none (by simpa using hj)]
    simp [hji, hj]

/-- The entry replaced reads as the new one. -/
theorem putAt_getD_self {α : Type} {n i : Nat} (hi : i < n) (x d : α) (l : List α) : (putAt n i x d l).getD i d = x := by
  rw [putAt_getD hi, if_pos rfl]

/-- Every other of the first `n` entries stays. -/
theorem putAt_getD_other {α : Type} {n i j : Nat} (hi : i < n) (hj : j < n) (hij : j ≠ i) (x d : α) (l : List α) :
    (putAt n i x d l).getD j d = l.getD j d := by
  rw [putAt_getD hi, if_neg hij, if_pos hj]

@[simp] theorem slot_setSlot_self {i : Nat} (hi : i < 32) (x : Slot) (s : State) : (setSlot i x s).slot i = x :=
  putAt_getD_self hi _ _ _

theorem slot_setSlot_other {i j : Nat} (hi : i < 32) (hj : j < 32) (hij : j ≠ i) (x : Slot) (s : State) :
    (setSlot i x s).slot j = s.slot j := putAt_getD_other hi hj hij _ _ _

end Sys2Proof.Machine
end

