-- ==== Sys2Proof/Laws/State.lean ====
section
/-! SUPPORT. What each update of the state leaves and sets, field by field; every lemma is true by rfl. -/

namespace Sys2Proof.Machine

variable (s : State)

/-! ### setDisp -/

@[simp] theorem setDisp_pending (d : Dispatcher) : (setDisp d s).pending = s.pending := rfl
@[simp] theorem setDisp_mem (d : Dispatcher) : (setDisp d s).mem = s.mem := rfl
@[simp] theorem setDisp_writes (d : Dispatcher) : (setDisp d s).writes = s.writes := rfl
@[simp] theorem setDisp_frames (d : Dispatcher) : (setDisp d s).frames = s.frames := rfl
@[simp] theorem setDisp_opened (d : Dispatcher) : (setDisp d s).opened = s.opened := rfl
@[simp] theorem setDisp_delivering (d : Dispatcher) : (setDisp d s).delivering = s.delivering := rfl
@[simp] theorem setDisp_resetHeld (d : Dispatcher) : (setDisp d s).resetHeld = s.resetHeld := rfl
@[simp] theorem setDisp_stamp (d : Dispatcher) : (setDisp d s).stamp = s.stamp := rfl
@[simp] theorem setDisp_disp (d : Dispatcher) : (setDisp d s).disp = d := rfl
@[simp] theorem setDisp_lane (d : Dispatcher) : (setDisp d s).lane = s.lane := rfl
@[simp] theorem setDisp_lines (d : Dispatcher) : (setDisp d s).lines = s.lines := rfl
@[simp] theorem setDisp_scene (d : Dispatcher) : (setDisp d s).scene = s.scene := rfl
@[simp] theorem setDisp_tempo (d : Dispatcher) : (setDisp d s).tempo = s.tempo := rfl
@[simp] theorem setDisp_tuner (d : Dispatcher) : (setDisp d s).tuner = s.tuner := rfl
@[simp] theorem setDisp_scanner (d : Dispatcher) : (setDisp d s).scanner = s.scanner := rfl
@[simp] theorem setDisp_pedals (d : Dispatcher) : (setDisp d s).pedals = s.pedals := rfl
@[simp] theorem setDisp_bind (d : Dispatcher) : (setDisp d s).bind = s.bind := rfl
@[simp] theorem setDisp_link (d : Dispatcher) : (setDisp d s).link = s.link := rfl
@[simp] theorem setDisp_lamps (d : Dispatcher) : (setDisp d s).lamps = s.lamps := rfl

/-! ### setLane -/

@[simp] theorem setLane_pending (e : LaneEngine) : (setLane e s).pending = s.pending := rfl
@[simp] theorem setLane_mem (e : LaneEngine) : (setLane e s).mem = s.mem := rfl
@[simp] theorem setLane_writes (e : LaneEngine) : (setLane e s).writes = s.writes := rfl
@[simp] theorem setLane_frames (e : LaneEngine) : (setLane e s).frames = s.frames := rfl
@[simp] theorem setLane_opened (e : LaneEngine) : (setLane e s).opened = s.opened := rfl
@[simp] theorem setLane_delivering (e : LaneEngine) : (setLane e s).delivering = s.delivering := rfl
@[simp] theorem setLane_resetHeld (e : LaneEngine) : (setLane e s).resetHeld = s.resetHeld := rfl
@[simp] theorem setLane_stamp (e : LaneEngine) : (setLane e s).stamp = s.stamp := rfl
@[simp] theorem setLane_disp (e : LaneEngine) : (setLane e s).disp = s.disp := rfl
@[simp] theorem setLane_lane (e : LaneEngine) : (setLane e s).lane = e := rfl
@[simp] theorem setLane_lines (e : LaneEngine) : (setLane e s).lines = s.lines := rfl
@[simp] theorem setLane_scene (e : LaneEngine) : (setLane e s).scene = s.scene := rfl
@[simp] theorem setLane_tempo (e : LaneEngine) : (setLane e s).tempo = s.tempo := rfl
@[simp] theorem setLane_tuner (e : LaneEngine) : (setLane e s).tuner = s.tuner := rfl
@[simp] theorem setLane_scanner (e : LaneEngine) : (setLane e s).scanner = s.scanner := rfl
@[simp] theorem setLane_pedals (e : LaneEngine) : (setLane e s).pedals = s.pedals := rfl
@[simp] theorem setLane_bind (e : LaneEngine) : (setLane e s).bind = s.bind := rfl
@[simp] theorem setLane_link (e : LaneEngine) : (setLane e s).link = s.link := rfl
@[simp] theorem setLane_lamps (e : LaneEngine) : (setLane e s).lamps = s.lamps := rfl

/-! ### setBanks -/

@[simp] theorem setBanks_pending (p : PerBank Bank) : (setBanks p s).pending = s.pending := rfl
@[simp] theorem setBanks_mem (p : PerBank Bank) : (setBanks p s).mem = s.mem := rfl
@[simp] theorem setBanks_writes (p : PerBank Bank) : (setBanks p s).writes = s.writes := rfl
@[simp] theorem setBanks_frames (p : PerBank Bank) : (setBanks p s).frames = s.frames := rfl
@[simp] theorem setBanks_opened (p : PerBank Bank) : (setBanks p s).opened = s.opened := rfl
@[simp] theorem setBanks_delivering (p : PerBank Bank) : (setBanks p s).delivering = s.delivering := rfl
@[simp] theorem setBanks_resetHeld (p : PerBank Bank) : (setBanks p s).resetHeld = s.resetHeld := rfl
@[simp] theorem setBanks_stamp (p : PerBank Bank) : (setBanks p s).stamp = s.stamp := rfl
@[simp] theorem setBanks_disp (p : PerBank Bank) : (setBanks p s).disp = s.disp := rfl
@[simp] theorem setBanks_lane (p : PerBank Bank) : (setBanks p s).lane = { s.lane with banks := p } := rfl
@[simp] theorem setBanks_lines (p : PerBank Bank) : (setBanks p s).lines = s.lines := rfl
@[simp] theorem setBanks_scene (p : PerBank Bank) : (setBanks p s).scene = s.scene := rfl
@[simp] theorem setBanks_tempo (p : PerBank Bank) : (setBanks p s).tempo = s.tempo := rfl
@[simp] theorem setBanks_tuner (p : PerBank Bank) : (setBanks p s).tuner = s.tuner := rfl
@[simp] theorem setBanks_scanner (p : PerBank Bank) : (setBanks p s).scanner = s.scanner := rfl
@[simp] theorem setBanks_pedals (p : PerBank Bank) : (setBanks p s).pedals = s.pedals := rfl
@[simp] theorem setBanks_bind (p : PerBank Bank) : (setBanks p s).bind = s.bind := rfl
@[simp] theorem setBanks_link (p : PerBank Bank) : (setBanks p s).link = s.link := rfl
@[simp] theorem setBanks_lamps (p : PerBank Bank) : (setBanks p s).lamps = s.lamps := rfl

/-! ### setLines -/

@[simp] theorem setLines_pending (l : LineMemory) : (setLines l s).pending = s.pending := rfl
@[simp] theorem setLines_mem (l : LineMemory) : (setLines l s).mem = s.mem := rfl
@[simp] theorem setLines_writes (l : LineMemory) : (setLines l s).writes = s.writes := rfl
@[simp] theorem setLines_frames (l : LineMemory) : (setLines l s).frames = s.frames := rfl
@[simp] theorem setLines_opened (l : LineMemory) : (setLines l s).opened = s.opened := rfl
@[simp] theorem setLines_delivering (l : LineMemory) : (setLines l s).delivering = s.delivering := rfl
@[simp] theorem setLines_resetHeld (l : LineMemory) : (setLines l s).resetHeld = s.resetHeld := rfl
@[simp] theorem setLines_stamp (l : LineMemory) : (setLines l s).stamp = s.stamp := rfl
@[simp] theorem setLines_disp (l : LineMemory) : (setLines l s).disp = s.disp := rfl
@[simp] theorem setLines_lane (l : LineMemory) : (setLines l s).lane = s.lane := rfl
@[simp] theorem setLines_lines (l : LineMemory) : (setLines l s).lines = l := rfl
@[simp] theorem setLines_scene (l : LineMemory) : (setLines l s).scene = s.scene := rfl
@[simp] theorem setLines_tempo (l : LineMemory) : (setLines l s).tempo = s.tempo := rfl
@[simp] theorem setLines_tuner (l : LineMemory) : (setLines l s).tuner = s.tuner := rfl
@[simp] theorem setLines_scanner (l : LineMemory) : (setLines l s).scanner = s.scanner := rfl
@[simp] theorem setLines_pedals (l : LineMemory) : (setLines l s).pedals = s.pedals := rfl
@[simp] theorem setLines_bind (l : LineMemory) : (setLines l s).bind = s.bind := rfl
@[simp] theorem setLines_link (l : LineMemory) : (setLines l s).link = s.link := rfl
@[simp] theorem setLines_lamps (l : LineMemory) : (setLines l s).lamps = s.lamps := rfl

/-! ### setScene -/

@[simp] theorem setScene_pending (u : SceneUnit) : (setScene u s).pending = s.pending := rfl
@[simp] theorem setScene_mem (u : SceneUnit) : (setScene u s).mem = s.mem := rfl
@[simp] theorem setScene_writes (u : SceneUnit) : (setScene u s).writes = s.writes := rfl
@[simp] theorem setScene_frames (u : SceneUnit) : (setScene u s).frames = s.frames := rfl
@[simp] theorem setScene_opened (u : SceneUnit) : (setScene u s).opened = s.opened := rfl
@[simp] theorem setScene_delivering (u : SceneUnit) : (setScene u s).delivering = s.delivering := rfl
@[simp] theorem setScene_resetHeld (u : SceneUnit) : (setScene u s).resetHeld = s.resetHeld := rfl
@[simp] theorem setScene_stamp (u : SceneUnit) : (setScene u s).stamp = s.stamp := rfl
@[simp] theorem setScene_disp (u : SceneUnit) : (setScene u s).disp = s.disp := rfl
@[simp] theorem setScene_lane (u : SceneUnit) : (setScene u s).lane = s.lane := rfl
@[simp] theorem setScene_lines (u : SceneUnit) : (setScene u s).lines = s.lines := rfl
@[simp] theorem setScene_scene (u : SceneUnit) : (setScene u s).scene = u := rfl
@[simp] theorem setScene_tempo (u : SceneUnit) : (setScene u s).tempo = s.tempo := rfl
@[simp] theorem setScene_tuner (u : SceneUnit) : (setScene u s).tuner = s.tuner := rfl
@[simp] theorem setScene_scanner (u : SceneUnit) : (setScene u s).scanner = s.scanner := rfl
@[simp] theorem setScene_pedals (u : SceneUnit) : (setScene u s).pedals = s.pedals := rfl
@[simp] theorem setScene_bind (u : SceneUnit) : (setScene u s).bind = s.bind := rfl
@[simp] theorem setScene_link (u : SceneUnit) : (setScene u s).link = s.link := rfl
@[simp] theorem setScene_lamps (u : SceneUnit) : (setScene u s).lamps = s.lamps := rfl

/-! ### setBankCtl -/

@[simp] theorem setBankCtl_pending (k : BankId) (x : BankControl) : (setBankCtl k x s).pending = s.pending := rfl
@[simp] theorem setBankCtl_mem (k : BankId) (x : BankControl) : (setBankCtl k x s).mem = s.mem := rfl
@[simp] theorem setBankCtl_writes (k : BankId) (x : BankControl) : (setBankCtl k x s).writes = s.writes := rfl
@[simp] theorem setBankCtl_frames (k : BankId) (x : BankControl) : (setBankCtl k x s).frames = s.frames := rfl
@[simp] theorem setBankCtl_opened (k : BankId) (x : BankControl) : (setBankCtl k x s).opened = s.opened := rfl
@[simp] theorem setBankCtl_delivering (k : BankId) (x : BankControl) : (setBankCtl k x s).delivering = s.delivering := rfl
@[simp] theorem setBankCtl_resetHeld (k : BankId) (x : BankControl) : (setBankCtl k x s).resetHeld = s.resetHeld := rfl
@[simp] theorem setBankCtl_stamp (k : BankId) (x : BankControl) : (setBankCtl k x s).stamp = s.stamp := rfl
@[simp] theorem setBankCtl_disp (k : BankId) (x : BankControl) : (setBankCtl k x s).disp = s.disp := rfl
@[simp] theorem setBankCtl_lane (k : BankId) (x : BankControl) : (setBankCtl k x s).lane = s.lane := rfl
@[simp] theorem setBankCtl_lines (k : BankId) (x : BankControl) : (setBankCtl k x s).lines = s.lines := rfl
@[simp] theorem setBankCtl_scene (k : BankId) (x : BankControl) : (setBankCtl k x s).scene = { s.scene with banks := s.scene.banks.set k x } := rfl
@[simp] theorem setBankCtl_tempo (k : BankId) (x : BankControl) : (setBankCtl k x s).tempo = s.tempo := rfl
@[simp] theorem setBankCtl_tuner (k : BankId) (x : BankControl) : (setBankCtl k x s).tuner = s.tuner := rfl
@[simp] theorem setBankCtl_scanner (k : BankId) (x : BankControl) : (setBankCtl k x s).scanner = s.scanner := rfl
@[simp] theorem setBankCtl_pedals (k : BankId) (x : BankControl) : (setBankCtl k x s).pedals = s.pedals := rfl
@[simp] theorem setBankCtl_bind (k : BankId) (x : BankControl) : (setBankCtl k x s).bind = s.bind := rfl
@[simp] theorem setBankCtl_link (k : BankId) (x : BankControl) : (setBankCtl k x s).link = s.link := rfl
@[simp] theorem setBankCtl_lamps (k : BankId) (x : BankControl) : (setBankCtl k x s).lamps = s.lamps := rfl

/-! ### setSceneState -/

@[simp] theorem setSceneState_pending (x : SceneState) : (setSceneState x s).pending = s.pending := rfl
@[simp] theorem setSceneState_mem (x : SceneState) : (setSceneState x s).mem = s.mem := rfl
@[simp] theorem setSceneState_writes (x : SceneState) : (setSceneState x s).writes = s.writes := rfl
@[simp] theorem setSceneState_frames (x : SceneState) : (setSceneState x s).frames = s.frames := rfl
@[simp] theorem setSceneState_opened (x : SceneState) : (setSceneState x s).opened = s.opened := rfl
@[simp] theorem setSceneState_delivering (x : SceneState) : (setSceneState x s).delivering = s.delivering := rfl
@[simp] theorem setSceneState_resetHeld (x : SceneState) : (setSceneState x s).resetHeld = s.resetHeld := rfl
@[simp] theorem setSceneState_stamp (x : SceneState) : (setSceneState x s).stamp = s.stamp := rfl
@[simp] theorem setSceneState_disp (x : SceneState) : (setSceneState x s).disp = s.disp := rfl
@[simp] theorem setSceneState_lane (x : SceneState) : (setSceneState x s).lane = s.lane := rfl
@[simp] theorem setSceneState_lines (x : SceneState) : (setSceneState x s).lines = s.lines := rfl
@[simp] theorem setSceneState_scene (x : SceneState) : (setSceneState x s).scene = { s.scene with state := x } := rfl
@[simp] theorem setSceneState_tempo (x : SceneState) : (setSceneState x s).tempo = s.tempo := rfl
@[simp] theorem setSceneState_tuner (x : SceneState) : (setSceneState x s).tuner = s.tuner := rfl
@[simp] theorem setSceneState_scanner (x : SceneState) : (setSceneState x s).scanner = s.scanner := rfl
@[simp] theorem setSceneState_pedals (x : SceneState) : (setSceneState x s).pedals = s.pedals := rfl
@[simp] theorem setSceneState_bind (x : SceneState) : (setSceneState x s).bind = s.bind := rfl
@[simp] theorem setSceneState_link (x : SceneState) : (setSceneState x s).link = s.link := rfl
@[simp] theorem setSceneState_lamps (x : SceneState) : (setSceneState x s).lamps = s.lamps := rfl

/-! ### setLatch -/

@[simp] theorem setLatch_pending (x : Option Request) : (setLatch x s).pending = s.pending := rfl
@[simp] theorem setLatch_mem (x : Option Request) : (setLatch x s).mem = s.mem := rfl
@[simp] theorem setLatch_writes (x : Option Request) : (setLatch x s).writes = s.writes := rfl
@[simp] theorem setLatch_frames (x : Option Request) : (setLatch x s).frames = s.frames := rfl
@[simp] theorem setLatch_opened (x : Option Request) : (setLatch x s).opened = s.opened := rfl
@[simp] theorem setLatch_delivering (x : Option Request) : (setLatch x s).delivering = s.delivering := rfl
@[simp] theorem setLatch_resetHeld (x : Option Request) : (setLatch x s).resetHeld = s.resetHeld := rfl
@[simp] theorem setLatch_stamp (x : Option Request) : (setLatch x s).stamp = s.stamp := rfl
@[simp] theorem setLatch_disp (x : Option Request) : (setLatch x s).disp = s.disp := rfl
@[simp] theorem setLatch_lane (x : Option Request) : (setLatch x s).lane = s.lane := rfl
@[simp] theorem setLatch_lines (x : Option Request) : (setLatch x s).lines = s.lines := rfl
@[simp] theorem setLatch_scene (x : Option Request) : (setLatch x s).scene = { s.scene with latch := x } := rfl
@[simp] theorem setLatch_tempo (x : Option Request) : (setLatch x s).tempo = s.tempo := rfl
@[simp] theorem setLatch_tuner (x : Option Request) : (setLatch x s).tuner = s.tuner := rfl
@[simp] theorem setLatch_scanner (x : Option Request) : (setLatch x s).scanner = s.scanner := rfl
@[simp] theorem setLatch_pedals (x : Option Request) : (setLatch x s).pedals = s.pedals := rfl
@[simp] theorem setLatch_bind (x : Option Request) : (setLatch x s).bind = s.bind := rfl
@[simp] theorem setLatch_link (x : Option Request) : (setLatch x s).link = s.link := rfl
@[simp] theorem setLatch_lamps (x : Option Request) : (setLatch x s).lamps = s.lamps := rfl

/-! ### setTempoUnit -/

@[simp] theorem setTempoUnit_pending (t : TempoUnit) : (setTempoUnit t s).pending = s.pending := rfl
@[simp] theorem setTempoUnit_mem (t : TempoUnit) : (setTempoUnit t s).mem = s.mem := rfl
@[simp] theorem setTempoUnit_writes (t : TempoUnit) : (setTempoUnit t s).writes = s.writes := rfl
@[simp] theorem setTempoUnit_frames (t : TempoUnit) : (setTempoUnit t s).frames = s.frames := rfl
@[simp] theorem setTempoUnit_opened (t : TempoUnit) : (setTempoUnit t s).opened = s.opened := rfl
@[simp] theorem setTempoUnit_delivering (t : TempoUnit) : (setTempoUnit t s).delivering = s.delivering := rfl
@[simp] theorem setTempoUnit_resetHeld (t : TempoUnit) : (setTempoUnit t s).resetHeld = s.resetHeld := rfl
@[simp] theorem setTempoUnit_stamp (t : TempoUnit) : (setTempoUnit t s).stamp = s.stamp := rfl
@[simp] theorem setTempoUnit_disp (t : TempoUnit) : (setTempoUnit t s).disp = s.disp := rfl
@[simp] theorem setTempoUnit_lane (t : TempoUnit) : (setTempoUnit t s).lane = s.lane := rfl
@[simp] theorem setTempoUnit_lines (t : TempoUnit) : (setTempoUnit t s).lines = s.lines := rfl
@[simp] theorem setTempoUnit_scene (t : TempoUnit) : (setTempoUnit t s).scene = s.scene := rfl
@[simp] theorem setTempoUnit_tempo (t : TempoUnit) : (setTempoUnit t s).tempo = t := rfl
@[simp] theorem setTempoUnit_tuner (t : TempoUnit) : (setTempoUnit t s).tuner = s.tuner := rfl
@[simp] theorem setTempoUnit_scanner (t : TempoUnit) : (setTempoUnit t s).scanner = s.scanner := rfl
@[simp] theorem setTempoUnit_pedals (t : TempoUnit) : (setTempoUnit t s).pedals = s.pedals := rfl
@[simp] theorem setTempoUnit_bind (t : TempoUnit) : (setTempoUnit t s).bind = s.bind := rfl
@[simp] theorem setTempoUnit_link (t : TempoUnit) : (setTempoUnit t s).link = s.link := rfl
@[simp] theorem setTempoUnit_lamps (t : TempoUnit) : (setTempoUnit t s).lamps = s.lamps := rfl

/-! ### setTuner -/

@[simp] theorem setTuner_pending (t : Tuner) : (setTuner t s).pending = s.pending := rfl
@[simp] theorem setTuner_mem (t : Tuner) : (setTuner t s).mem = s.mem := rfl
@[simp] theorem setTuner_writes (t : Tuner) : (setTuner t s).writes = s.writes := rfl
@[simp] theorem setTuner_frames (t : Tuner) : (setTuner t s).frames = s.frames := rfl
@[simp] theorem setTuner_opened (t : Tuner) : (setTuner t s).opened = s.opened := rfl
@[simp] theorem setTuner_delivering (t : Tuner) : (setTuner t s).delivering = s.delivering := rfl
@[simp] theorem setTuner_resetHeld (t : Tuner) : (setTuner t s).resetHeld = s.resetHeld := rfl
@[simp] theorem setTuner_stamp (t : Tuner) : (setTuner t s).stamp = s.stamp := rfl
@[simp] theorem setTuner_disp (t : Tuner) : (setTuner t s).disp = s.disp := rfl
@[simp] theorem setTuner_lane (t : Tuner) : (setTuner t s).lane = s.lane := rfl
@[simp] theorem setTuner_lines (t : Tuner) : (setTuner t s).lines = s.lines := rfl
@[simp] theorem setTuner_scene (t : Tuner) : (setTuner t s).scene = s.scene := rfl
@[simp] theorem setTuner_tempo (t : Tuner) : (setTuner t s).tempo = s.tempo := rfl
@[simp] theorem setTuner_tuner (t : Tuner) : (setTuner t s).tuner = t := rfl
@[simp] theorem setTuner_scanner (t : Tuner) : (setTuner t s).scanner = s.scanner := rfl
@[simp] theorem setTuner_pedals (t : Tuner) : (setTuner t s).pedals = s.pedals := rfl
@[simp] theorem setTuner_bind (t : Tuner) : (setTuner t s).bind = s.bind := rfl
@[simp] theorem setTuner_link (t : Tuner) : (setTuner t s).link = s.link := rfl
@[simp] theorem setTuner_lamps (t : Tuner) : (setTuner t s).lamps = s.lamps := rfl

/-! ### setScanner -/

@[simp] theorem setScanner_pending (x : Scanner) : (setScanner x s).pending = s.pending := rfl
@[simp] theorem setScanner_mem (x : Scanner) : (setScanner x s).mem = s.mem := rfl
@[simp] theorem setScanner_writes (x : Scanner) : (setScanner x s).writes = s.writes := rfl
@[simp] theorem setScanner_frames (x : Scanner) : (setScanner x s).frames = s.frames := rfl
@[simp] theorem setScanner_opened (x : Scanner) : (setScanner x s).opened = s.opened := rfl
@[simp] theorem setScanner_delivering (x : Scanner) : (setScanner x s).delivering = s.delivering := rfl
@[simp] theorem setScanner_resetHeld (x : Scanner) : (setScanner x s).resetHeld = s.resetHeld := rfl
@[simp] theorem setScanner_stamp (x : Scanner) : (setScanner x s).stamp = s.stamp := rfl
@[simp] theorem setScanner_disp (x : Scanner) : (setScanner x s).disp = s.disp := rfl
@[simp] theorem setScanner_lane (x : Scanner) : (setScanner x s).lane = s.lane := rfl
@[simp] theorem setScanner_lines (x : Scanner) : (setScanner x s).lines = s.lines := rfl
@[simp] theorem setScanner_scene (x : Scanner) : (setScanner x s).scene = s.scene := rfl
@[simp] theorem setScanner_tempo (x : Scanner) : (setScanner x s).tempo = s.tempo := rfl
@[simp] theorem setScanner_tuner (x : Scanner) : (setScanner x s).tuner = s.tuner := rfl
@[simp] theorem setScanner_scanner (x : Scanner) : (setScanner x s).scanner = x := rfl
@[simp] theorem setScanner_pedals (x : Scanner) : (setScanner x s).pedals = s.pedals := rfl
@[simp] theorem setScanner_bind (x : Scanner) : (setScanner x s).bind = s.bind := rfl
@[simp] theorem setScanner_link (x : Scanner) : (setScanner x s).link = s.link := rfl
@[simp] theorem setScanner_lamps (x : Scanner) : (setScanner x s).lamps = s.lamps := rfl

/-! ### setLine -/

@[simp] theorem setLine_pending (n : Nat) (x : Line) : (setLine n x s).pending = s.pending := rfl
@[simp] theorem setLine_mem (n : Nat) (x : Line) : (setLine n x s).mem = s.mem := rfl
@[simp] theorem setLine_writes (n : Nat) (x : Line) : (setLine n x s).writes = s.writes := rfl
@[simp] theorem setLine_frames (n : Nat) (x : Line) : (setLine n x s).frames = s.frames := rfl
@[simp] theorem setLine_opened (n : Nat) (x : Line) : (setLine n x s).opened = s.opened := rfl
@[simp] theorem setLine_delivering (n : Nat) (x : Line) : (setLine n x s).delivering = s.delivering := rfl
@[simp] theorem setLine_resetHeld (n : Nat) (x : Line) : (setLine n x s).resetHeld = s.resetHeld := rfl
@[simp] theorem setLine_stamp (n : Nat) (x : Line) : (setLine n x s).stamp = s.stamp := rfl
@[simp] theorem setLine_disp (n : Nat) (x : Line) : (setLine n x s).disp = s.disp := rfl
@[simp] theorem setLine_lane (n : Nat) (x : Line) : (setLine n x s).lane = s.lane := rfl
@[simp] theorem setLine_lines (n : Nat) (x : Line) : (setLine n x s).lines = s.lines := rfl
@[simp] theorem setLine_scene (n : Nat) (x : Line) : (setLine n x s).scene = s.scene := rfl
@[simp] theorem setLine_tempo (n : Nat) (x : Line) : (setLine n x s).tempo = s.tempo := rfl
@[simp] theorem setLine_tuner (n : Nat) (x : Line) : (setLine n x s).tuner = s.tuner := rfl
@[simp] theorem setLine_scanner (n : Nat) (x : Line) : (setLine n x s).scanner = { s.scanner with lines := putAt 8 n x Line.reset s.scanner.lines } := rfl
@[simp] theorem setLine_pedals (n : Nat) (x : Line) : (setLine n x s).pedals = s.pedals := rfl
@[simp] theorem setLine_bind (n : Nat) (x : Line) : (setLine n x s).bind = s.bind := rfl
@[simp] theorem setLine_link (n : Nat) (x : Line) : (setLine n x s).link = s.link := rfl
@[simp] theorem setLine_lamps (n : Nat) (x : Line) : (setLine n x s).lamps = s.lamps := rfl

/-! ### setPedal -/

@[simp] theorem setPedal_pending (p : Nat) (x : Pedal) : (setPedal p x s).pending = s.pending := rfl
@[simp] theorem setPedal_mem (p : Nat) (x : Pedal) : (setPedal p x s).mem = s.mem := rfl
@[simp] theorem setPedal_writes (p : Nat) (x : Pedal) : (setPedal p x s).writes = s.writes := rfl
@[simp] theorem setPedal_frames (p : Nat) (x : Pedal) : (setPedal p x s).frames = s.frames := rfl
@[simp] theorem setPedal_opened (p : Nat) (x : Pedal) : (setPedal p x s).opened = s.opened := rfl
@[simp] theorem setPedal_delivering (p : Nat) (x : Pedal) : (setPedal p x s).delivering = s.delivering := rfl
@[simp] theorem setPedal_resetHeld (p : Nat) (x : Pedal) : (setPedal p x s).resetHeld = s.resetHeld := rfl
@[simp] theorem setPedal_stamp (p : Nat) (x : Pedal) : (setPedal p x s).stamp = s.stamp := rfl
@[simp] theorem setPedal_disp (p : Nat) (x : Pedal) : (setPedal p x s).disp = s.disp := rfl
@[simp] theorem setPedal_lane (p : Nat) (x : Pedal) : (setPedal p x s).lane = s.lane := rfl
@[simp] theorem setPedal_lines (p : Nat) (x : Pedal) : (setPedal p x s).lines = s.lines := rfl
@[simp] theorem setPedal_scene (p : Nat) (x : Pedal) : (setPedal p x s).scene = s.scene := rfl
@[simp] theorem setPedal_tempo (p : Nat) (x : Pedal) : (setPedal p x s).tempo = s.tempo := rfl
@[simp] theorem setPedal_tuner (p : Nat) (x : Pedal) : (setPedal p x s).tuner = s.tuner := rfl
@[simp] theorem setPedal_scanner (p : Nat) (x : Pedal) : (setPedal p x s).scanner = s.scanner := rfl
@[simp] theorem setPedal_pedals (p : Nat) (x : Pedal) : (setPedal p x s).pedals = putAt 2 p x Pedal.reset s.pedals := rfl
@[simp] theorem setPedal_bind (p : Nat) (x : Pedal) : (setPedal p x s).bind = s.bind := rfl
@[simp] theorem setPedal_link (p : Nat) (x : Pedal) : (setPedal p x s).link = s.link := rfl
@[simp] theorem setPedal_lamps (p : Nat) (x : Pedal) : (setPedal p x s).lamps = s.lamps := rfl

/-! ### setBind -/

@[simp] theorem setBind_pending (b : BindingUnit) : (setBind b s).pending = s.pending := rfl
@[simp] theorem setBind_mem (b : BindingUnit) : (setBind b s).mem = s.mem := rfl
@[simp] theorem setBind_writes (b : BindingUnit) : (setBind b s).writes = s.writes := rfl
@[simp] theorem setBind_frames (b : BindingUnit) : (setBind b s).frames = s.frames := rfl
@[simp] theorem setBind_opened (b : BindingUnit) : (setBind b s).opened = s.opened := rfl
@[simp] theorem setBind_delivering (b : BindingUnit) : (setBind b s).delivering = s.delivering := rfl
@[simp] theorem setBind_resetHeld (b : BindingUnit) : (setBind b s).resetHeld = s.resetHeld := rfl
@[simp] theorem setBind_stamp (b : BindingUnit) : (setBind b s).stamp = s.stamp := rfl
@[simp] theorem setBind_disp (b : BindingUnit) : (setBind b s).disp = s.disp := rfl
@[simp] theorem setBind_lane (b : BindingUnit) : (setBind b s).lane = s.lane := rfl
@[simp] theorem setBind_lines (b : BindingUnit) : (setBind b s).lines = s.lines := rfl
@[simp] theorem setBind_scene (b : BindingUnit) : (setBind b s).scene = s.scene := rfl
@[simp] theorem setBind_tempo (b : BindingUnit) : (setBind b s).tempo = s.tempo := rfl
@[simp] theorem setBind_tuner (b : BindingUnit) : (setBind b s).tuner = s.tuner := rfl
@[simp] theorem setBind_scanner (b : BindingUnit) : (setBind b s).scanner = s.scanner := rfl
@[simp] theorem setBind_pedals (b : BindingUnit) : (setBind b s).pedals = s.pedals := rfl
@[simp] theorem setBind_bind (b : BindingUnit) : (setBind b s).bind = b := rfl
@[simp] theorem setBind_link (b : BindingUnit) : (setBind b s).link = s.link := rfl
@[simp] theorem setBind_lamps (b : BindingUnit) : (setBind b s).lamps = s.lamps := rfl

/-! ### setLink -/

@[simp] theorem setLink_pending (l : Link) : (setLink l s).pending = s.pending := rfl
@[simp] theorem setLink_mem (l : Link) : (setLink l s).mem = s.mem := rfl
@[simp] theorem setLink_writes (l : Link) : (setLink l s).writes = s.writes := rfl
@[simp] theorem setLink_frames (l : Link) : (setLink l s).frames = s.frames := rfl
@[simp] theorem setLink_opened (l : Link) : (setLink l s).opened = s.opened := rfl
@[simp] theorem setLink_delivering (l : Link) : (setLink l s).delivering = s.delivering := rfl
@[simp] theorem setLink_resetHeld (l : Link) : (setLink l s).resetHeld = s.resetHeld := rfl
@[simp] theorem setLink_stamp (l : Link) : (setLink l s).stamp = s.stamp := rfl
@[simp] theorem setLink_disp (l : Link) : (setLink l s).disp = s.disp := rfl
@[simp] theorem setLink_lane (l : Link) : (setLink l s).lane = s.lane := rfl
@[simp] theorem setLink_lines (l : Link) : (setLink l s).lines = s.lines := rfl
@[simp] theorem setLink_scene (l : Link) : (setLink l s).scene = s.scene := rfl
@[simp] theorem setLink_tempo (l : Link) : (setLink l s).tempo = s.tempo := rfl
@[simp] theorem setLink_tuner (l : Link) : (setLink l s).tuner = s.tuner := rfl
@[simp] theorem setLink_scanner (l : Link) : (setLink l s).scanner = s.scanner := rfl
@[simp] theorem setLink_pedals (l : Link) : (setLink l s).pedals = s.pedals := rfl
@[simp] theorem setLink_bind (l : Link) : (setLink l s).bind = s.bind := rfl
@[simp] theorem setLink_link (l : Link) : (setLink l s).link = l := rfl
@[simp] theorem setLink_lamps (l : Link) : (setLink l s).lamps = s.lamps := rfl

/-! ### setHold -/

@[simp] theorem setHold_pending (h : Nat) (x : Hold) : (setHold h x s).pending = s.pending := rfl
@[simp] theorem setHold_mem (h : Nat) (x : Hold) : (setHold h x s).mem = s.mem := rfl
@[simp] theorem setHold_writes (h : Nat) (x : Hold) : (setHold h x s).writes = s.writes := rfl
@[simp] theorem setHold_frames (h : Nat) (x : Hold) : (setHold h x s).frames = s.frames := rfl
@[simp] theorem setHold_opened (h : Nat) (x : Hold) : (setHold h x s).opened = s.opened := rfl
@[simp] theorem setHold_delivering (h : Nat) (x : Hold) : (setHold h x s).delivering = s.delivering := rfl
@[simp] theorem setHold_resetHeld (h : Nat) (x : Hold) : (setHold h x s).resetHeld = s.resetHeld := rfl
@[simp] theorem setHold_stamp (h : Nat) (x : Hold) : (setHold h x s).stamp = s.stamp := rfl
@[simp] theorem setHold_disp (h : Nat) (x : Hold) : (setHold h x s).disp = s.disp := rfl
@[simp] theorem setHold_lane (h : Nat) (x : Hold) : (setHold h x s).lane = s.lane := rfl
@[simp] theorem setHold_lines (h : Nat) (x : Hold) : (setHold h x s).lines = s.lines := rfl
@[simp] theorem setHold_scene (h : Nat) (x : Hold) : (setHold h x s).scene = s.scene := rfl
@[simp] theorem setHold_tempo (h : Nat) (x : Hold) : (setHold h x s).tempo = s.tempo := rfl
@[simp] theorem setHold_tuner (h : Nat) (x : Hold) : (setHold h x s).tuner = s.tuner := rfl
@[simp] theorem setHold_scanner (h : Nat) (x : Hold) : (setHold h x s).scanner = s.scanner := rfl
@[simp] theorem setHold_pedals (h : Nat) (x : Hold) : (setHold h x s).pedals = s.pedals := rfl
@[simp] theorem setHold_bind (h : Nat) (x : Hold) : (setHold h x s).bind = s.bind := rfl
@[simp] theorem setHold_link (h : Nat) (x : Hold) : (setHold h x s).link = { s.link with holds := putAt 3 h x Hold.empty s.link.holds } := rfl
@[simp] theorem setHold_lamps (h : Nat) (x : Hold) : (setHold h x s).lamps = s.lamps := rfl

/-! ### setLamps -/

@[simp] theorem setLamps_pending (x : LampDriver) : (setLamps x s).pending = s.pending := rfl
@[simp] theorem setLamps_mem (x : LampDriver) : (setLamps x s).mem = s.mem := rfl
@[simp] theorem setLamps_writes (x : LampDriver) : (setLamps x s).writes = s.writes := rfl
@[simp] theorem setLamps_frames (x : LampDriver) : (setLamps x s).frames = s.frames := rfl
@[simp] theorem setLamps_opened (x : LampDriver) : (setLamps x s).opened = s.opened := rfl
@[simp] theorem setLamps_delivering (x : LampDriver) : (setLamps x s).delivering = s.delivering := rfl
@[simp] theorem setLamps_resetHeld (x : LampDriver) : (setLamps x s).resetHeld = s.resetHeld := rfl
@[simp] theorem setLamps_stamp (x : LampDriver) : (setLamps x s).stamp = s.stamp := rfl
@[simp] theorem setLamps_disp (x : LampDriver) : (setLamps x s).disp = s.disp := rfl
@[simp] theorem setLamps_lane (x : LampDriver) : (setLamps x s).lane = s.lane := rfl
@[simp] theorem setLamps_lines (x : LampDriver) : (setLamps x s).lines = s.lines := rfl
@[simp] theorem setLamps_scene (x : LampDriver) : (setLamps x s).scene = s.scene := rfl
@[simp] theorem setLamps_tempo (x : LampDriver) : (setLamps x s).tempo = s.tempo := rfl
@[simp] theorem setLamps_tuner (x : LampDriver) : (setLamps x s).tuner = s.tuner := rfl
@[simp] theorem setLamps_scanner (x : LampDriver) : (setLamps x s).scanner = s.scanner := rfl
@[simp] theorem setLamps_pedals (x : LampDriver) : (setLamps x s).pedals = s.pedals := rfl
@[simp] theorem setLamps_bind (x : LampDriver) : (setLamps x s).bind = s.bind := rfl
@[simp] theorem setLamps_link (x : LampDriver) : (setLamps x s).link = s.link := rfl
@[simp] theorem setLamps_lamps (x : LampDriver) : (setLamps x s).lamps = x := rfl

/-! ### setSlot -/

@[simp] theorem setSlot_pending (i : Nat) (x : Slot) : (setSlot i x s).pending = s.pending := rfl
@[simp] theorem setSlot_mem (i : Nat) (x : Slot) : (setSlot i x s).mem = s.mem := rfl
@[simp] theorem setSlot_writes (i : Nat) (x : Slot) : (setSlot i x s).writes = s.writes := rfl
@[simp] theorem setSlot_frames (i : Nat) (x : Slot) : (setSlot i x s).frames = s.frames := rfl
@[simp] theorem setSlot_opened (i : Nat) (x : Slot) : (setSlot i x s).opened = s.opened := rfl
@[simp] theorem setSlot_delivering (i : Nat) (x : Slot) : (setSlot i x s).delivering = s.delivering := rfl
@[simp] theorem setSlot_resetHeld (i : Nat) (x : Slot) : (setSlot i x s).resetHeld = s.resetHeld := rfl
@[simp] theorem setSlot_stamp (i : Nat) (x : Slot) : (setSlot i x s).stamp = s.stamp := rfl
@[simp] theorem setSlot_disp (i : Nat) (x : Slot) : (setSlot i x s).disp = { s.disp with slots := putAt 32 i x Slot.reset s.disp.slots } := rfl
@[simp] theorem setSlot_lane (i : Nat) (x : Slot) : (setSlot i x s).lane = s.lane := rfl
@[simp] theorem setSlot_lines (i : Nat) (x : Slot) : (setSlot i x s).lines = s.lines := rfl
@[simp] theorem setSlot_scene (i : Nat) (x : Slot) : (setSlot i x s).scene = s.scene := rfl
@[simp] theorem setSlot_tempo (i : Nat) (x : Slot) : (setSlot i x s).tempo = s.tempo := rfl
@[simp] theorem setSlot_tuner (i : Nat) (x : Slot) : (setSlot i x s).tuner = s.tuner := rfl
@[simp] theorem setSlot_scanner (i : Nat) (x : Slot) : (setSlot i x s).scanner = s.scanner := rfl
@[simp] theorem setSlot_pedals (i : Nat) (x : Slot) : (setSlot i x s).pedals = s.pedals := rfl
@[simp] theorem setSlot_bind (i : Nat) (x : Slot) : (setSlot i x s).bind = s.bind := rfl
@[simp] theorem setSlot_link (i : Nat) (x : Slot) : (setSlot i x s).link = s.link := rfl
@[simp] theorem setSlot_lamps (i : Nat) (x : Slot) : (setSlot i x s).lamps = s.lamps := rfl

/-! ### putWord -/

@[simp] theorem putWord_pending (a : Nat) (w : Word) : (putWord a w s).pending = s.pending := rfl
@[simp] theorem putWord_mem (a : Nat) (w : Word) : (putWord a w s).mem = s.mem := rfl
@[simp] theorem putWord_writes (a : Nat) (w : Word) : (putWord a w s).writes = s.writes ++ [(a, w)] := rfl
@[simp] theorem putWord_frames (a : Nat) (w : Word) : (putWord a w s).frames = s.frames := rfl
@[simp] theorem putWord_opened (a : Nat) (w : Word) : (putWord a w s).opened = s.opened := rfl
@[simp] theorem putWord_delivering (a : Nat) (w : Word) : (putWord a w s).delivering = s.delivering := rfl
@[simp] theorem putWord_resetHeld (a : Nat) (w : Word) : (putWord a w s).resetHeld = s.resetHeld := rfl
@[simp] theorem putWord_stamp (a : Nat) (w : Word) : (putWord a w s).stamp = s.stamp := rfl
@[simp] theorem putWord_disp (a : Nat) (w : Word) : (putWord a w s).disp = s.disp := rfl
@[simp] theorem putWord_lane (a : Nat) (w : Word) : (putWord a w s).lane = s.lane := rfl
@[simp] theorem putWord_lines (a : Nat) (w : Word) : (putWord a w s).lines = s.lines := rfl
@[simp] theorem putWord_scene (a : Nat) (w : Word) : (putWord a w s).scene = s.scene := rfl
@[simp] theorem putWord_tempo (a : Nat) (w : Word) : (putWord a w s).tempo = s.tempo := rfl
@[simp] theorem putWord_tuner (a : Nat) (w : Word) : (putWord a w s).tuner = s.tuner := rfl
@[simp] theorem putWord_scanner (a : Nat) (w : Word) : (putWord a w s).scanner = s.scanner := rfl
@[simp] theorem putWord_pedals (a : Nat) (w : Word) : (putWord a w s).pedals = s.pedals := rfl
@[simp] theorem putWord_bind (a : Nat) (w : Word) : (putWord a w s).bind = s.bind := rfl
@[simp] theorem putWord_link (a : Nat) (w : Word) : (putWord a w s).link = s.link := rfl
@[simp] theorem putWord_lamps (a : Nat) (w : Word) : (putWord a w s).lamps = s.lamps := rfl

/-! ### putWords -/

@[simp] theorem putWords_pending (l : List (Nat × Word)) : (putWords l s).pending = s.pending := rfl
@[simp] theorem putWords_mem (l : List (Nat × Word)) : (putWords l s).mem = s.mem := rfl
@[simp] theorem putWords_writes (l : List (Nat × Word)) : (putWords l s).writes = s.writes ++ l := rfl
@[simp] theorem putWords_frames (l : List (Nat × Word)) : (putWords l s).frames = s.frames := rfl
@[simp] theorem putWords_opened (l : List (Nat × Word)) : (putWords l s).opened = s.opened := rfl
@[simp] theorem putWords_delivering (l : List (Nat × Word)) : (putWords l s).delivering = s.delivering := rfl
@[simp] theorem putWords_resetHeld (l : List (Nat × Word)) : (putWords l s).resetHeld = s.resetHeld := rfl
@[simp] theorem putWords_stamp (l : List (Nat × Word)) : (putWords l s).stamp = s.stamp := rfl
@[simp] theorem putWords_disp (l : List (Nat × Word)) : (putWords l s).disp = s.disp := rfl
@[simp] theorem putWords_lane (l : List (Nat × Word)) : (putWords l s).lane = s.lane := rfl
@[simp] theorem putWords_lines (l : List (Nat × Word)) : (putWords l s).lines = s.lines := rfl
@[simp] theorem putWords_scene (l : List (Nat × Word)) : (putWords l s).scene = s.scene := rfl
@[simp] theorem putWords_tempo (l : List (Nat × Word)) : (putWords l s).tempo = s.tempo := rfl
@[simp] theorem putWords_tuner (l : List (Nat × Word)) : (putWords l s).tuner = s.tuner := rfl
@[simp] theorem putWords_scanner (l : List (Nat × Word)) : (putWords l s).scanner = s.scanner := rfl
@[simp] theorem putWords_pedals (l : List (Nat × Word)) : (putWords l s).pedals = s.pedals := rfl
@[simp] theorem putWords_bind (l : List (Nat × Word)) : (putWords l s).bind = s.bind := rfl
@[simp] theorem putWords_link (l : List (Nat × Word)) : (putWords l s).link = s.link := rfl
@[simp] theorem putWords_lamps (l : List (Nat × Word)) : (putWords l s).lamps = s.lamps := rfl

end Sys2Proof.Machine
end

