-- ==== Sys2Proof/Laws/Still.lean ====
section
/-! SUPPORT. What no event changes but a host access, a boundary's arrival and a reset: the queue, exchange memory, the
frame count, the boundary's standing, the RESET line's, the host access on WAIT, and the length of the allocation map.
One lemma for each function that makes a state of a state. -/

namespace Sys2Proof.Machine

def State.still (s : State) : List Instr × Memory × Nat × Bool × Bool × Option HostAccess × Nat :=
  (s.pending, s.mem, s.frames, s.opened, s.resetHeld, s.disp.port.hostWait, s.lines.map.length)

/-- Two states agree in all of that. -/
@[irreducible] def Still (s t : State) : Prop := s.still = t.still

theorem still_iff {s t : State} : Still s t ↔ s.still = t.still := by simp [Still]

@[simp] theorem still_self (s : State) : Still s s ↔ True := by simp [still_iff]

theorem Still.congr {s t u : State} (h : u.still = t.still) : Still s u ↔ Still s t := by
  simp [still_iff, h]

theorem Still.symm {s t : State} (h : Still s t) : Still t s := by rw [still_iff] at *; exact h.symm

theorem Still.trans {s t u : State} (h : Still s t) (k : Still t u) : Still s u := by rw [still_iff] at *; exact h.trans k

/-- A function whose every result agrees with its argument. -/
theorem still_of_step {f : State → State} (h : ∀ t, Still t (f t)) (s t : State) : Still s (f t) ↔ Still s t :=
  ⟨fun k => k.trans (h t).symm, fun k => k.trans (h t)⟩

/-- An update that leaves the host access on WAIT and the length of the map. -/
@[simp] theorem still_mk (s t : State) (w del st d la li sc te tu sn pe bi lk lm)
    (hd : d.port.hostWait = t.disp.port.hostWait) (hl : li.map.length = t.lines.map.length) :
    Still s ⟨t.pending, t.mem, w, t.frames, t.opened, del, t.resetHeld, st, d, la, li, sc, te, tu, sn, pe, bi, lk, lm⟩ ↔
      Still s t := Still.congr (by simp [State.still, hd, hl])

theorem Still.fold {α : Type} {f : State → α → State} (h : ∀ t a, Still t (f t a)) (l : List α) (t : State) :
    Still t (l.foldl f t) := by
  induction l generalizing t with
  | nil => simp
  | cons a l ih => exact (h t a).trans (ih (f t a))

theorem Still.forEach {f : Nat → State → State} (h : ∀ i t, Still t (f i t)) (n : Nat) (t : State) :
    Still t (forEach n f t) := Still.fold (f := fun s i => f i s) (fun t i => h i t) (List.range n) t

theorem Still.iterate {f : State → State} (h : ∀ t, Still t (f t)) (n : Nat) (t : State) : Still t (iterate f n t) := by
  induction n generalizing t with
  | zero => simp [Machine.iterate]
  | succ n ih => exact (h t).trans (ih (f t))

/-! ### The length of the allocation map -/

@[simp] theorem freeWhere_length (p m) : (freeWhere p m).length = m.length := by simp [freeWhere]

@[simp] theorem takeFree_length (h m n i) : (takeFree h m n i).1.length = m.length := by
  induction m generalizing n i with
  | nil => simp [takeFree]
  | cons x m ih => unfold takeFree; split <;> simp [ih]

@[simp] theorem setImpulse_map (id e l) : (setImpulse id e l).map = l.map := Eq.trans rfl (Eq.refl l.map)
@[simp] theorem copyChunk_map (l : LineMemory) (m id) : (l.copyChunk m id).map = l.map := Eq.trans rfl (Eq.refl l.map)
@[simp] theorem zeroFour_map (l : LineMemory) : l.zeroFour.map = l.map := Eq.trans rfl (Eq.refl l.map)
@[simp] theorem dropSet_length (l : LineMemory) (id) : (l.dropSet id).map.length = l.map.length := by simp [LineMemory.dropSet]
@[simp] theorem lineFreeBank_length (l : LineMemory) (bk) : (l.freeBank bk).map.length = l.map.length := by
  simp [LineMemory.freeBank]
@[simp] theorem lineFreeUntrailed_length (l : LineMemory) (bk f) : (l.freeUntrailed bk f).map.length = l.map.length := by
  simp [LineMemory.freeUntrailed]
@[simp] theorem serve_length (bk l n) : (LineMemory.serve bk l n).map.length = l.map.length := by
  unfold LineMemory.serve; split <;> simp
@[simp] theorem serveAll_length (bk ns l) : (List.foldl (LineMemory.serve bk) l ns).map.length = l.map.length := by
  induction ns generalizing l with
  | nil => rfl
  | cons n ns ih => simp [ih]
@[simp] theorem allocate_length (l : LineMemory) (bk ns) : (l.allocate bk ns).1.map.length = l.map.length := by
  unfold LineMemory.allocate; dsimp only; (repeat' split) <;> simp

/-! ### The named operations -/

@[simp] theorem putWord_still (s t a w) : Still s (putWord a w t) ↔ Still s t := Still.congr rfl
@[simp] theorem putWords_still (s t w) : Still s (putWords w t) ↔ Still s t := Still.congr rfl
@[simp] theorem setSlot_still (s t i x) : Still s (setSlot i x t) ↔ Still s t := Still.congr rfl
@[simp] theorem writeSlot_still (s t i x) : Still s (writeSlot i x t) ↔ Still s t := Still.congr rfl

@[simp] theorem appendReport_still (s t r) : Still s (appendReport r t) ↔ Still s t := by
  unfold appendReport; dsimp only; split <;> simp

@[simp] theorem complete_still (s t i c f w) : Still s (complete i c f w t) ↔ Still s t := by
  unfold complete; dsimp only; split <;> simp

@[simp] theorem completeOk_still (s t i w) : Still s (completeOk i w t) ↔ Still s t := by simp [completeOk]
@[simp] theorem completeWith_still (s t i c w) : Still s (completeWith i c w t) ↔ Still s t := by simp [completeWith]

/-! ### Ops -/

@[simp] theorem raiseTuner_still (s t) :
    Still s (raiseTuner t) ↔ Still s t := by unfold raiseTuner; dsimp only; simp
@[simp] theorem raiseAbnormal_still (s t) :
    Still s (raiseAbnormal t) ↔ Still s t := by unfold raiseAbnormal; dsimp only; simp
@[simp] theorem raiseLink_still (s t) :
    Still s (raiseLink t) ↔ Still s t := by unfold raiseLink; dsimp only; simp
@[simp] theorem raiseMode_still (s t) :
    Still s (raiseMode t) ↔ Still s t := by unfold raiseMode; dsimp only; simp
@[simp] theorem askBurst_still (s t b) :
    Still s (askBurst b t) ↔ Still s t := by
  unfold askBurst; dsimp only; (repeat' split) <;> simp
@[simp] theorem queueAsked_hostWait (p : Port) : p.queueAsked.hostWait = p.hostWait := by
  unfold Port.queueAsked; split <;> rfl

/-! ### Flags -/

@[simp] theorem misuse_still (s t cause slot) :
    Still s (misuse cause slot t) ↔ Still s t := by unfold misuse; dsimp only; simp

/-! ### Lines -/

@[simp] theorem setLines_still (s t l) (h : l.map.length = t.lines.map.length) :
    Still s (setLines l t) ↔ Still s t := Still.congr (by simp [State.still, setLines, h])
@[simp] theorem freeBank_still (s t bk) : Still s (freeBank bk t) ↔ Still s t := by unfold freeBank; simp
@[simp] theorem freeUntrailed_still (s t bk) :
    Still s (freeUntrailed bk t) ↔ Still s t := by unfold freeUntrailed; simp
@[simp] theorem takeImpulseLoad_still (s t i args) :
    Still s (takeImpulseLoad i args t) ↔ Still s t := by
  unfold takeImpulseLoad; dsimp only; (repeat' split) <;> simp
@[simp] theorem takeImpulseDrop_still (s t i args) :
    Still s (takeImpulseDrop i args t) ↔ Still s t := by
  unfold takeImpulseDrop; dsimp only; (repeat' split) <;> simp
@[simp] theorem impulseChunkEnd_still (s t m id) :
    Still s (impulseChunkEnd m id t) ↔ Still s t := by
  unfold impulseChunkEnd; dsimp only; (repeat' split) <;> simp
@[simp] theorem askImpulseChunk_still (s t) :
    Still s (askImpulseChunk t) ↔ Still s t := by
  unfold askImpulseChunk; (repeat' split) <;> simp

/-! ### Answers -/

@[simp] theorem answerFiring_still (s t f x) :
    Still s (answerFiring f x t) ↔ Still s t := by
  unfold answerFiring; (repeat' split) <;> simp

/-! ### LaneEngine -/

@[simp] theorem setLane_still (s t e) :
    Still s (setLane e t) ↔ Still s t := Still.congr rfl
@[simp] theorem setBanks_still (s t p) :
    Still s (setBanks p t) ↔ Still s t := Still.congr rfl
@[simp] theorem sendBankRequest_still (s t r) :
    Still s (sendBankRequest r t) ↔ Still s t := by unfold sendBankRequest; dsimp only; simp
@[simp] theorem takeBankRequests_still (s t) :
    Still s (takeBankRequests t) ↔ Still s t := by unfold takeBankRequests; dsimp only; simp
@[simp] theorem changeMute_still (s t f) :
    Still s (changeMute f t) ↔ Still s t := by unfold changeMute; dsimp only; simp
@[simp] theorem muteOrder_still (s t on) : Still s (muteOrder on t) ↔ Still s t := by unfold muteOrder; simp
@[simp] theorem muteTuner_still (s t on) : Still s (muteTuner on t) ↔ Still s t := by unfold muteTuner; simp
@[simp] theorem muteLink_still (s t on) : Still s (muteLink on t) ↔ Still s t := by unfold muteLink; simp
@[simp] theorem muteSetup_still (s t on) : Still s (muteSetup on t) ↔ Still s t := by unfold muteSetup; simp
@[simp] theorem toggleSwitchMute_still (s t) :
    Still s (toggleSwitchMute t) ↔ Still s t := by unfold toggleSwitchMute; simp
@[simp] theorem takeMuteSet_still (s t i args) :
    Still s (takeMuteSet i args t) ↔ Still s t := by
  unfold takeMuteSet; dsimp only; (repeat' split) <;> simp
@[simp] theorem pushRequest_still (s t r) :
    Still s (pushRequest r t) ↔ Still s t := by unfold pushRequest; dsimp only; simp
@[simp] theorem takeStageSet_still (s t i args) :
    Still s (takeStageSet i args t) ↔ Still s t := by unfold takeStageSet; simp
@[simp] theorem takeStageBypass_still (s t i args) :
    Still s (takeStageBypass i args t) ↔ Still s t := by unfold takeStageBypass; simp
@[simp] theorem putStage_still (s t bk ln p x) :
    Still s (putStage bk ln p x t) ↔ Still s t := by unfold putStage; simp
theorem applyParam_still (s t u lane p i v w) (h : applyParam lane p i v t = .ok (u, w)) :
    Still s u ↔ Still s t := by
  unfold applyParam at h; (repeat' split at h) <;> try cases h
  simp

theorem applyBypass_still (s t u lane p f b) (h : applyBypass lane p f t = .ok (u, b)) :
    Still s u ↔ Still s t := by
  unfold applyBypass at h; split at h <;> cases h
  simp

theorem answerBypass_still (s t f lane p g) :
    Still s (answerBypass f lane p (applyBypass lane p g t) t) ↔ Still s t := by
  unfold answerBypass; split
  · simp
  · rename_i h; simp [applyBypass_still _ _ _ _ _ _ _ h]

@[simp] theorem applyRequest_still (s t r) : Still s (applyRequest t r) ↔ Still s t := by
  unfold applyRequest; split
  · split
    · simp
    · rename_i h; simp [applyParam_still _ _ _ _ _ _ _ _ h]
  · split
    · simp
    · split
      · simp
      · rename_i h; simp [applyBypass_still _ _ _ _ _ _ _ h]
  · exact answerBypass_still ..
  · exact answerBypass_still ..
  · exact answerBypass_still ..
  · split
    · simp
    · rename_i h; simp [applyParam_still _ _ _ _ _ _ _ _ h]

@[simp] theorem takeRequests_still (s t choose) (hc : ∀ s t, Still s (choose t) ↔ Still s t) :
    Still s (takeRequests choose t) ↔ Still s t := by
  apply still_of_step; intro t; unfold takeRequests
  exact Still.trans ((Still.congr rfl).mpr (by simp)) (Still.fold (fun t a => by simp [hc]) _ _)
@[simp] theorem noteTempo_still (s t tempo) :
    Still s (noteTempo tempo t) ↔ Still s t := by unfold noteTempo; dsimp only; simp
@[simp] theorem countBeat_still (s t) :
    Still s (countBeat t) ↔ Still s t := by unfold countBeat; dsimp only; simp
@[simp] theorem applyTempoAndBeats_still (s t) :
    Still s (applyTempoAndBeats t) ↔ Still s t := by
  unfold applyTempoAndBeats; dsimp only; (repeat' split) <;> simp
@[simp] theorem updateStage_still (s t bk ln p f) :
    Still s (updateStage bk ln p f t) ↔ Still s t := by
  unfold updateStage; (repeat' split) <;> simp
@[simp] theorem endTapFades_still (s t) :
    Still s (endTapFades t) ↔ Still s t := by unfold endTapFades; dsimp only; simp

/-! ### Tempo -/

@[simp] theorem setTempoUnit_still (s t x1) :
    Still s (setTempoUnit x1 t) ↔ Still s t := Still.congr rfl
@[simp] theorem markQuantize_still (s t position) :
    Still s (markQuantize position t) ↔ Still s t := by
  unfold markQuantize; dsimp only; (repeat' split) <;> simp
@[simp] theorem openBeatWindow_still (s t) :
    Still s (openBeatWindow t) ↔ Still s t := by unfold openBeatWindow; dsimp only; simp
@[simp] theorem produceBeat_still (s t cause) :
    Still s (produceBeat cause t) ↔ Still s t := by unfold produceBeat; dsimp only; simp
@[simp] theorem changeTempo_still (s t v) :
    Still s (changeTempo v t) ↔ Still s t := by
  unfold changeTempo; dsimp only; (repeat' split) <;> simp
@[simp] theorem takeAddition_still (s t) :
    Still s (takeAddition t) ↔ Still s t := by
  unfold takeAddition; dsimp only; (repeat' split) <;> simp
@[simp] theorem countWatch_still (s t) :
    Still s (countWatch t) ↔ Still s t := by unfold countWatch; dsimp only; simp
@[simp] theorem linkWatchExpiry_still (s t) :
    Still s (linkWatchExpiry t) ↔ Still s t := by
  unfold linkWatchExpiry; dsimp only; (repeat' split) <;> simp
@[simp] theorem takeTap_still (s t ref) :
    Still s (takeTap ref t) ↔ Still s t := by
  unfold takeTap; dsimp only; (repeat' split) <;> simp
@[simp] theorem takeLinkBeat_still (s t) :
    Still s (takeLinkBeat t) ↔ Still s t := by
  unfold takeLinkBeat; dsimp only; (repeat' split) <;> simp
@[simp] theorem takeTempoSet_still (s t i args) :
    Still s (takeTempoSet i args t) ↔ Still s t := by
  unfold takeTempoSet; dsimp only; (repeat' split) <;> simp

/-! ### Tuner -/

@[simp] theorem setTuner_still (s t x1) :
    Still s (setTuner x1 t) ↔ Still s t := Still.congr rfl
@[simp] theorem putCell_still (s t) : Still s (putCell t) ↔ Still s t := by unfold putCell; simp
@[simp] theorem writeCell_still (s t status note cents frequency tickSum) :
    Still s (writeCell status note cents frequency tickSum t) ↔ Still s t := by unfold writeCell; dsimp only; simp
@[simp] theorem writeBare_still (s t status) : Still s (writeBare status t) ↔ Still s t := by unfold writeBare; simp
@[simp] theorem settleTuner_still (s t) :
    Still s (settleTuner t) ↔ Still s t := by
  unfold settleTuner; dsimp only; (repeat' split) <;> simp
@[simp] theorem switchTunerOn_still (s t) :
    Still s (switchTunerOn t) ↔ Still s t := by
  unfold switchTunerOn; dsimp only; (repeat' split) <;> simp
@[simp] theorem switchTunerOff_still (s t) :
    Still s (switchTunerOff t) ↔ Still s t := by
  unfold switchTunerOff; dsimp only; (repeat' split) <;> simp
@[simp] theorem toggleTuner_still (s t) :
    Still s (toggleTuner t) ↔ Still s t := by
  unfold toggleTuner; (repeat' split) <;> simp
@[simp] theorem tunerAutoOff_still (s t) :
    Still s (tunerAutoOff t) ↔ Still s t := by
  unfold tunerAutoOff; (repeat' split) <;> simp
@[simp] theorem applyTunerSettings_still (s t n) :
    Still s (applyTunerSettings n t) ↔ Still s t := by
  unfold applyTunerSettings; dsimp only; (repeat' split) <;> simp
@[simp] theorem takeTunerSet_still (s t i args) :
    Still s (takeTunerSet i args t) ↔ Still s t := by
  unfold takeTunerSet; dsimp only; (repeat' split) <;> simp
@[simp] theorem makeReading_still (s t group) :
    Still s (makeReading group t) ↔ Still s t := by
  unfold makeReading; dsimp only; (repeat' split) <;> simp
@[simp] theorem groupComplete_still (s t) :
    Still s (groupComplete t) ↔ Still s t := by
  unfold groupComplete; dsimp only; (repeat' split) <;> simp
@[simp] theorem silenceExpiry_still (s t) :
    Still s (silenceExpiry t) ↔ Still s t := by
  unfold silenceExpiry; dsimp only; (repeat' split) <;> simp

/-! ### Link -/

@[simp] theorem setLink_still (s t l) :
    Still s (setLink l t) ↔ Still s t := Still.congr rfl
@[simp] theorem reportLinkState_still (s t before cause holds notices) :
    Still s (reportLinkState before cause holds notices t) ↔ Still s t := by unfold reportLinkState; simp
@[simp] theorem changeCounters_still (s t tec rec_ cause) :
    Still s (changeCounters tec rec_ cause t) ↔ Still s t := by
  unfold changeCounters; dsimp only; (repeat' split) <;> simp
@[simp] theorem setHold_still (s t h x) :
    Still s (setHold h x t) ↔ Still s t := Still.congr rfl
@[simp] theorem fillHold_still (s t h c) :
    Still s (fillHold h c t) ↔ Still s t := by
  unfold fillHold; dsimp only; (repeat' split) <;> simp
@[simp] theorem fillHolds_still (s t) :
    Still s (fillHolds t) ↔ Still s t := by
  unfold fillHolds; split
  · simp
  · refine still_of_step (Still.forEach (fun h t => ?_) 3) s t
    (repeat' split) <;> simp
@[simp] theorem refuseLinkSends_still (s t) :
    Still s (refuseLinkSends t) ↔ Still s t := by
  apply still_of_step (Still.forEach (fun i t => ?_) 32)
  (repeat' split) <;> simp
@[simp] theorem offerNotice_still (s t m) :
    Still s (offerNotice m t) ↔ Still s t := by
  unfold offerNotice; dsimp only; (repeat' split) <;> simp
@[simp] theorem answerNotSending_still (s t) :
    Still s (answerNotSending t) ↔ Still s t := by
  unfold answerNotSending; dsimp only; (repeat' split) <;> simp
@[simp] theorem messageStart_still (s t recessiveRun) :
    Still s (messageStart recessiveRun t) ↔ Still s t := by
  unfold messageStart; dsimp only; (repeat' split) <;> simp
@[simp] theorem attemptOver_still (s t) :
    Still s (attemptOver t) ↔ Still s t := by unfold attemptOver; dsimp only; simp
@[simp] theorem emptyHold_still (s t h code words choose) (hc : ∀ s t, Still s (choose t) ↔ Still s t) :
    Still s (emptyHold choose h code words t) ↔ Still s t := by
  unfold emptyHold; dsimp only; (repeat' split) <;> simp [hc]
@[simp] theorem arbitrationLost_still (s t choose) (hc : ∀ s t, Still s (choose t) ↔ Still s t) :
    Still s (arbitrationLost choose t) ↔ Still s t := by
  unfold arbitrationLost; dsimp only; (repeat' split) <;> simp [hc]
@[simp] theorem sentOk_still (s t h choose) (hc : ∀ s t, Still s (choose t) ↔ Still s t) :
    Still s (sentOk choose h t) ↔ Still s t := by
  unfold sentOk; dsimp only; (repeat' split) <;> simp [hc]
@[simp] theorem detach_still (s t before cause choose) (hc : ∀ s t, Still s (choose t) ↔ Still s t) :
    Still s (detach choose before cause t) ↔ Still s t := by
  unfold detach; dsimp only
  rw [reportLinkState_still, setLink_still, still_of_step (Still.forEach (fun h t => by split <;> simp [hc]) 3),
    setLink_still]
@[simp] theorem failAttempt_still (s t h kind choose) (hc : ∀ s t, Still s (choose t) ↔ Still s t) :
    Still s (failAttempt choose h kind t) ↔ Still s t := by
  unfold failAttempt; dsimp only; (repeat' split) <;> simp [hc]
@[simp] theorem countError_still (s t sending kind) :
    Still s (countError sending kind t) ↔ Still s t := by unfold countError; dsimp only; simp
@[simp] theorem linkError_still (s t kind tail choose) (hc : ∀ s t, Still s (choose t) ↔ Still s t) :
    Still s (linkError choose kind tail t) ↔ Still s t := by
  unfold linkError; dsimp only; (repeat' split) <;> simp [hc]
@[simp] theorem idleRun_still (s t) :
    Still s (idleRun t) ↔ Still s t := by
  unfold idleRun; dsimp only; (repeat' split) <;> simp
@[simp] theorem startBit_still (s t) :
    Still s (startBit t) ↔ Still s t := by
  unfold startBit; dsimp only; (repeat' split) <;> simp
@[simp] theorem joinBus_still (s t) :
    Still s (joinBus t) ↔ Still s t := by
  unfold joinBus; dsimp only; (repeat' split) <;> simp
@[simp] theorem rejoin_still (s t) :
    Still s (rejoin t) ↔ Still s t := by
  unfold rejoin; simp
@[simp] theorem putLinkConfig_still (s t) : Still s (putLinkConfig t) ↔ Still s t := by unfold putLinkConfig; simp
@[simp] theorem takeLinkConfig_still (s t i args) :
    Still s (takeLinkConfig i args t) ↔ Still s t := by
  unfold takeLinkConfig; dsimp only; (repeat' split) <;> simp
@[simp] theorem takeLinkRejoin_still (s t i) :
    Still s (takeLinkRejoin i t) ↔ Still s t := by
  unfold takeLinkRejoin; dsimp only; (repeat' split) <;> simp
@[simp] theorem cancelLinkSend_still (s t i choose) (hc : ∀ s t, Still s (choose t) ↔ Still s t) :
    Still s (cancelLinkSend choose i t) ↔ Still s t := by
  unfold cancelLinkSend; dsimp only; (repeat' split) <;> simp [hc]
@[simp] theorem linkSetupPending_still (s t) :
    Still s (linkSetupPending t) ↔ Still s t := by unfold linkSetupPending; dsimp only; simp
@[simp] theorem linkSetupWithdrawn_still (s t) :
    Still s (linkSetupWithdrawn t) ↔ Still s t := by unfold linkSetupWithdrawn; dsimp only; simp
@[simp] theorem linkModeSetup_still (s t) :
    Still s (linkModeSetup t) ↔ Still s t := by unfold linkModeSetup; dsimp only; simp
@[simp] theorem linkModeRun_still (s t) :
    Still s (linkModeRun t) ↔ Still s t := by
  unfold linkModeRun; dsimp only; (repeat' split) <;> simp

/-! ### SceneCore -/

@[simp] theorem setScene_still (s t u) :
    Still s (setScene u t) ↔ Still s t := Still.congr rfl
@[simp] theorem setBankCtl_still (s t k x) :
    Still s (setBankCtl k x t) ↔ Still s t := Still.congr rfl
@[simp] theorem setSceneState_still (s t x) :
    Still s (setSceneState x t) ↔ Still s t := Still.congr rfl
@[simp] theorem setLatch_still (s t x) :
    Still s (setLatch x t) ↔ Still s t := Still.congr rfl
@[simp] theorem completeSlot_still (s t i code flags words) :
    Still s (completeSlot i code flags words t) ↔ Still s t := by
  unfold completeSlot; (repeat' split) <;> simp
@[simp] theorem supersede_still (s t r) : Still s (supersede r t) ↔ Still s t := by unfold supersede; simp
@[simp] theorem completeLoad_still (s t i r k) :
    Still s (completeLoad i r k t) ↔ Still s t := by unfold completeLoad; dsimp only; simp
@[simp] theorem emptyBank_still (s t k release) :
    Still s (emptyBank k release t) ↔ Still s t := by
  unfold emptyBank; dsimp only; (repeat' split) <;> simp
@[simp] theorem abandonLoad_still (s t) :
    Still s (abandonLoad t) ↔ Still s t := by
  unfold abandonLoad; dsimp only; (repeat' split) <;> simp
@[simp] theorem beginFetch_still (s t scene) :
    Still s (beginFetch scene t) ↔ Still s t := by
  unfold beginFetch; dsimp only; (repeat' split) <;> simp
@[simp] theorem startCut_still (s t k) :
    Still s (startCut k t) ↔ Still s t := by
  unfold startCut; dsimp only; (repeat' split) <;> simp
@[simp] theorem enterArmed_still (s t) :
    Still s (enterArmed t) ↔ Still s t := by unfold enterArmed; dsimp only; simp
@[simp] theorem failLoad_still (s t code words) :
    Still s (failLoad code words t) ↔ Still s t := by
  unfold failLoad; dsimp only; (repeat' split) <;> simp
@[simp] theorem takeInIdle_still (s t r) :
    Still s (takeInIdle r t) ↔ Still s t := by
  unfold takeInIdle; dsimp only; (repeat' split) <;> simp
@[simp] theorem endReplaced_still (s t new old) :
    Still s (endReplaced new old t) ↔ Still s t := by
  unfold endReplaced; dsimp only; (repeat' split) <;> simp
@[simp] theorem replaceWork_still (s t new old) :
    Still s (replaceWork new old t) ↔ Still s t := by unfold replaceWork; simp
@[simp] theorem takeWhileLoading_still (s t new old) :
    Still s (takeWhileLoading new old t) ↔ Still s t := by
  unfold takeWhileLoading; dsimp only; (repeat' split) <;> simp
@[simp] theorem takeWhileArmed_still (s t new old) :
    Still s (takeWhileArmed new old t) ↔ Still s t := by
  unfold takeWhileArmed; dsimp only; (repeat' split) <;> simp
@[simp] theorem takeIntoLatch_still (s t new) :
    Still s (takeIntoLatch new t) ↔ Still s t := by
  unfold takeIntoLatch; dsimp only; (repeat' split) <;> simp
@[simp] theorem takeRequest_still (s t r) :
    Still s (takeRequest r t) ↔ Still s t := by
  unfold takeRequest; dsimp only; (repeat' split) <;> simp
@[simp] theorem sendFill_still (s t) :
    Still s (sendFill t) ↔ Still s t := by
  unfold sendFill; dsimp only; (repeat' split) <;> simp
@[simp] theorem startLean_still (s t r d) :
    Still s (startLean r d t) ↔ Still s t := by
  unfold startLean; dsimp only; (repeat' split) <;> simp
@[simp] theorem allocateLoad_still (s t) :
    Still s (allocateLoad t) ↔ Still s t := by
  unfold allocateLoad; dsimp only; (repeat' split) <;> simp
@[simp] theorem enterAllocating_still (s t) :
    Still s (enterAllocating t) ↔ Still s t := by
  unfold enterAllocating; dsimp only; (repeat' split) <;> simp
@[simp] theorem fetchEnd_still (s t m scene serial) :
    Still s (fetchEnd m scene serial t) ↔ Still s t := by
  unfold fetchEnd; dsimp only; (repeat' split) <;> simp
@[simp] theorem zeroedAnswer_still (s t) :
    Still s (zeroedAnswer t) ↔ Still s t := by
  unfold zeroedAnswer; dsimp only; (repeat' split) <;> simp
@[simp] theorem prepareDone_still (s t) :
    Still s (prepareDone t) ↔ Still s t := by
  unfold prepareDone; dsimp only; (repeat' split) <;> simp
@[simp] theorem cutEnd_still (s t k) :
    Still s (cutEnd k t) ↔ Still s t := by
  unfold cutEnd; dsimp only; (repeat' split) <;> simp
@[simp] theorem gapFadeIn_still (s t) :
    Still s (gapFadeIn t) ↔ Still s t := by unfold gapFadeIn; dsimp only; simp
@[simp] theorem fadeOutEnd_still (s t) :
    Still s (fadeOutEnd t) ↔ Still s t := by
  unfold fadeOutEnd; dsimp only; (repeat' split) <;> simp
@[simp] theorem endOwner_still (s t f choose) (hc : ∀ s t, Still s (choose t) ↔ Still s t) :
    Still s (Fade.endOwner choose f t) ↔ Still s t := by
  unfold Fade.endOwner; (repeat' split) <;> simp [hc]
@[simp] theorem fadeEnd_still (s t choose) (hc : ∀ s t, Still s (choose t) ↔ Still s t) :
    Still s (fadeEnd choose t) ↔ Still s t := by
  unfold fadeEnd; dsimp only; (repeat' split) <;> simp [hc]
@[simp] theorem setListCopied_still (s t m i) :
    Still s (setListCopied m i t) ↔ Still s t := by
  unfold setListCopied; dsimp only; (repeat' split) <;> simp
@[simp] theorem moveCursor_still (s t n) :
    Still s (moveCursor n t) ↔ Still s t := by unfold moveCursor; dsimp only; simp
@[simp] theorem preloadCheck_still (s t) :
    Still s (preloadCheck t) ↔ Still s t := by
  unfold preloadCheck; dsimp only; (repeat' split) <;> simp
@[simp] theorem takeSceneGo_still (s t i args) :
    Still s (takeSceneGo i args t) ↔ Still s t := by
  unfold takeSceneGo; (repeat' split) <;> simp
@[simp] theorem takeSceneLoad_still (s t i args) :
    Still s (takeSceneLoad i args t) ↔ Still s t := by
  unfold takeSceneLoad; (repeat' split) <;> simp
@[simp] theorem takeSceneSwap_still (s t i args) :
    Still s (takeSceneSwap i args t) ↔ Still s t := by
  unfold takeSceneSwap; dsimp only; (repeat' split) <;> simp
@[simp] theorem takeSetlistLoad_still (s t i) :
    Still s (takeSetlistLoad i t) ↔ Still s t := by unfold takeSetlistLoad; simp
@[simp] theorem takeSetlistMove_still (s t i args) :
    Still s (takeSetlistMove i args t) ↔ Still s t := by
  unfold takeSetlistMove; dsimp only; (repeat' split) <;> simp
@[simp] theorem cancelScene_still (s t i) :
    Still s (cancelScene i t) ↔ Still s t := by
  unfold cancelScene; dsimp only; (repeat' split) <;> simp

/-! ### Binding -/

@[simp] theorem setBind_still (s t b) :
    Still s (setBind b t) ↔ Still s t := Still.congr rfl
@[simp] theorem derivePairs_still (s t) :
    Still s (derivePairs t) ↔ Still s t := by unfold derivePairs; dsimp only; simp
@[simp] theorem bindNoneLive_still (s t) :
    Still s (bindNoneLive t) ↔ Still s t := by unfold bindNoneLive; dsimp only; simp
@[simp] theorem takeBindLoad_still (s t i) : Still s (takeBindLoad i t) ↔ Still s t := by unfold takeBindLoad; simp
@[simp] theorem bindingCopied_still (s t m i) :
    Still s (bindingCopied m i t) ↔ Still s t := by
  unfold bindingCopied; dsimp only; (repeat' split) <;> simp

/-! ### Switch -/

@[simp] theorem setScanner_still (s t x) :
    Still s (setScanner x t) ↔ Still s t := Still.congr rfl
@[simp] theorem setLine_still (s t n x) :
    Still s (setLine n x t) ↔ Still s t := Still.congr rfl
@[simp] theorem settleEnd_still (s t n) :
    Still s (settleEnd n t) ↔ Still s t := by
  unfold settleEnd; dsimp only; (repeat' split) <;> simp
@[simp] theorem scannerFrame_still (s t pins) :
    Still s (scannerFrame pins t) ↔ Still s t := by unfold scannerFrame; dsimp only; simp
@[simp] theorem scannerModeSetup_still (s t) :
    Still s (scannerModeSetup t) ↔ Still s t := by unfold scannerModeSetup; dsimp only; simp
@[simp] theorem scannerModeRun_still (s t) :
    Still s (scannerModeRun t) ↔ Still s t := by unfold scannerModeRun; dsimp only; simp

/-! ### Pedal -/

@[simp] theorem setPedal_still (s t p x) :
    Still s (setPedal p x t) ↔ Still s t := Still.congr rfl
@[simp] theorem pedalSettleEnd_still (s t p) :
    Still s (pedalSettleEnd p t) ↔ Still s t := by
  unfold pedalSettleEnd; dsimp only; (repeat' split) <;> simp
@[simp] theorem pedalDisconnect_still (s t p) :
    Still s (pedalDisconnect p t) ↔ Still s t := by
  unfold pedalDisconnect; dsimp only; (repeat' split) <;> simp
@[simp] theorem pedalReconnect_still (s t p) :
    Still s (pedalReconnect p t) ↔ Still s t := by
  unfold pedalReconnect; dsimp only; (repeat' split) <;> simp
@[simp] theorem pedalsModeRun_still (s t) : Still s (pedalsModeRun t) ↔ Still s t := by unfold pedalsModeRun; simp
@[simp] theorem putControlConfig_still (s t) :
    Still s (putControlConfig t) ↔ Still s t := by unfold putControlConfig; simp
@[simp] theorem takeControlConfig_still (s t i args) :
    Still s (takeControlConfig i args t) ↔ Still s t := by
  unfold takeControlConfig; dsimp only; (repeat' split) <;> simp

/-! ### Lamp -/

@[simp] theorem setLamps_still (s t x) :
    Still s (setLamps x t) ↔ Still s t := Still.congr rfl
@[simp] theorem lampFrame_still (s t) :
    Still s (lampFrame t) ↔ Still s t := by unfold lampFrame; dsimp only; simp
@[simp] theorem beatWindowClose_still (s t) :
    Still s (beatWindowClose t) ↔ Still s t := by
  unfold beatWindowClose; dsimp only; (repeat' split) <;> simp
@[simp] theorem putLampConfig_still (s t) : Still s (putLampConfig t) ↔ Still s t := by unfold putLampConfig; simp
@[simp] theorem takeLampConfig_still (s t i args) :
    Still s (takeLampConfig i args t) ↔ Still s t := by
  unfold takeLampConfig; dsimp only; (repeat' split) <;> simp
@[simp] theorem periodStart_still (s t) :
    Still s (periodStart t) ↔ Still s t := by
  unfold periodStart; dsimp only; (repeat' split) <;> simp

/-! ### Orders -/

@[simp] theorem setDisp_still (s t d) (h : d.port.hostWait = t.disp.port.hostWait) :
    Still s (setDisp d t) ↔ Still s t := Still.congr (by simp [State.still, setDisp, h])
@[simp] theorem takeOrder_still (s t k i args) :
    Still s (takeOrder k i args t) ↔ Still s t := by
  unfold takeOrder; (repeat' split) <;> simp
@[simp] theorem handOver_still (s t i) :
    Still s (handOver i t) ↔ Still s t := by
  unfold handOver; dsimp only; (repeat' split) <;> simp
@[simp] theorem chooseFor_still (s t o n) : Still s (chooseFor o n t) ↔ Still s t := by
  induction n generalizing t with
  | zero => exact Iff.rfl
  | succ n ih =>
    rw [chooseFor]
    split
    · cases t.choice o with
      | none => simp
      | some i => simp [ih]
    · rfl
@[simp] theorem chooseLane_still (s t) : Still s (chooseLane t) ↔ Still s t := chooseFor_still ..
@[simp] theorem chooseScene_still (s t) : Still s (chooseScene t) ↔ Still s t := chooseFor_still ..
@[simp] theorem chooseLink_still (s t) : Still s (chooseLink t) ↔ Still s t := chooseFor_still ..
@[simp] theorem openChoices_still (s t) : Still s (openChoices t) ↔ Still s t := by unfold openChoices; simp
@[simp] theorem postSlot_still (s t slot) :
    Still s (postSlot slot t) ↔ Still s t := by
  unfold postSlot; dsimp only; (repeat' split) <;> simp
@[simp] theorem captured_still (s t m i stamp) :
    Still s (captured m i stamp t) ↔ Still s t := by
  unfold captured; dsimp only; (repeat' split) <;> simp
@[simp] theorem passCancel_still (s t i) :
    Still s (passCancel i t) ↔ Still s t := by
  unfold passCancel; (repeat' split) <;> simp
@[simp] theorem reclaimSlot_still (s t slot) :
    Still s (reclaimSlot slot t) ↔ Still s t := by
  unfold reclaimSlot; dsimp only; (repeat' split) <;> simp
@[simp] theorem takePage_still (s t) :
    Still s (takePage t) ↔ Still s t := by unfold takePage; dsimp only; simp
@[simp] theorem writeAttn_still (s t v) :
    Still s (writeAttn v t) ↔ Still s t := by
  unfold writeAttn; dsimp only; (repeat' split) <;> simp
@[simp] theorem writeAttnen_still (s t v) :
    Still s (writeAttnen v t) ↔ Still s t := by unfold writeAttnen; dsimp only; simp
@[simp] theorem clearPor_still (s t v) :
    Still s (clearPor v t) ↔ Still s t := by unfold clearPor; dsimp only; simp
@[simp] theorem startOldest_still (s t) :
    Still s (startOldest t) ↔ Still s t := by
  unfold startOldest; (repeat' split) <;> simp

/-! ### Firing -/

@[simp] theorem sendStage_still (s t f r lane p v) :
    Still s (sendStage f r lane p v t) ↔ Still s t := by
  unfold sendStage; dsimp only; (repeat' split) <;> simp
@[simp] theorem fireMove_still (s t f absolute v) :
    Still s (fireMove f absolute v t) ↔ Still s t := by
  unfold fireMove; (repeat' split) <;> simp
@[simp] theorem fireSceneGo_still (s t f n p) :
    Still s (fireSceneGo f n p t) ↔ Still s t := by
  unfold fireSceneGo; dsimp only; (repeat' split) <;> simp
@[simp] theorem fireMute_still (s t f change) (h : ∀ t, Still s (change t) ↔ Still s t) :
    Still s (fireMute f change t) ↔ Still s t := by simp [fireMute, h]
@[simp] theorem fireTuner_still (s t f) : Still s (fireTuner f t) ↔ Still s t := by simp [fireTuner]
@[simp] theorem firePedal_still (s t f lane p index v) :
    Still s (firePedal f lane p index v t) ↔ Still s t := by
  unfold firePedal; dsimp only; (repeat' split) <;> simp
@[simp] theorem fireNotice_still (s t f m) :
    Still s (fireNotice f m t) ↔ Still s t := by
  unfold fireNotice; dsimp only; (repeat' split) <;> simp
@[simp] theorem fireAction_still (s t f) :
    Still s (fireAction f t) ↔ Still s t := by
  unfold fireAction; (repeat' split) <;> simp
@[simp] theorem fireEntry_still (s t r e ev time follow) :
    Still s (fireEntry r e ev time follow t) ↔ Still s t := by unfold fireEntry; dsimp only; simp
@[simp] theorem bindingEvent_still (s t e time report) :
    Still s (bindingEvent e time report t) ↔ Still s t := by
  unfold bindingEvent; (repeat' split) <;> simp
@[simp] theorem followPedal_still (s t p) :
    Still s (followPedal p t) ↔ Still s t := by
  unfold followPedal; dsimp only; (repeat' split) <;> simp
@[simp] theorem bindSceneLive_still (s t k) :
    Still s (bindSceneLive k t) ↔ Still s t := by unfold bindSceneLive; dsimp only; simp

/-! ### FloorEvents -/

@[simp] theorem deliverLine_still (s t e n time) :
    Still s (deliverLine e n time t) ↔ Still s t := by unfold deliverLine; simp
@[simp] theorem deliverWaiting_still (s t) :
    Still s (deliverWaiting t) ↔ Still s t := by
  unfold deliverWaiting; dsimp only; (repeat' split) <;> simp
@[simp] theorem formChord_still (s t m n) :
    Still s (formChord m n t) ↔ Still s t := by unfold formChord; dsimp only; simp
@[simp] theorem startWaiting_still (s t n) :
    Still s (startWaiting n t) ↔ Still s t := by unfold startWaiting; dsimp only; simp
@[simp] theorem pressLine_still (s t n) :
    Still s (pressLine n t) ↔ Still s t := by
  unfold pressLine; (repeat' split) <;> simp
@[simp] theorem releaseLine_still (s t n) :
    Still s (releaseLine n t) ↔ Still s t := by
  unfold releaseLine; dsimp only; (repeat' split) <;> simp
@[simp] theorem timerEvent_still (s t e n) :
    Still s (timerEvent e n t) ↔ Still s t := by
  unfold timerEvent; (repeat' split) <;> simp
@[simp] theorem debouncedChange_still (s t n) :
    Still s (debouncedChange n t) ↔ Still s t := by
  unfold debouncedChange; dsimp only; (repeat' split) <;> simp
@[simp] theorem holdExpiry_still (s t n) :
    Still s (holdExpiry n t) ↔ Still s t := by
  unfold holdExpiry; dsimp only; (repeat' split) <;> simp
@[simp] theorem repeatExpiry_still (s t n) :
    Still s (repeatExpiry n t) ↔ Still s t := by
  unfold repeatExpiry; dsimp only; simp
@[simp] theorem pedalFrame_still (s t raw) :
    Still s (pedalFrame raw t) ↔ Still s t := by
  unfold pedalFrame; dsimp only; (repeat' split) <;> simp

/-! ### SceneSwap -/

@[simp] theorem sceneLive_still (s t k) : Still s (sceneLive k t) ↔ Still s t := by unfold sceneLive; simp
@[simp] theorem noneLive_still (s t) : Still s (noneLive t) ↔ Still s t := by unfold noneLive; simp
@[simp] theorem swapBanks_still (s t f) :
    Still s (swapBanks f t) ↔ Still s t := by
  unfold swapBanks; dsimp only; (repeat' split) <;> simp
@[simp] theorem queueNotices_still (s t l) : Still s (queueNotices l t).1 ↔ Still s t := by
  induction l generalizing t with
  | nil => simp [queueNotices]
  | cons m l ih => simp [queueNotices, ih]

@[simp] theorem swap_still (s t) : Still s (swap t) ↔ Still s t := by unfold swap; split <;> simp
@[simp] theorem leanSilence_still (s t) :
    Still s (leanSilence t) ↔ Still s t := by
  unfold leanSilence; dsimp only; (repeat' split) <;> simp

/-! ### LinkRx -/

@[simp] theorem filterMessage_still (s t sender m) :
    Still s (filterMessage sender m t) ↔ Still s t := by
  unfold filterMessage; dsimp only; (repeat' split) <;> simp
@[simp] theorem passOn_still (s t sender m) :
    Still s (passOn sender m t) ↔ Still s t := by
  unfold passOn; dsimp only; (repeat' split) <;> simp
@[simp] theorem countReceived_still (s t) :
    Still s (countReceived t) ↔ Still s t := by unfold countReceived; dsimp only; simp
@[simp] theorem messageReceived_still (s t bits) :
    Still s (messageReceived bits t) ↔ Still s t := by
  unfold messageReceived; dsimp only; (repeat' split) <;> simp
@[simp] theorem messageSent_still (s t choose) (hc : ∀ s t, Still s (choose t) ↔ Still s t) :
    Still s (messageSent choose t) ↔ Still s t := by
  unfold messageSent; dsimp only; (repeat' split) <;> simp [hc]

/-! ### Modes -/

@[simp] theorem settleOrders_still (s t n) : Still s (settleOrders n t) ↔ Still s t := by
  induction n generalizing t with
  | zero => exact Iff.rfl
  | succ n ih =>
    rw [settleOrders]
    cases (openChoices t).nextHandOver with
    | none => simp
    | some i => simp [ih]

@[simp] theorem becomeSetup_still (s t) : Still s (becomeSetup t) ↔ Still s t := by
  unfold becomeSetup; split <;> simp
@[simp] theorem finish_still (s t) :
    Still s (finish t) ↔ Still s t := settleOrders_still s _ 33 |>.trans (becomeSetup_still s t)
@[simp] theorem force_still (s t due f) (h : ∀ t, Still s (f t) ↔ Still s t) :
    Still s (force due f t) ↔ Still s t := by unfold force; split <;> simp [h]
@[simp] theorem cancelSlot_still (s t slot) :
    Still s (cancelSlot slot t) ↔ Still s t := by
  unfold cancelSlot; dsimp only; (repeat' split) <;> simp
@[simp] theorem requestSetup_still (s t) :
    Still s (requestSetup t) ↔ Still s t := by
  unfold requestSetup; dsimp only; simp
@[simp] theorem enterRun_still (s t) :
    Still s (enterRun t) ↔ Still s t := by unfold enterRun; dsimp only; simp
@[simp] theorem requestRun_still (s t) :
    Still s (requestRun t) ↔ Still s t := by
  unfold requestRun; dsimp only; (repeat' split) <;> simp
@[simp] theorem rampSilent_still (s t) :
    Still s (rampSilent t) ↔ Still s t := by
  exact Still.congr rfl
@[simp] theorem rampUnmuted_still (s t) :
    Still s (rampUnmuted t) ↔ Still s t := by
  unfold rampUnmuted; dsimp only; (repeat' split) <;> simp

/-! ### Boundary -/

@[simp] theorem tapFadeEnd_still (s t bk ln p) :
    Still s (tapFadeEnd bk ln p t) ↔ Still s t := by
  unfold tapFadeEnd; (repeat' split) <;> simp
@[simp] theorem gateHoldEnd_still (s t bk ln p) :
    Still s (gateHoldEnd bk ln p t) ↔ Still s t := by unfold gateHoldEnd; simp
@[simp] theorem forEach_still (s t n f) (h : ∀ i t, Still t (f i t)) : Still s (forEach n f t) ↔ Still s t :=
  still_of_step (Still.forEach h n) s t

@[simp] theorem iterate_still (s t n) (f : State → State) (h : ∀ t, Still t (f t)) :
    Still s (iterate f n t) ↔ Still s t := still_of_step (Still.iterate h n) s t

@[simp] theorem settlePost_still (s t) : Still s (settlePost t) ↔ Still s t := by simp [settlePost]

@[simp] theorem whenDue_still (s t due f) (h : ∀ t, Still s (f t) ↔ Still s t) :
    Still s (whenDue due f t) ↔ Still s t := by unfold whenDue; split <;> simp [h]
@[simp] theorem fadeEndWhole_still (s t) : Still s (fadeEndWhole t) ↔ Still s t := by simp [fadeEndWhole]
@[simp] theorem sceneWork_still (s t) : Still s (sceneWork t) ↔ Still s t := by simp [sceneWork]

end Sys2Proof.Machine
end

