-- ==== Sys2Proof/Laws/Publish.lean ====
section
/-! SUPPORT. What the end of an event, a boundary's arrival, a boundary's work and the end of a burst leave: one lemma
for each fact. -/

namespace Sys2Proof.Machine

/-! ### What two still states share -/

theorem Still.pending {s t : State} (h : Still s t) : s.pending = t.pending := by
  rw [still_iff] at h; simp only [State.still, Prod.mk.injEq] at h; exact h.1

theorem Still.mem {s t : State} (h : Still s t) : s.mem = t.mem := by
  rw [still_iff] at h; simp only [State.still, Prod.mk.injEq] at h; exact h.2.1

theorem Still.frames {s t : State} (h : Still s t) : s.frames = t.frames := by
  rw [still_iff] at h; simp only [State.still, Prod.mk.injEq] at h; exact h.2.2.1

theorem Still.opened {s t : State} (h : Still s t) : s.opened = t.opened := by
  rw [still_iff] at h; simp only [State.still, Prod.mk.injEq] at h; exact h.2.2.2.1

theorem Still.resetHeld {s t : State} (h : Still s t) : s.resetHeld = t.resetHeld := by
  rw [still_iff] at h; simp only [State.still, Prod.mk.injEq] at h; exact h.2.2.2.2.1

theorem Still.hostWait {s t : State} (h : Still s t) : s.disp.port.hostWait = t.disp.port.hostWait := by
  rw [still_iff] at h; simp only [State.still, Prod.mk.injEq] at h; exact h.2.2.2.2.2.1

theorem Still.mapLength {s t : State} (h : Still s t) : s.lines.map.length = t.lines.map.length := by
  rw [still_iff] at h; simp only [State.still, Prod.mk.injEq] at h; exact h.2.2.2.2.2.2

/-- A function that leaves every state still leaves it still. -/
theorem still_apply {f : State → State} (h : ∀ s t, Still s (f t) ↔ Still s t) (t : State) : Still (f t) t :=
  (((h t t).mpr ((still_self t).mpr trivial))).symm

/-! ### The end of an event -/

@[simp] theorem changedWords_self (s : State) : changedWords s s = [] := by
  unfold changedWords
  have : ∀ l : List (Nat × Word), (List.zipWith (fun x y => if x.2 = y.2 then none else some y) l l).filterMap id = [] := by
    intro l; induction l with
    | nil => rfl
    | cons x l ih => simp
  exact this _

/-- Exchange memory and the write buffer show in no status word. -/
@[simp] theorem statusWords_mem (s : State) (m : Memory) (w : List (Nat × Word)) :
    State.statusWords { s with mem := m, writes := w } = s.statusWords := rfl

/-- The host port shows in no status word. -/
@[simp] theorem statusWords_port (s : State) (p : Port) :
    State.statusWords { s with disp := { s.disp with port := p } } = s.statusWords := rfl

/-- A port that has been asked for no burst stays as it is. -/
theorem queueAsked_of_none {p : Port} (h : p.asked = []) : p.queueAsked = p := by
  unfold Port.queueAsked; split
  · simp_all
  · simp [h]; rw [← h]

/-- The end of an event leaves no burst that was asked for outside the queue. -/
@[simp] theorem queueAsked_asked (p : Port) : p.queueAsked.asked = [] := by unfold Port.queueAsked; split <;> rfl

/-- An event that no status word shows, that writes nothing and asks for no burst, leaves exchange memory. -/
theorem publish_of_unshown {s t : State} (h : t.statusWords = s.statusWords) (hw : t.writes = [])
    (ha : t.disp.port.asked = []) : publish s t = t := by
  have e : changedWords s t = [] := by
    have k := changedWords_self s
    unfold changedWords at *; rw [h]; exact k
  unfold publish; rw [e, hw, queueAsked_of_none ha]; cases t; simp_all [Memory.partWrites]

/-- While the RESET line is held a command changes nothing. -/
theorem plain_of_held {s : State} (f : State → State) (h : s.resetHeld = true) : plain f s = .next s := by
  simp only [plain, h, if_true]

theorem plain_of_free {s : State} (f : State → State) (h : s.resetHeld = false) : plain f s = .next (publish s (f s)) := by
  simp only [plain, h, Bool.false_eq_true, if_false]

@[simp] theorem publish_pending (s t : State) : (publish s t).pending = t.pending := rfl
@[simp] theorem publish_writes (s t : State) : (publish s t).writes = [] := rfl
@[simp] theorem publish_frames (s t : State) : (publish s t).frames = t.frames := rfl
@[simp] theorem publish_opened (s t : State) : (publish s t).opened = t.opened := rfl
@[simp] theorem publish_resetHeld (s t : State) : (publish s t).resetHeld = t.resetHeld := rfl
@[simp] theorem publish_disp (s t : State) :
    (publish s t).disp = { t.disp with port := t.disp.port.queueAsked } := rfl
@[simp] theorem publish_lane (s t : State) : (publish s t).lane = t.lane := rfl
@[simp] theorem publish_lines (s t : State) : (publish s t).lines = t.lines := rfl
@[simp] theorem publish_scene (s t : State) : (publish s t).scene = t.scene := rfl
@[simp] theorem publish_tempo (s t : State) : (publish s t).tempo = t.tempo := rfl
@[simp] theorem publish_tuner (s t : State) : (publish s t).tuner = t.tuner := rfl
@[simp] theorem publish_scanner (s t : State) : (publish s t).scanner = t.scanner := rfl
@[simp] theorem publish_pedals (s t : State) : (publish s t).pedals = t.pedals := rfl
@[simp] theorem publish_bind (s t : State) : (publish s t).bind = t.bind := rfl
@[simp] theorem publish_link (s t : State) : (publish s t).link = t.link := rfl
@[simp] theorem publish_lamps (s t : State) : (publish s t).lamps = t.lamps := rfl

theorem publish_wf {s t : State} (h : t.mem.wf = true) : (publish s t).mem.wf = true := Memory.partWrites_wf _ h

/-- The end of an event leaves every byte that the part does not write. -/
theorem publish_host {s t : State} (h : t.mem.wf = true) {a : Nat} (ha : partByte a = false) :
    (publish s t).mem.read a = t.mem.read a := Memory.read_partWrites_host _ h ha

/-- An event that changes nothing leaves exchange memory. -/
theorem publish_self {s : State} (h : s.writes = []) (ha : s.disp.port.asked = []) : publish s s = s :=
  publish_of_unshown rfl h ha

/-! ### A boundary's arrival and work -/

theorem openBoundary_of_opened {s : State} (h : s.opened = true) : openBoundary s = s := by
  unfold openBoundary; rw [if_pos h]

/-- What a boundary that arrives does (R1, R42, R83; log 2). -/
theorem openBoundary_of_closed {s : State} (h : s.opened = false) : openBoundary s =
    (let p := settlePost s
     askImpulseChunk { p with
       frames := p.frames + 1, opened := true, lane := { p.lane with arrived := p.lane.requests.length },
       tempo := { p.tempo with addDue := true }, disp := { p.disp with port := p.disp.port.queueAsked } }) := by
  unfold openBoundary; simp only [h, Bool.false_eq_true, if_false, setTempoUnit]

/-- A boundary that arrives leaves, but for the frame count and its own standing, what a still function leaves. -/
theorem openBoundary_still {s : State} (h : s.opened = false) :
    Still (openBoundary s) { s with frames := s.frames + 1, opened := true } := by
  have k := still_apply settlePost_still s
  unfold openBoundary; rw [if_neg (by simp [h])]; dsimp only
  refine (Still.symm ((askImpulseChunk_still _ _).mpr ((setTempoUnit_still _ _ _).mpr ?_)))
  rw [still_iff] at *
  simp only [State.still, Prod.mk.injEq] at *
  simp [k]

@[simp] theorem openBoundary_pending (s : State) : (openBoundary s).pending = s.pending := by
  cases h : s.opened
  · exact (openBoundary_still h).pending
  · rw [openBoundary_of_opened h]

@[simp] theorem openBoundary_mem (s : State) : (openBoundary s).mem = s.mem := by
  cases h : s.opened
  · exact (openBoundary_still h).mem
  · rw [openBoundary_of_opened h]

@[simp] theorem openBoundary_resetHeld (s : State) : (openBoundary s).resetHeld = s.resetHeld := by
  cases h : s.opened
  · exact (openBoundary_still h).resetHeld
  · rw [openBoundary_of_opened h]

@[simp] theorem openBoundary_hostWait (s : State) : (openBoundary s).disp.port.hostWait = s.disp.port.hostWait := by
  cases h : s.opened
  · exact (openBoundary_still h).hostWait
  · rw [openBoundary_of_opened h]

@[simp] theorem openBoundary_mapLength (s : State) : (openBoundary s).lines.map.length = s.lines.map.length := by
  cases h : s.opened
  · exact (openBoundary_still h).mapLength
  · rw [openBoundary_of_opened h]

@[simp] theorem openBoundary_opened (s : State) : (openBoundary s).opened = true := by
  cases h : s.opened
  · exact (openBoundary_still h).opened
  · rw [openBoundary_of_opened h, h]

theorem openBoundary_frames (s : State) :
    (openBoundary s).frames = if s.opened then s.frames else s.frames + 1 := by
  cases h : s.opened
  · exact (openBoundary_still h).frames
  · rw [openBoundary_of_opened h]; simp

@[simp] theorem laneFrame_still (s t choose input pa pb) (hc : ∀ s t, Still s (choose t) ↔ Still s t) :
    Still s (laneFrame choose input pa pb t) ↔ Still s t := by
  have h : ∀ t, Still s (playFrame input pa pb t) ↔ Still s t := fun t => Still.congr rfl
  simp [laneFrame, h, hc]

@[simp] theorem tunerFrame_still (s t input) : Still s (tunerFrame input t) ↔ Still s t := by
  unfold tunerFrame; split <;> exact Still.congr rfl

/-- The boundary's work ends its standing, and leaves the rest as a still function does. -/
theorem frameWork_still (i : BoundaryInput) (s : State) : Still (frameWork i s) { s with opened := false } := by
  have e : Still (setLines s.lines.zeroFour (countWatch s)) s :=
    Still.symm ((setLines_still _ _ _ (by simp [countWatch])).mpr ((countWatch_still _ _).mpr ((still_self s).mpr trivial)))
  have k : ∀ pa pb, Still (laneFrame chooseLane (inputFrame i) pa pb (setLines s.lines.zeroFour (countWatch s))) s :=
    fun pa pb => (still_apply (laneFrame_still · · chooseLane (inputFrame i) pa pb chooseLane_still) _).trans e
  unfold frameWork; dsimp only
  refine Still.symm ((takeAddition_still _ _).mpr ((lampFrame_still _ _).mpr ((finish_still _ _).mpr
    ((pedalFrame_still _ _ _).mpr ((scannerFrame_still _ _ _).mpr ((tunerFrame_still _ _ _).mpr ?_))))))
  have k := k ((setLines s.lines.zeroFour (countWatch s)).bankPlay .a) ((setLines s.lines.zeroFour (countWatch s)).bankPlay .b)
  rw [still_iff] at *
  simp only [State.still, Prod.mk.injEq] at *
  simp [k]

/-- A whole boundary: the boundary that stands, or the next one, with its standing ended. -/
theorem frameBoundary_still (i : BoundaryInput) (s : State) :
    Still (frameBoundary i s) { openBoundary s with opened := false } := by
  have k := still_apply sceneWork_still (openBoundary s)
  have h := frameWork_still i (sceneWork (openBoundary s))
  refine Still.trans h ?_
  rw [still_iff] at *
  simp only [State.still, Prod.mk.injEq] at *
  simp [k]

/-! ### The initialization burst -/

@[simp] theorem initBurst_pending (s : State) : (initBurst s).pending = s.pending := by simp only [initBurst]
@[simp] theorem initBurst_writes (s : State) : (initBurst s).writes = s.writes := by simp only [initBurst]
@[simp] theorem initBurst_frames (s : State) : (initBurst s).frames = s.frames := by simp only [initBurst]
@[simp] theorem initBurst_opened (s : State) : (initBurst s).opened = s.opened := by simp only [initBurst]
@[simp] theorem initBurst_delivering (s : State) : (initBurst s).delivering = s.delivering := by simp only [initBurst]
@[simp] theorem initBurst_resetHeld (s : State) : (initBurst s).resetHeld = s.resetHeld := by simp only [initBurst]
@[simp] theorem initBurst_stamp (s : State) : (initBurst s).stamp = s.stamp := by simp only [initBurst]
@[simp] theorem initBurst_disp (s : State) : (initBurst s).disp = s.disp := by simp only [initBurst]
@[simp] theorem initBurst_lane (s : State) : (initBurst s).lane = s.lane := by simp only [initBurst]
@[simp] theorem initBurst_lines (s : State) : (initBurst s).lines = s.lines := by simp only [initBurst]
@[simp] theorem initBurst_scene (s : State) : (initBurst s).scene = s.scene := by simp only [initBurst]
@[simp] theorem initBurst_tempo (s : State) : (initBurst s).tempo = s.tempo := by simp only [initBurst]
@[simp] theorem initBurst_tuner (s : State) : (initBurst s).tuner = s.tuner := by simp only [initBurst]
@[simp] theorem initBurst_scanner (s : State) : (initBurst s).scanner = s.scanner := by simp only [initBurst]
@[simp] theorem initBurst_pedals (s : State) : (initBurst s).pedals = s.pedals := by simp only [initBurst]
@[simp] theorem initBurst_bind (s : State) : (initBurst s).bind = s.bind := by simp only [initBurst]
@[simp] theorem initBurst_link (s : State) : (initBurst s).link = s.link := by simp only [initBurst]
@[simp] theorem initBurst_lamps (s : State) : (initBurst s).lamps = s.lamps := by simp only [initBurst]

theorem initBurst_wf {s : State} (h : s.mem.wf = true) : (initBurst s).mem.wf = true := by
  simp only [initBurst]; exact Memory.partWrites_wf _ h

theorem initBurst_host {s : State} (h : s.mem.wf = true) {a : Nat} (ha : partByte a = false) :
    (initBurst s).mem.read a = s.mem.read a := by
  simp only [initBurst]; exact Memory.read_partWrites_host _ h ha

/-! ### The end of a burst -/

theorem endBurst_of_none {s : State} (h : s.disp.port.hostWait = none) :
    endBurst s = { s with disp := { s.disp with port := { s.disp.port with running := none, hostWait := none } } } := by
  simp [endBurst, h]

theorem endBurst_fields (s : State) :
    (endBurst s).pending = s.pending ∧ (endBurst s).frames = s.frames ∧ (endBurst s).opened = s.opened ∧
      (endBurst s).resetHeld = s.resetHeld ∧ (endBurst s).writes = s.writes ∧ (endBurst s).lines = s.lines ∧
      (endBurst s).disp.port.hostWait = none ∧ (endBurst s).disp.port.running = none := by
  unfold endBurst
  cases s.disp.port.hostWait with
  | none => simp
  | some acc => cases acc <;> simp [hostAccess]

end Sys2Proof.Machine
end

