-- ==== Sys2Proof/Laws/Status.lean ====
section
/-! SUPPORT. The status words: their number and their addresses, and that a word an event changes is the word then read. -/

namespace Sys2Proof.Machine

/-! ### Lengths -/

@[simp] theorem bytesOfWord_length (w : Word) : (bytesOfWord w).length = 2 := rfl

@[simp] theorem bytesOfWords_length (l : List Word) : (bytesOfWords l).length = 2 * l.length := by
  induction l with
  | nil => rfl
  | cons w l ih => simp only [bytesOfWords, List.flatMap_cons, List.length_append, bytesOfWord_length] at *; rw [ih]; simp; omega

@[simp] theorem bytesOfLong_length (l : Long) : (bytesOfLong l).length = 4 := rfl

@[simp] theorem wordsOfBytes_length : ∀ l : List Nat, (wordsOfBytes l).length = (l.length + 1) / 2
  | [] => rfl
  | [_] => by simp [wordsOfBytes]
  | _ :: _ :: l => by simp only [wordsOfBytes, List.length_cons, wordsOfBytes_length l]; omega

@[simp] theorem wordsAt_map_fst (l : List Word) : ∀ a, (wordsAt a l).map Prod.fst = (List.range l.length).map fun i => a + 2 * i := by
  induction l with
  | nil => intro a; rfl
  | cons w l ih =>
    intro a
    simp only [wordsAt, List.map_cons, ih, List.length_cons, List.range_succ_eq_map, List.map_map]
    simp only [Nat.mul_zero, Nat.add_zero, List.cons.injEq, true_and]
    apply List.map_congr_left; intro i _; simp only [Function.comp]; omega

@[simp] theorem liveStages_length (s : State) : s.liveStages.length = 24 := by
  unfold State.liveStages; split <;> simp

theorem flatMap_length_const {α β : Type} (f : α → List β) (n : Nat) (h : ∀ x, (f x).length = n) (l : List α) :
    (l.flatMap f).length = n * l.length := by
  induction l with
  | nil => rfl
  | cons x l ih => simp only [List.flatMap_cons, List.length_append, h, ih, List.length_cons]; rw [Nat.mul_add]; omega

@[simp] theorem dispatcherBytes_length (s : State) : s.dispatcherBytes.length = 26 := by simp [State.dispatcherBytes]
@[simp] theorem laneBytes_length (s : State) : s.laneBytes.length = 82 := by simp [State.laneBytes]
@[simp] theorem lineBytes_length (s : State) : s.lineBytes.length = 74 := by
  simp only [State.lineBytes, List.length_append]
  rw [flatMap_length_const _ 4 (fun _ => rfl)]; simp
@[simp] theorem sceneBytes_length (s : State) : s.sceneBytes.length = 14 := by
  simp only [State.sceneBytes, List.length_append]; unfold latchBytes; split <;> simp
@[simp] theorem tempoBytes_length (s : State) : s.tempoBytes.length = 4 := by simp [State.tempoBytes]
@[simp] theorem tunerBytes_length (s : State) : s.tunerBytes.length = 4 := by simp [State.tunerBytes]
@[simp] theorem bindBytes_length (s : State) : s.bindBytes.length = 4 := by simp [State.bindBytes]
@[simp] theorem linkBytes_length (s : State) : s.linkBytes.length = 34 := by simp [State.linkBytes, holdBytes]
@[simp] theorem lampBytes_length (s : State) : s.lampBytes.length = 14 := by simp [State.lampBytes]

theorem statusBlock_length (s : State) : s.statusBlock.length = 256 := by simp [State.statusBlock]

theorem controlCell_length (s : State) : s.controlCell.length = 24 := by
  simp [State.controlCell, pedalBytes]

@[simp] theorem controlWords_length (s : State) : s.controlWords.length = 24 := by
  simp only [State.controlWords, List.length_append]; rw [flatMap_length_const _ 2 (fun _ => rfl)]; simp [PedalConfig.words]
@[simp] theorem linkWords_length (c : LinkConfig) : c.words.length = 24 := by
  simp only [LinkConfig.words, List.length_append]; rw [flatMap_length_const _ 2 (fun _ => rfl)]; simp
@[simp] theorem configWords_length (d : LampDriver) : d.configWords.length = 36 := by
  simp only [LampDriver.configWords]; rw [flatMap_length_const _ 3 (fun _ => rfl)]; simp
@[simp] theorem gapWords_length (d : LampDriver) : d.gapWords.length = 3 := by simp [LampDriver.gapWords]

theorem extensionWords_length (s : State) : s.extensionWords.length = 108 := by simp [State.extensionWords]

/-- The addresses of the status words, the same in every state. -/
def statusAddresses : List Nat :=
  ((List.range 128).map fun i => 2 * i) ++ ((List.range 12).map fun i => 0x110 + 2 * i) ++
    ((List.range 108).map fun i => 0x128 + 2 * i)

theorem statusWords_fst (s : State) : s.statusWords.map Prod.fst = statusAddresses := by
  simp only [State.statusWords, List.map_append, wordsAt_map_fst, wordsOfBytes_length, statusBlock_length,
    controlCell_length, extensionWords_length, statusAddresses, Nat.zero_add]

theorem mem_statusAddresses {a : Nat} (h : a ∈ statusAddresses) : a % 2 = 0 ∧ a < 0x200 ∧ (a < 0x100 ∨ 0x110 ≤ a) := by
  simp only [statusAddresses, List.mem_append, List.mem_map, List.mem_range] at h
  rcases h with (⟨i, hi, rfl⟩ | ⟨i, hi, rfl⟩) | ⟨i, hi, rfl⟩ <;> omega

theorem statusAddresses_nodup : statusAddresses.Nodup :=
  (List.isChain_iff_pairwise.mp (by decide +kernel : statusAddresses.IsChain (· < ·))).imp fun h => Nat.ne_of_lt h

/-! ### What stands at an address -/

theorem wordsAt_mem {l : List Word} {n : Nat} {w : Word} (h : l[n]? = some w) : ∀ a, (a + 2 * n, w) ∈ wordsAt a l := by
  induction l generalizing n with
  | nil => simp at h
  | cons x l ih =>
    intro a
    cases n with
    | zero => simp only [List.getElem?_cons_zero, Option.some.injEq] at h; simp [wordsAt, h]
    | succ n =>
      simp only [List.getElem?_cons_succ] at h
      rw [show a + 2 * (n + 1) = a + 2 + 2 * n by omega]
      exact List.mem_cons_of_mem _ (ih h _)

theorem wordsOfBytes_get (n : Nat) : ∀ {l : List Nat} {x y : Nat}, l[2 * n]? = some x → l[2 * n + 1]? = some y →
    (wordsOfBytes l)[n]? = some (bytePair x y) := by
  induction n with
  | zero =>
    intro l x y hx hy
    match l with
    | [] => simp at hx
    | [_] => simp at hy
    | a :: b :: l => simp_all [wordsOfBytes]
  | succ n ih =>
    intro l x y hx hy
    match l with
    | [] => simp at hx
    | [_] => simp at hy
    | a :: b :: l =>
      rw [show 2 * (n + 1) = 2 * n + 1 + 1 by omega] at hx hy
      simp only [List.getElem?_cons_succ] at hx hy
      simpa only [wordsOfBytes, List.getElem?_cons_succ] using ih hx hy

theorem bytePair_bytesOfWord (w : Word) : bytePair (w.toNat % 256) (w.toNat / 256) = w := by
  apply BitVec.eq_of_toNat_eq
  have := w.isLt
  simp only [bytePair, BitVec.toNat_ofNat]; omega

theorem bytesOfWords_get {l : List Word} {n : Nat} {w : Word} (h : l[n]? = some w) :
    (bytesOfWords l)[2 * n]? = some (w.toNat % 256) ∧ (bytesOfWords l)[2 * n + 1]? = some (w.toNat / 256) := by
  induction l generalizing n with
  | nil => simp at h
  | cons x l ih =>
    have e : bytesOfWords (x :: l) = x.toNat % 256 :: x.toNat / 256 :: bytesOfWords l := rfl
    cases n with
    | zero => simp only [List.getElem?_cons_zero, Option.some.injEq] at h; subst h; rw [e]; simp
    | succ n =>
      simp only [List.getElem?_cons_succ] at h
      rw [e, show 2 * (n + 1) = 2 * n + 1 + 1 by omega]
      simpa only [List.getElem?_cons_succ] using ih h

/-- A list stands in another from place `k` on. -/
abbrev StandsAt {α : Type} (l : List α) (k : Nat) (whole : List α) : Prop := ∃ pre post, whole = pre ++ l ++ post ∧ pre.length = k

theorem StandsAt.get {α : Type} {l whole : List α} {k n : Nat} {x : α} (h : StandsAt l k whole) (hx : l[n]? = some x) :
    whole[k + n]? = some x := by
  obtain ⟨pre, post, rfl, rfl⟩ := h
  have hn : n < l.length := (List.getElem?_eq_some_iff.mp hx).1
  rw [List.append_assoc, List.getElem?_append_right (by omega), Nat.add_sub_cancel_left,
    List.getElem?_append_left hn, hx]

theorem StandsAt.trans {α : Type} {l m whole : List α} {j k : Nat} (h : StandsAt l j m) (g : StandsAt m k whole) :
    StandsAt l (k + j) whole := by
  obtain ⟨p, q, rfl, rfl⟩ := h
  obtain ⟨p', q', rfl, rfl⟩ := g
  exact ⟨p' ++ p, q ++ q', by simp, by simp⟩

/-- Bytes that stand in the status block at an even offset are the words there. -/
theorem statusBlock_bytes {s : State} {l : List Nat} {k : Nat} (h : StandsAt l (2 * k) s.statusBlock) {n x y : Nat}
    (hx : l[2 * n]? = some x) (hy : l[2 * n + 1]? = some y) : (2 * k + 2 * n, bytePair x y) ∈ s.statusWords := by
  have e := wordsAt_mem (wordsOfBytes_get (k + n) (l := s.statusBlock)
    (by rw [Nat.mul_add]; exact h.get hx) (by rw [Nat.mul_add, Nat.add_assoc]; exact h.get hy)) 0
  rw [Nat.zero_add, Nat.mul_add] at e
  exact List.mem_append_left _ (List.mem_append_left _ e)

/-- Words that stand in the status block, as bytes, are the words there. -/
theorem statusBlock_words {s : State} {l : List Word} {k : Nat} (h : StandsAt (bytesOfWords l) (2 * k) s.statusBlock)
    {n : Nat} {w : Word} (hw : l[n]? = some w) : (2 * k + 2 * n, w) ∈ s.statusWords := by
  have e := statusBlock_bytes h (bytesOfWords_get hw).1 (bytesOfWords_get hw).2
  rwa [bytePair_bytesOfWord] at e

/-- The same of the control cell. -/
theorem controlCell_bytes {s : State} {l : List Nat} {k : Nat} (h : StandsAt l (2 * k) s.controlCell) {n x y : Nat}
    (hx : l[2 * n]? = some x) (hy : l[2 * n + 1]? = some y) : (0x110 + 2 * k + 2 * n, bytePair x y) ∈ s.statusWords := by
  have e := wordsAt_mem (wordsOfBytes_get (k + n) (l := s.controlCell)
    (by rw [Nat.mul_add]; exact h.get hx) (by rw [Nat.mul_add, Nat.add_assoc]; exact h.get hy)) 0x110
  rw [Nat.mul_add, ← Nat.add_assoc] at e
  exact List.mem_append_left _ (List.mem_append_right _ e)

theorem controlCell_words {s : State} {l : List Word} {k : Nat} (h : StandsAt (bytesOfWords l) (2 * k) s.controlCell)
    {n : Nat} {w : Word} (hw : l[n]? = some w) : (0x110 + 2 * k + 2 * n, w) ∈ s.statusWords := by
  have e := controlCell_bytes h (bytesOfWords_get hw).1 (bytesOfWords_get hw).2
  rwa [bytePair_bytesOfWord] at e

/-- Words that stand in the status extension are the words there. -/
theorem extension_words {s : State} {l : List Word} {k : Nat} (h : StandsAt l k s.extensionWords) {n : Nat} {w : Word}
    (hw : l[n]? = some w) : (0x128 + 2 * k + 2 * n, w) ∈ s.statusWords := by
  have e := wordsAt_mem (h.get hw) 0x128
  rw [Nat.mul_add, ← Nat.add_assoc] at e
  exact List.mem_append_right _ e

/-- A word of a list laid out from `a` on, with its place in the list. -/
theorem mem_wordsAt_get {x : Nat × Word} : ∀ {l : List Word} {a : Nat}, x ∈ wordsAt a l →
    ∃ (n : Nat) (w : Word), l[n]? = some w ∧ x = (a + 2 * n, w)
  | [], a, h => by simp [wordsAt] at h
  | w :: l, a, h => by
    simp only [wordsAt, List.mem_cons] at h
    rcases h with h | h
    · exact ⟨0, w, rfl, h⟩
    · obtain ⟨n, v, h1, h2⟩ := mem_wordsAt_get h
      exact ⟨n + 1, v, h1, by rw [h2]; congr 1; ring⟩

/-- The words of a configuration that stand in the status extension are status words. -/
theorem extension_wordsAt {s : State} {l : List Word} {k : Nat} (h : StandsAt l k s.extensionWords) :
    ∀ x ∈ wordsAt (0x128 + 2 * k) l, x ∈ s.statusWords := by
  intro x hx
  obtain ⟨n, w, h1, rfl⟩ := mem_wordsAt_get hx
  exact extension_words h h1

/-- Where each unit's bytes stand in the status block. -/
theorem statusBlock_parts (s : State) :
    StandsAt s.dispatcherBytes 0 s.statusBlock ∧ StandsAt s.laneBytes 26 s.statusBlock ∧
      StandsAt s.lineBytes 108 s.statusBlock ∧ StandsAt s.sceneBytes 182 s.statusBlock ∧
      StandsAt s.tempoBytes 196 s.statusBlock ∧ StandsAt s.tunerBytes 200 s.statusBlock ∧
      StandsAt s.bindBytes 204 s.statusBlock ∧ StandsAt s.linkBytes 208 s.statusBlock ∧
      StandsAt s.lampBytes 242 s.statusBlock := by
  have e : ∀ p l q : List Nat, s.statusBlock = p ++ l ++ q → StandsAt l p.length s.statusBlock := fun p l q h => ⟨p, q, h, rfl⟩
  refine ⟨?_, ?_, ?_, ?_, ?_, ?_, ?_, ?_, ?_⟩
  · simpa using e [] _ _ (by simp only [State.statusBlock, List.append_assoc, List.nil_append]; rfl)
  · simpa using e s.dispatcherBytes _ _ (by simp only [State.statusBlock, List.append_assoc]; rfl)
  · simpa using e (s.dispatcherBytes ++ s.laneBytes) _ _ (by simp only [State.statusBlock, List.append_assoc]; rfl)
  · simpa using e (s.dispatcherBytes ++ s.laneBytes ++ s.lineBytes) _ _
      (by simp only [State.statusBlock, List.append_assoc]; rfl)
  · simpa using e (s.dispatcherBytes ++ s.laneBytes ++ s.lineBytes ++ s.sceneBytes) _ _
      (by simp only [State.statusBlock, List.append_assoc]; rfl)
  · simpa using e (s.dispatcherBytes ++ s.laneBytes ++ s.lineBytes ++ s.sceneBytes ++ s.tempoBytes) _ _
      (by simp only [State.statusBlock, List.append_assoc]; rfl)
  · simpa using e (s.dispatcherBytes ++ s.laneBytes ++ s.lineBytes ++ s.sceneBytes ++ s.tempoBytes ++ s.tunerBytes) _ _
      (by simp only [State.statusBlock, List.append_assoc]; rfl)
  · simpa using e (s.dispatcherBytes ++ s.laneBytes ++ s.lineBytes ++ s.sceneBytes ++ s.tempoBytes ++ s.tunerBytes ++
      s.bindBytes) _ _ (by simp only [State.statusBlock, List.append_assoc]; rfl)
  · simpa using e (s.dispatcherBytes ++ s.laneBytes ++ s.lineBytes ++ s.sceneBytes ++ s.tempoBytes ++ s.tunerBytes ++
      s.bindBytes ++ s.linkBytes) s.lampBytes [] (by simp only [State.statusBlock, List.append_assoc, List.append_nil])

/-- Where each configuration's words stand in the status extension. -/
theorem extension_parts (s : State) :
    StandsAt s.controlWords 0 s.extensionWords ∧ StandsAt s.link.config.words 24 s.extensionWords ∧
      StandsAt s.lamps.configWords 48 s.extensionWords ∧ StandsAt s.lamps.gapWords 84 s.extensionWords ∧
      StandsAt (0 :: ((List.range 12).map fun n => word (s.lamps.lamp n).load.bits) ++ List.replicate 8 0) 87
        s.extensionWords := by
  have e : ∀ p l q : List Word, s.extensionWords = p ++ l ++ q → StandsAt l p.length s.extensionWords :=
    fun p l q h => ⟨p, q, h, rfl⟩
  refine ⟨?_, ?_, ?_, ?_, ?_⟩
  · simpa using e [] _ _ (by simp only [State.extensionWords, List.append_assoc, List.nil_append]; rfl)
  · simpa using e s.controlWords _ _ (by simp only [State.extensionWords, List.append_assoc]; rfl)
  · simpa using e (s.controlWords ++ s.link.config.words) _ _ (by simp only [State.extensionWords, List.append_assoc]; rfl)
  · simpa using e (s.controlWords ++ s.link.config.words ++ s.lamps.configWords) _ _
      (by simp only [State.extensionWords, List.append_assoc]; rfl)
  · have h := e (s.controlWords ++ s.link.config.words ++ s.lamps.configWords ++ s.lamps.gapWords)
      (0 :: ((List.range 12).map fun n => word (s.lamps.lamp n).load.bits) ++ List.replicate 8 0) []
      (by simp only [State.extensionWords, List.append_assoc, List.append_nil]; rfl)
    rwa [show (s.controlWords ++ s.link.config.words ++ s.lamps.configWords ++ s.lamps.gapWords).length = 87 by simp] at h

/-- An entry's part of a list made of parts of one length. -/
theorem standsAt_flatMap {α : Type} (f : Nat → List α) (c : Nat) (hf : ∀ i, (f i).length = c) {n i : Nat} (hi : i < n) :
    StandsAt (f i) (c * i) ((List.range n).flatMap f) := by
  refine ⟨(List.range i).flatMap f, (List.range' (i + 1) (n - (i + 1))).flatMap f, ?_, ?_⟩
  · have e : List.range n = List.range i ++ [i] ++ List.range' (i + 1) (n - (i + 1)) := by
      apply List.ext_getElem
      · simp; omega
      · intro j h1 h2
        simp only [List.getElem_range, List.getElem_append, List.length_append, List.length_range, List.length_cons,
          List.length_nil, List.getElem_range', List.getElem_singleton]
        (repeat' split) <;> omega
    rw [e]; simp [List.flatMap_append]
  · rw [flatMap_length_const f c hf]; simp

/-! ### The words that an event changes -/

theorem changedWords_sublist (s t : State) : (changedWords s t).Sublist t.statusWords := by
  unfold changedWords
  have : ∀ l k : List (Nat × Word), l.length = k.length →
      ((List.zipWith (fun x y => if x.2 = y.2 then none else some y) l k).filterMap id).Sublist k := by
    intro l; induction l with
    | nil => intro k _; simp
    | cons x l ih =>
      intro k hk
      cases k with
      | nil => simp
      | cons y k =>
        simp only [List.length_cons, Nat.add_right_cancel_iff] at hk
        simp only [List.zipWith_cons_cons, List.filterMap_cons]
        split
        · exact (ih k hk).cons _
        · rename_i h
          split at h
          · simp at h
          · simp only [id, Option.some.injEq] at h; rw [← h]; exact (ih k hk).cons_cons _
  apply this
  have := congrArg List.length ((statusWords_fst s).trans (statusWords_fst t).symm)
  simpa using this

/-- A status word of the state after is one of the state before, or one that the event changes. -/
theorem statusWord_cases (s t : State) {x : Nat × Word} (h : x ∈ t.statusWords) :
    x ∈ s.statusWords ∨ x ∈ changedWords s t := by
  unfold changedWords
  have : ∀ l k : List (Nat × Word), l.map Prod.fst = k.map Prod.fst → x ∈ k →
      x ∈ l ∨ x ∈ (List.zipWith (fun x y => if x.2 = y.2 then none else some y) l k).filterMap id := by
    intro l; induction l with
    | nil => intro k hk hx; cases k <;> simp_all
    | cons y l ih =>
      intro k hk hx
      cases k with
      | nil => simp_all
      | cons z k =>
        simp only [List.map_cons, List.cons.injEq] at hk
        simp only [List.zipWith_cons_cons, List.filterMap_cons, id]
        rcases List.mem_cons.mp hx with rfl | hx
        · by_cases e : y.2 = x.2
          · left; rw [show x = y from Prod.ext hk.1.symm e.symm]; exact List.mem_cons_self
          · right; simp [e]
        · rcases ih k hk.2 hx with h | h
          · left; exact List.mem_cons_of_mem _ h
          · right; split
            · exact h
            · exact List.mem_cons_of_mem _ h
  exact this _ _ ((statusWords_fst s).trans (statusWords_fst t).symm) h

/-- A status word that the event changes is none of the state before. -/
theorem changedWords_new {s t : State} {x : Nat × Word} (h : x ∈ changedWords s t) : x ∉ s.statusWords := by
  have key : ∀ l k : List (Nat × Word), l.map Prod.fst = k.map Prod.fst → (l.map Prod.fst).Nodup →
      x ∈ (List.zipWith (fun x y => if x.2 = y.2 then none else some y) l k).filterMap id → x ∉ l := by
    intro l; induction l with
    | nil => simp
    | cons y l ih =>
      intro k hk hn hx
      cases k with
      | nil => simp at hk
      | cons z k =>
        simp only [List.map_cons, List.cons.injEq, List.nodup_cons] at hk hn
        rw [List.zipWith_cons_cons] at hx
        have tail : ∀ u ∈ (List.zipWith (fun x y => if x.2 = y.2 then none else some y) l k).filterMap id,
            u.1 ∈ l.map Prod.fst := fun u hu => by
          obtain ⟨v, hv, e⟩ := List.mem_filterMap.mp hu
          obtain ⟨i, hi, rfl⟩ := List.mem_iff_getElem.mp hv
          simp only [List.getElem_zipWith, id] at e
          split at e
          · cases e
          · cases e; rw [hk.2]; exact List.mem_map_of_mem (List.getElem_mem _)
        by_cases e : y.2 = z.2
        · simp only [e, if_true, List.filterMap_cons, id] at hx
          exact fun hm => (List.mem_cons.mp hm).elim (fun hy => hn.1 (hy ▸ tail x hx)) (ih k hk.2 hn.2 hx)
        · simp only [e, if_false, List.filterMap_cons, id] at hx
          rcases List.mem_cons.mp hx with rfl | hx
          · exact fun hm => (List.mem_cons.mp hm).elim (fun hy => e (by rw [hy]))
              (fun hm => hn.1 (hk.1 ▸ List.mem_map_of_mem hm))
          · exact fun hm => (List.mem_cons.mp hm).elim (fun hy => hn.1 (hy ▸ tail x hx)) (ih k hk.2 hn.2 hx)
  exact key _ _ ((statusWords_fst s).trans (statusWords_fst t).symm)
    (by rw [statusWords_fst]; exact statusAddresses_nodup) h

/-! ### Reading a word written -/

theorem Memory.readWord_partWrite_other {m : Memory} (h : m.wf = true) (x : Nat × Word) {a : Nat}
    (h0 : a + 1 < x.1 ∨ x.1 + 1 < a) : (m.partWrite x).readWord a = m.readWord a := by
  unfold Memory.partWrite; split
  · unfold Memory.readWord
    rw [Memory.read_writeWord_other h _ _ (by omega) (by omega), Memory.read_writeWord_other h _ _ (by omega) (by omega)]
  · rfl

theorem Memory.readWord_partWrites_other {m : Memory} (l : List (Nat × Word)) (h : m.wf = true) {a : Nat}
    (h0 : ∀ x ∈ l, a + 1 < x.1 ∨ x.1 + 1 < a) : (m.partWrites l).readWord a = m.readWord a := by
  induction l generalizing m with
  | nil => rfl
  | cons x l ih =>
    exact (ih (Memory.partWrite_wf x h) fun y hy => h0 y (List.mem_cons_of_mem _ hy)).trans
      (Memory.readWord_partWrite_other h x (h0 x List.mem_cons_self))

/-- A word written in a part-written area, its address apart from those written after it, is the word read. -/
theorem Memory.readWord_partWrites {m : Memory} (l r : List (Nat × Word)) (a : Nat) (w : Word) (h : m.wf = true)
    (hp : partByte a = true) (hq : partByte (a + 1) = true) (h0 : ∀ x ∈ r, a + 1 < x.1 ∨ x.1 + 1 < a) :
    (m.partWrites (l ++ (a, w) :: r)).readWord a = w := by
  have e : m.partWrites (l ++ (a, w) :: r) = ((m.partWrites l).partWrite (a, w)).partWrites r := by
    simp [Memory.partWrites]
  rw [e, Memory.readWord_partWrites_other _ (Memory.partWrite_wf _ (Memory.partWrites_wf _ h)) h0]
  unfold Memory.partWrite
  rw [if_pos (by simp [hp, hq])]
  apply Memory.readWord_writeWord (Memory.partWrites_wf _ h)
  by_contra hlt
  simp only [partByte, Bool.or_eq_true, Bool.and_eq_true, decide_eq_true_eq] at hq
  omega

/-- A status word lies apart from the tuner cell and from all beyond the status areas. -/
theorem statusWords_apart {s : State} {x : Nat × Word} (hx : x ∈ s.statusWords) {a : Nat}
    (ha : 0x200 ≤ a ∨ (0x100 ≤ a ∧ a + 1 < 0x110)) : a + 1 < x.1 ∨ x.1 + 1 < a := by
  have hm : x.1 ∈ statusAddresses := by rw [← statusWords_fst s]; exact List.mem_map_of_mem hx
  have := mem_statusAddresses hm
  omega

/-- A word of an event's own writes, the last at its address and apart from the status words the event changed, is the word
read after it. -/
theorem publish_readWord {s t : State} (h : t.mem.wf = true) (l r : List (Nat × Word)) (a : Nat) (w : Word)
    (hw : t.writes = l ++ (a, w) :: r) (hp : partByte a = true) (hq : partByte (a + 1) = true)
    (h0 : ∀ x ∈ r, a + 1 < x.1 ∨ x.1 + 1 < a) (h1 : ∀ x ∈ changedWords s t, a + 1 < x.1 ∨ x.1 + 1 < a) :
    (publish s t).mem.readWord a = w := by
  simp only [publish, hw, List.append_assoc, List.cons_append]
  exact Memory.readWord_partWrites l _ a w h hp hq fun x hx => (List.mem_append.mp hx).elim (h0 x) (h1 x)

/-- A byte that no write of the event and no changed status word covers is left. -/
theorem publish_read_other {s t : State} (h : t.mem.wf = true) {a : Nat} (h0 : ∀ x ∈ t.writes, a ≠ x.1 ∧ a ≠ x.1 + 1)
    (h1 : ∀ x ∈ changedWords s t, a ≠ x.1 ∧ a ≠ x.1 + 1) : (publish s t).mem.read a = t.mem.read a :=
  Memory.read_partWrites_other _ h fun x hx => (List.mem_append.mp hx).elim (h0 x) (h1 x)

/-! ### What an initialization burst writes -/

/-- The addresses an initialization burst writes, the same in every state. -/
def initAddresses : List Nat :=
  statusAddresses ++ ((List.range 8).map fun i => 0x100 + 2 * i) ++
    ((List.range 32).flatMap fun i => (List.range 6).map fun k => slotBase i + 0x34 + 2 * k) ++
    ((List.range 16).map fun k => 0x0A00 + 2 * k) ++ ((List.range 16).map fun k => 0x0E00 + 2 * k)

theorem initWords_fst (s : State) : s.initWords.map Prod.fst = initAddresses := by
  simp only [State.initWords, List.map_append, List.map_flatMap, statusWords_fst, wordsAt_map_fst, List.map_map]
  rfl

theorem initAddresses_nodup : initAddresses.Nodup := by
  have h : ∀ a b c d e f g : List Nat, (a ++ d ++ b ++ c ++ e ++ f ++ g).IsChain (· < ·) →
      (a ++ b ++ c ++ d ++ e ++ f ++ g).Nodup := by
    intro a b c d e f g h
    have h2 : (a ++ d ++ b ++ c ++ e ++ f ++ g).Nodup :=
      (List.isChain_iff_pairwise.mp h).imp fun h => Nat.ne_of_lt h
    refine (List.Perm.nodup_iff ?_).mp h2
    simp only [List.append_assoc]
    refine List.Perm.append_left a ?_
    have k := (List.perm_append_comm : (d ++ (b ++ c)).Perm ((b ++ c) ++ d)).append_right (e ++ (f ++ g))
    simpa only [List.append_assoc] using k
  exact h _ _ _ _ _ _ _ (by decide +kernel)

theorem mem_initAddresses : ∀ a ∈ initAddresses, a % 2 = 0 ∧ partByte a = true ∧ partByte (a + 1) = true := by
  decide +kernel

/-- Words written in part-written areas, each at its own even address, are the words read. -/
theorem Memory.readWord_of_partWrites {m : Memory} {l : List (Nat × Word)} (h : m.wf = true) (hn : (l.map Prod.fst).Nodup)
    (hp : ∀ x ∈ l, x.1 % 2 = 0 ∧ partByte x.1 = true ∧ partByte (x.1 + 1) = true) {x : Nat × Word} (hx : x ∈ l) :
    (m.partWrites l).readWord x.1 = x.2 := by
  obtain ⟨p, q, rfl⟩ := List.append_of_mem hx
  refine Memory.readWord_partWrites p q x.1 x.2 h (hp x hx).2.1 (hp x hx).2.2 fun y hy => ?_
  have hne : x.1 ≠ y.1 := by
    simp only [List.map_append, List.map_cons, List.nodup_append, List.nodup_cons] at hn
    exact fun e => hn.2.1.1 (e ▸ List.mem_map_of_mem hy)
  have h1 := (hp x hx).1
  have h2 := (hp y (by simp [hy])).1
  omega

/-- The words of an initialization burst are the words read after it. -/
theorem initBurst_readWord {s : State} (h : s.mem.wf = true) {x : Nat × Word} (hx : x ∈ s.initWords) :
    (initBurst s).mem.readWord x.1 = x.2 := by
  have e : (initBurst s).mem = s.mem.partWrites s.initWords := by simp only [initBurst]
  rw [e]
  refine Memory.readWord_of_partWrites h (by rw [initWords_fst]; exact initAddresses_nodup) (fun y hy => ?_) hx
  exact mem_initAddresses _ (by rw [← initWords_fst s]; exact List.mem_map_of_mem hy)

/-- A byte of no word that an initialization burst writes stays. -/
theorem initBurst_read_other {s : State} (h : s.mem.wf = true) {a : Nat} (ha : ∀ x ∈ initAddresses, a ≠ x ∧ a ≠ x + 1) :
    (initBurst s).mem.read a = s.mem.read a := by
  have : ∀ (l : List (Nat × Word)) (m : Memory), m.wf = true → (∀ x ∈ l, a ≠ x.1 ∧ a ≠ x.1 + 1) →
      (m.partWrites l).read a = m.read a := by
    intro l; induction l with
    | nil => intros; rfl
    | cons x l ih =>
      intro m hm hl
      have e := ih (m.partWrite x) (Memory.partWrite_wf x hm) fun y hy => hl y (List.mem_cons_of_mem _ hy)
      refine e.trans ?_
      unfold Memory.partWrite; split
      · exact Memory.read_writeWord_other hm _ _ (hl x List.mem_cons_self).1 (hl x List.mem_cons_self).2
      · rfl
  have e : (initBurst s).mem = s.mem.partWrites s.initWords := by simp only [initBurst]
  rw [e]
  exact this _ _ h fun x hx => ha _ (by rw [← initWords_fst s]; exact List.mem_map_of_mem hx)

end Sys2Proof.Machine
end

