-- ==== Sys2Proof/Laws/Units.lean ====
section
/-! SUPPORT. What the operations that units share leave: a report, a completion, a change of the error counters, the end
of a burst, a mute change, a free bank. -/

namespace Sys2Proof.Machine

/-- A report changes only the dispatcher and the write buffer. -/
theorem appendReport_only (r : Report) (s : State) :
    appendReport r s = { s with disp := (appendReport r s).disp, writes := (appendReport r s).writes } := by
  unfold appendReport; dsimp only; split <;> rfl

@[simp] theorem appendReport_scene (r : Report) (s : State) : (appendReport r s).scene = s.scene := by rw [appendReport_only]

@[simp] theorem appendReport_slots (r : Report) (s : State) : (appendReport r s).disp.slots = s.disp.slots := by
  unfold appendReport; dsimp only; split <;> rfl

@[simp] theorem appendReport_ageList (r : Report) (s : State) : (appendReport r s).disp.ageList = s.disp.ageList := by
  unfold appendReport; dsimp only; split <;> rfl

@[simp] theorem appendReport_port (r : Report) (s : State) : (appendReport r s).disp.port = s.disp.port := by
  unfold appendReport; dsimp only; split <;> rfl

/-- Asking for a burst changes only the host port. -/
theorem askBurst_only (b : Burst) (s : State) :
    askBurst b s = { s with disp := { s.disp with port := (askBurst b s).disp.port } } := by
  unfold askBurst; dsimp only; split <;> rfl

/-- A burst asked for waits: in the queue, where it keeps its place, or with the bursts asked for in this event. -/
theorem askBurst_waits (b : Burst) (s : State) :
    b ∈ (askBurst b s).disp.port.queue ∨ b ∈ (askBurst b s).disp.port.asked := by
  unfold askBurst; dsimp only; split
  · rename_i h; exact .inl (List.contains_iff_mem.mp h)
  · exact .inr (List.mem_append_right _ List.mem_cons_self)

/-- A completion changes only the dispatcher and the write buffer. -/
theorem complete_only (i : Nat) (code : ResultCode) (flags : ResultFlags) (words : List Word) (s : State) :
    complete i code flags words s =
      { s with disp := (complete i code flags words s).disp, writes := (complete i code flags words s).writes } := by
  unfold complete; dsimp only; split
  · rw [appendReport_only]; rfl
  · rfl

@[simp] theorem complete_scene (i : Nat) (code : ResultCode) (flags : ResultFlags) (words : List Word) (s : State) :
    (complete i code flags words s).scene = s.scene := by rw [complete_only]

@[simp] theorem complete_lane (i : Nat) (code : ResultCode) (flags : ResultFlags) (words : List Word) (s : State) :
    (complete i code flags words s).lane = s.lane := by rw [complete_only]

@[simp] theorem complete_link (i : Nat) (code : ResultCode) (flags : ResultFlags) (words : List Word) (s : State) :
    (complete i code flags words s).link = s.link := by rw [complete_only]

/-- The end of a burst leaves the scene unit. -/
@[simp] theorem endBurst_scene (s : State) : (endBurst s).scene = s.scene := by
  unfold endBurst
  cases s.disp.port.hostWait with
  | none => rfl
  | some a => cases a <;> rfl

/-- New counters: the link state they give, and nothing changed but dispatcher, counters, state and write buffer. -/
theorem changeCounters_spec (tec rec_ cause : Nat) (s : State) :
    let v := changeCounters tec rec_ cause s
    v.link = { s.link with tec := tec, rec_ := rec_, state := linkStateOf tec rec_ s.link.state } ∧
      v.disp.slots = s.disp.slots ∧ v.disp.ageList = s.disp.ageList ∧
      v = { s with disp := v.disp, link := v.link, writes := v.writes } := by
  unfold changeCounters; dsimp only [setLink]
  split
  · simp
  · unfold reportLinkState raiseLink appendReport; dsimp only; split <;> simp [putWord, putWords]

/-- The hold that is SENDING. -/
theorem sendingHold_spec {s : State} {h : Nat} (hs : s.sendingHold = some h) : h < 3 ∧ (s.hold h).state = .sending := by
  unfold State.sendingHold at hs
  have h1 := List.mem_of_find?_eq_some hs
  have h2 := List.find?_some hs
  simp at h1 h2
  exact ⟨h1, h2⟩

/-- A bank's blocks count no more once the bank is freed, and every other holder's count stays. -/
theorem freeBank_counts (l : LineMemory) (k : BankId) (q : Holder → Bool) (hq : q .free = false) :
    countHolders q (l.freeBank k).map = (l.map.filter fun h => q h && !Holder.ofBank k h).length := by
  show ((l.map.map _).filter q).length = _
  induction l.map with
  | nil => rfl
  | cons a m ih =>
    simp only [List.map_cons, List.filter_cons]
    cases hk : Holder.ofBank k a <;> simp [hq, ih]
    split <;> simp [ih]

/-- A set just written into the directory. -/
theorem setImpulse_self {id : Nat} (h : id < 16) (e : ImpulseEntry) (l : LineMemory) : (setImpulse id e l).impulse id = e := by
  show (putAt 16 id _ ImpulseEntry.empty l.impulses).getD id _ = _
  rw [putAt_getD_self h]

/-- The most urgent of a list is one of them. -/
theorem mostUrgent_mem (pri : Nat → Nat) (l : List Nat) (i : Nat) (h : mostUrgent pri l = some i) : i ∈ l := by
  induction l generalizing i with
  | nil => simp [mostUrgent] at h
  | cons a l ih =>
    unfold mostUrgent at h
    cases hm : mostUrgent pri l with
    | none => simp [hm] at h; simp [h]
    | some j =>
      simp only [hm] at h
      split at h <;> simp at h <;> subst h
      · exact List.mem_cons_of_mem _ (ih _ hm)
      · simp

/-- What an owner is handed stands in the age list and is offered to it (R194). -/
theorem choice_offered {s : State} {o : Owner} {i : Nat} (h : s.choice o = some i) :
    i ∈ s.disp.ageList ∧ (s.slot i).offeredTo o = true := List.mem_filter.1 (mostUrgent_mem _ _ _ h)

/-- What the link controller is handed is a LINK_CONFIG or a LINK_REJOIN. -/
theorem choice_link {s : State} {i : Nat} (h : s.choice .link = some i) :
    ∃ o, (s.slot i).order = some o ∧ ((s.slot i).kind = some .linkConfig ∨ (s.slot i).kind = some .linkRejoin) := by
  have hf := (choice_offered h).2
  simp only [Slot.offeredTo, Slot.owner, Bool.and_eq_true, beq_iff_eq, bne_iff_ne, ne_eq] at hf
  obtain ⟨⟨_, h3⟩, h4⟩ := hf
  cases hk : (s.slot i).kind with
  | none => simp [hk] at h3
  | some k =>
    have ho : ∃ o, (s.slot i).order = some o := by
      unfold Slot.kind at hk
      cases hh : (s.slot i).order with
      | none => simp [hh] at hk
      | some o => exact ⟨o, rfl⟩
    obtain ⟨o, ho⟩ := ho
    refine ⟨o, ho, ?_⟩
    rw [hk] at h3 h4
    cases k <;> simp [OrderKind.owner] at h3 h4 ⊢

/-- The link controller's next choice keeps counters, state, holds, notices and all else of the link but the
configuration, the ADDRESS_SEEN mark and the rejoin mark and count. -/
theorem chooseFor_link (n : Nat) (s : State) :
    let t := chooseFor .link n s
    t.link = { s.link with config := t.link.config, addressSeen := t.link.addressSeen,
                           rejoinMark := t.link.rejoinMark, rejoinCount := t.link.rejoinCount } := by
  induction n generalizing s with
  | zero => rfl
  | succ n ih =>
    unfold chooseFor
    split
    · cases hc : s.choice .link with
      | none => rfl
      | some i =>
        obtain ⟨o, ho, hk⟩ := choice_link hc
        have h1 : (handOver i s).link = { s.link with
            config := (handOver i s).link.config, addressSeen := (handOver i s).link.addressSeen,
            rejoinMark := (handOver i s).link.rejoinMark, rejoinCount := (handOver i s).link.rejoinCount } := by
          unfold handOver
          rcases hk with hk | hk <;>
            simp only [hk, ho, takeOrder, takeLinkConfig, takeLinkRejoin, completeWith, completeOk]
          · split
            · simp [writeSlot, putWord, setSlot]
            · split
              · simp [writeSlot, putWord, setSlot]
              · simp [writeSlot, putWord, setSlot, putLinkConfig, putWords, setLink]
          · split
            · simp [writeSlot, putWord, setSlot]
            · split <;> simp [writeSlot, putWord, setSlot, setLink]
        have h2 := ih (handOver i s)
        simp only [Option.elim] at h2 ⊢
        rw [h2, h1]
    · rfl

end Sys2Proof.Machine
end

