-- ==== Sys2Proof/Tests/Slice0.lean ====
section
/-! SUPPORT. Tests: ill-formed commands, worked examples of one step, and for each statement states that meet its
hypotheses. -/

namespace Sys2Proof.Tests

open Sys2Proof.Machine

/-! ### Ill-formed commands (WellFormed) -/

theorem test_refuses_known_operation : (Instr.badOperation 4 0).wf = false ∧ (Instr.badOperation 1 0).wf = false := by decide
theorem test_refuses_short_frame : (Instr.frameBoundary ⟨some [(0, 0)], 0, 0⟩).wf = false := by decide
theorem test_refuses_short_run : (Instr.linkMessageStart 15).wf = false := by decide
theorem test_refuses_no_bits : (Instr.linkMessageReceived []).wf = false := by decide
theorem test_refuses_long_bits : (Instr.linkMessageReceived (List.replicate 92 true)).wf = false := by decide +kernel
theorem test_accepts : (Instr.badOperation 0 0).wf = true ∧ (Instr.linkMessageStart 16).wf = true ∧
    (Instr.frameBoundary ⟨none, 0, 0⟩).wf = true := by decide

/-! ### States for the witnesses, each a small change of the reset state -/

def base : State := State.reset
def onPort (f : Port → Port) (s : State) : State := { s with disp := { s.disp with port := f s.disp.port } }
def running (b : Burst) (s : State) : State := onPort (fun p => { p with running := some b }) s
def slotIn (i : Nat) (x : SlotState) (kind priority : Nat) (s : State) : State :=
  setSlot i { s.slot i with state := x, order := some ⟨kind, priority, 0, []⟩, routable := true } s
def inRun (s : State) : State := { s with disp := { s.disp with mode := .run } }
def settingUp (s : State) : State := { s with disp := { s.disp with setupPending := true } }
def bytes (l : List (Nat × Byte)) (s : State) : State :=
  { s with mem := l.foldl (fun m x => m.write x.1 x.2) s.mem }
/-- A boundary stands, so that a command at a boundary finds this state. -/
def standing (s : State) : State := { s with opened := true, frames := 1000 }
def inScene (f : SceneUnit → SceneUnit) (s : State) : State := { s with scene := f s.scene }
def onLink (f : Link → Link) (s : State) : State := { s with link := f s.link }
def bankA (x : BankState) (s : State) : State := setBankCtl .a { BankControl.reset with state := x, tailHold := 5 } s
def bankB (x : BankState) (s : State) : State := setBankCtl .b { BankControl.reset with state := x } s
def request : Request := newRequest .go 3 none (.slot 2)
def fadeOf (mode : FadeMode) (kept held : Bool) (o : Origin) : Fade :=
  ⟨{ request with origin := o }, mode, 4, 2, 900, some .a, .b, kept, held, false, false⟩
def inFade (f : Fade) : State :=
  standing (inScene (fun u => { u with state := .fading, fade := some f }) (bankB .live (bankA .outgoing base)))
def stage (k : StageKind) (g : GateState) : Stage :=
  { StageRecord.fill none ⟨k, 11, false, false, [-400, 1, 100, -960]⟩ with gate := g, gateHold := 1 }
def withStage (x : Stage) (s : State) : State :=
  let lane := { Lane.cleared with enabled := true, stages := Lane.cleared.stages.set 11 (some x) }
  bankA .live { s with lane := { s.lane with banks := { s.lane.banks with a := { Bank.cleared with lanes := ⟨lane, lane⟩ } } } }
def line (c : LineMode) (x : LineState) (level : Bool) (run : Nat) (s : State) : State :=
  setLine 7 { Line.reset with config := { LineConfig.reset with mode := c }, state := x, level := level, run := run } s
def onBus (s : State) : State := onLink (fun l => { l with engagement := .onBus, lineFree := true }) s

/-- A command answers a next state that passes a test. -/
def leaves (c : Instr) (s : State) (f : State → Bool) : Bool :=
  match exec c s with
  | .next t => f t
  | _ => false

/-! ### The queue, the memory's form, the resets -/

theorem witness_StepTakesFrontCommand :
    ({ base with pending := [.take 0] } : State).pending = .take 0 :: [] ∧ base.pending = [] := by decide
theorem base_kept : base.Kept := ⟨by decide +kernel, rfl, rfl⟩
theorem witness_EveryStepKeepsMemoryForm : base.Kept ∧ step base = .next base := ⟨base_kept, rfl⟩
theorem witness_EveryStepKeeps512Blocks : base.lines.map.length = 512 ∧ step base = .next base := ⟨by decide +kernel, rfl⟩
theorem witness_OnlyHostWritesHostAreas : base.Kept ∧ base.disp.port.hostWait = none ∧ (∃ t, exec (.take 0) base = .next t) ∧
    partByte 0x1200 = false ∧ partByte 0xFFFF = false ∧ partByte 0x200 = false ∧ partByte 0x233 = false :=
  ⟨base_kept, rfl, ⟨_, rfl⟩, by decide⟩
theorem witness_EventEndShowsStatus : base.mem.wf = true ∧ (0, 2) ∈ base.statusWords ∧ partByte 0x1200 = false ∧ base.Kept ∧
    (∀ a ∈ [0x100, 0x10E, 0x11E, 0x1FE, 0x234, 0x9FE, 0xA00, 0x11FE],
      let u : State := { base with writes := [(a, 1)] ++ (a, 2) :: [(a - 2, 3), (a + 2, 3)] }
      u.mem.wf = true ∧ partByte a = true ∧ partByte (a + 1) = true ∧
        (∀ x ∈ [(a - 2, (3 : Word)), (a + 2, 3)], a + 1 < x.1 ∨ x.1 + 1 < a) ∧
        (∀ x ∈ u.writes, a + 4 ≠ x.1 ∧ a + 4 ≠ x.1 + 1)) ∧
    ∀ w, ∀ x ∈ ({ base with writes := w } : State).statusWords, x ∈ base.statusWords :=
  ⟨base_kept.1, by decide +kernel, by decide, base_kept, by decide +kernel, fun _ _ h => h⟩
theorem witness_StatusWordsShowState : (slotIn 31 .running 6 0 base).runningSlot .laneEngine = some 31 ∧
    base.runningSlot .laneEngine = none ∧ (0, 2) ∈ base.statusWords ∧ (0x1FE, 0) ∈ base.statusWords ∧
    (∀ x ∈ base.statusWords, x.1 < 0x100 ∨ 0x110 ≤ x.1) := by decide +kernel
theorem witness_ResetLeavesStatedValues : partByte 0x1200 = false ∧ (base.tuner.cell.words[6]?).isSome = true ∧
    base.statusWords.length = 248 := by decide +kernel
theorem witness_FieldsAreReadFromBytes : 767 < 768 ∧ byteAt (base.mem.bytes 0x1200 768) 767 = 0 ∧
    linkSendMessage [7, 3, 1, 0, 200] = ⟨775, 1, [200]⟩ := by decide +kernel
theorem base_calm : base.Calm := by
  refine ⟨fun i => ?_, rfl, rfl, rfl⟩
  by_cases h : i < 32
  · interval_cases i <;> decide
  · have : base.slot i = Slot.reset := by
      show base.disp.slots.getD i Slot.reset = _
      rw [List.getD_eq_getElem?_getD, List.getElem?_eq_none (by show (List.replicate 32 Slot.reset).length ≤ i; simp; omega)]; rfl
    rw [this]; decide
def twoOrders : State :=
  let s := slotIn 4 .waiting 6 7 (slotIn 9 .waiting 7 7 base)
  { s with disp := { s.disp with ageList := [9, 4] } }
def sendOrder (topic length : Byte) (s : State) : State :=
  setSlot 31 { s.slot 31 with state := .waiting, routable := true, order := some ⟨14, 0, 0, [topic, 3, length]⟩ } s
def preloading (count cursor : Nat) (wrap : Bool) (s : State) : State :=
  inScene (fun u => { u with preloadMark := true, cursor := cursor, setList := ⟨count, wrap, true, [5, 6]⟩ }) s
theorem witness_CalmStateMakesNoChoice : base.Calm ∧
    (preloadCheck (fillHolds (refuseLinkSends twoOrders))).nextHandOver = some 9 ∧
    (preloadCheck (fillHolds (refuseLinkSends base))).nextHandOver = none ∧
    ((sendOrder 255 6 base).slot 31).linkSend.map Message.topic = some 1023 ∧
    (sendOrder 255 6 base).linkSendFault ⟨1023, 6, []⟩ = some .wrongMode ∧
    (inRun base).linkSendFault ⟨1024, 6, []⟩ = some .badArgument ∧ (inRun base).linkSendFault ⟨1023, 7, []⟩ = some .badArgument ∧
    (inRun base).linkSendFault ⟨1023, 6, []⟩ = none ∧
    (onLink (fun l => { l with state := .detached }) (inRun base)).linkSendFault ⟨0, 0, []⟩ = some .linkDetached ∧
    base.link.state ≠ .detached ∧ ((fillHolds base).hold 2).state = .empty ∧
    (inRun (sendOrder 255 6 base)).candidates = [(.order 31, 1023, 0)] ∧
    (onLink (fun l => { l with notices := [⟨⟨5, 0, []⟩, 9⟩] }) base).link.notices[0]? = some ⟨⟨5, 0, []⟩, 9⟩ ∧
    (let due := fun s : State => s.scene.state = .idle ∧ s.scene.latch = none ∧ s.scene.preloadMark = true ∧
       (s.bankCtl s.loadBank).state = .empty
     due (preloading 2 0 false base) ∧ due (preloading 2 1 false base) ∧ due (preloading 2 1 true base) ∧
       due (preloading 0 0 true base) ∧ (preloading 2 1 true (bankB .live base)).activeScene = none ∧
       due (preloading 2 0 false (bankB .live base)) ∧ ¬ due base) := by
  refine ⟨base_calm, ?_⟩
  decide +kernel
def entry : Entry := ⟨.press 7, .tap, true, false⟩
def lamps (f : LampDriver → LampDriver) : State := { base with lamps := f base.lamps }
def lampPair (complement : Bool) (gap : Nat) : State :=
  lamps fun d => { d with lamps := d.lamps.set 10 ⟨{ LampConfig.reset with complement := complement, gap := gap }, true, .on 2047 true, .level .off⟩ }
def pedal (x : PedalState) (high low : Nat) : State :=
  setPedal 1 { Pedal.reset with config := { PedalConfig.reset with enable := true }, state := x, high := high, low := low } base
theorem witness_ResetsKeepWhatTheyName : base.resetHeld = false ∧ base.mem.wf = true ∧ partByte 0x1200 = false ∧
    partByte 0xFFFF = false ∧
    (∀ g ∈ [0, 1023, 1024], ((lampPair true g).lamps.lamps[10]?).map (fun x => (x.config.complement, x.config.gap)) = some (true, g)) ∧
    ((lampPair false 0).lamps.lamps[10]?).map (fun x => x.config.complement) = some false ∧
    (base.lamps.lamps[11]?).isSome = true ∧ (base.lamps.lamps[0]?).isSome = true ∧ (pedal .ready 0 0).resetHeld = false ∧
    leaves .softReset (pedal .ready 0 0) (fun t => t.pedals.any fun x => x.config.enable) = true ∧
    (base.scanner.lines[7]?).isSome = true ∧ (some entry ∈ ({ base.bind with global := [some entry] } : BindingUnit).global) :=
  ⟨rfl, base_kept.1, by decide +kernel⟩
theorem witness_HeldResetStopsPart : base.Free ∧ ({ base with resetHeld := true } : State).resetHeld = true ∧
    Instr.softReset ≠ .powerOn ∧ Instr.softReset ≠ .resetLine := ⟨⟨rfl, rfl⟩, rfl, by decide, by decide⟩

/-! ### The host port, registers, orders and reports -/

def idlePort : State := onPort (fun p => { p with running := none }) base
def waitingBurst : State := onPort (fun p => { p with queue := [.setlistCopy 31] }) idlePort
def busy : State := running (.setlistCopy 31) base
def onWait (acc : HostAccess) : State := onPort (fun p => { p with hostWait := some acc }) busy

def askedFor (l : List Burst) (s : State) : State := onPort (fun p => { p with asked := l }) s
theorem witness_PortServesHostAndBursts : (idlePort.Kept ∧ idlePort.resetHeld = false ∧ idlePort.disp.port.running = none) ∧
    (waitingBurst.Kept ∧ waitingBurst.disp.port.running = none ∧ waitingBurst.disp.port.queue = [.setlistCopy 31] ∧
      base.Kept ∧ base.disp.port.running = some .initialization ∧
      busy.Kept ∧ busy.disp.port.running = some (.setlistCopy 31) ∧ Burst.setlistCopy 31 ≠ .initialization) ∧
    (busy.Kept ∧ busy.resetHeld = false ∧ busy.disp.port.running ≠ none ∧ busy.disp.port.hostWait = none ∧
      (onWait (.read 0x7FFF)).Kept ∧ (onWait (.read 0x7FFF)).disp.port.hostWait = some (.read 0x7FFF) ∧
      (onWait (.write 0 7)).disp.port.hostWait = some (.write 0 7)) ∧
    (Burst.setlistCopy 31 ∈ waitingBurst.disp.port.queue ∧ Burst.setlistCopy 30 ∉ waitingBurst.disp.port.queue ∧
      (askedFor [.orderCapture 31 0, .bindingCopy 31] base).disp.port.asked.Pairwise fun x y => x.rank ≤ y.rank) ∧
    (let p := (askedFor [.bindingCopy 31] idlePort).disp.port
     p.running = none ∧ p.queue = [] ∧ p.asked = .bindingCopy 31 :: [] ∧ base.disp.port.running ≠ none ∧
       waitingBurst.disp.port.queue ≠ [] ∧ idlePort.disp.port.asked = []) ∧ (Memory.wf [] = true ∧ 0xFFFE + 1 < 0x10000) :=
  ⟨⟨base_kept, rfl, rfl⟩, ⟨base_kept, rfl, rfl, base_kept, rfl, base_kept, rfl, by decide⟩,
    ⟨base_kept, rfl, by decide, rfl, base_kept, rfl, rfl⟩, by decide, by decide, by decide⟩
/-- A set-list copy asked for before a scene fetch stands behind it, and the fetch starts (R187). -/
theorem test_bursts_in_fixed_order :
    (publish idlePort (askBurst (.sceneFetch 3 1) (askBurst (.setlistCopy 31) idlePort))).disp.port =
      { idlePort.disp.port with running := some (.sceneFetch 3 1), queue := [.setlistCopy 31] } := by decide +kernel
theorem witness_RegistersReadAndAttnClears : base.resetHeld = false ∧ (0x3F : Word).getLsbD 5 = true := by decide
def flagged : State := { base with disp := { base.disp with attention := ⟨true, false, false, false, true⟩ } }
theorem witness_IrqFollowsEnabledFlags : flagged.resetHeld = false ∧ flagged.attn.getLsbD 5 = true ∧
    (0x20 : Word).getLsbD 5 = true ∧ (∃ t, exec .powerOn base = .next t) ∧ (∃ t, exec .resetLine base = .next t) ∧
    (∃ t, exec .softReset base = .next t) := ⟨rfl, by decide, by decide, ⟨_, rfl⟩, ⟨_, rfl⟩, ⟨_, rfl⟩⟩
theorem witness_MisuseIsRecorded : base.resetHeld = false ∧ (31 : BitVec 8).toNat ≤ 31 ∧ 31 < (32 : BitVec 8).toNat ∧
    (base.slot 31).state = .free ∧ ((slotIn 31 .waiting 6 0 base).slot 31).state ≠ .free ∧
    ((slotIn 31 .waiting 6 0 base).slot 31).state ≠ .done ∧
    ((0 : BitVec 4) ≠ 1 ∧ (0 : BitVec 4) ≠ 2 ∧ (0 : BitVec 4) ≠ 3 ∧ (0 : BitVec 4) ≠ 4) ∧
    ((5 : BitVec 4) ≠ 1 ∧ (5 : BitVec 4) ≠ 2 ∧ (5 : BitVec 4) ≠ 3 ∧ (5 : BitVec 4) ≠ 4) ∧ (8 : Word).getLsbD 3 = true := by
  decide
def hold (h : Nat) (x : HoldState) (topic stamp : Nat) (o : HoldOrigin) (s : State) : State :=
  setHold h { Hold.empty with state := x, message := ⟨topic, 0, []⟩, stamp := stamp, origin := o } s
def latched (x : SceneState) (r : Request) (s : State) : State :=
  standing (inScene (fun u => { u with state := x, latch := some r }) s)
theorem witness_CancelActsBySlotState : ((slotIn 31 .waiting 6 0 base).slot 31).state = .waiting ∧
    ((slotIn 31 .running 6 0 base).slot 31).state = .running ∧ ((slotIn 31 .running 6 0 base).slot 31).cancelMark = false ∧
    ((slotIn 31 .running 6 0 base).slot 31).kind = some .stageSet ∧
    ((slotIn 0 .done 6 0 base).slot 0).state = .done ∧
    ((setSlot 0 { (base.slot 0) with state := .running, cancelMark := true } base).slot 0).cancelMark = true ∧
    (let s := fun x r => latched x r (slotIn 2 .running 2 0 base)
     ((s .armed request).slot 2).kind = some .sceneGo ∧ base.scene.latch = none ∧
       (s .armed request).scene.latch = some request ∧ request.origin = .slot 2 ∧ request.attached ≠ some 2 ∧
       { request with attached := some 2 }.attached = some 2 ∧ (s .fetching request).scene.leanLoad = false ∧
       (inScene (fun u => { u with leanLoad := true }) (s .preparing request)).scene.leanLoad = true ∧
       (s .fading request).scene.state = .fading ∧ (s .leanEmptying request).scene.state ≠ .fading ∧
       { request with origin := .preload }.origin ≠ .slot 2) ∧
    (∀ x ∈ [HoldState.pending, .sending], let s := hold 2 x 5 1 (.slot 31) (slotIn 31 .running 14 0 base)
     (s.slot 31).kind = some .linkSend ∧ (s.hold 2).origin = .slot 31 ∧ (s.hold 2).state = x ∧
       ∀ g < 2, (s.hold g).state = .empty ∨ (s.hold g).origin ≠ .slot 31) := by decide +kernel
def capturing (kind priority : Byte) : State :=
  running (.orderCapture 31 0) (bytes [(0x9C0, kind), (0x9C1, priority)] (setSlot 31 { base.slot 31 with state := .waiting } base))
theorem witness_PostCaptureAndReclaimMoveSlot : (base.resetHeld = false ∧ (31 : BitVec 8).toNat ≤ 31 ∧ base.mem.wf = true ∧
    (base.slot 31).state = .free ∧ ((slotIn 31 .done 6 0 base).slot 31).state = .done ∧ base.writes = [] ∧
    ((slotIn 0 .running 6 0 base).slot 0).state ≠ .done ∧ 31 < (32 : BitVec 8).toNat ∧ base.disp.port.asked = []) ∧
    (capturing 0 0).disp.port.running = some (.orderCapture 31 0) ∧ ((capturing 0 0).slot 31).state = .waiting ∧
    ((capturing 0 0).slot 31).stamp = 0 ∧ byteAt ((capturing 0 0).mem.bytes (slotBase 31) 52) 0 = 0 ∧
    byteAt ((capturing 19 0).mem.bytes (slotBase 31) 52) 0 = 19 ∧ byteAt ((capturing 18 8).mem.bytes (slotBase 31) 52) 0 = 18 ∧
    byteAt ((capturing 19 8).mem.bytes (slotBase 31) 52) 0 = 19 ∧ byteAt ((capturing 19 8).mem.bytes (slotBase 31) 52) 1 = 8 ∧
    byteAt ((capturing 1 8).mem.bytes (slotBase 31) 52) 1 = 8 ∧ byteAt ((capturing 1 7).mem.bytes (slotBase 31) 52) 1 = 7 ∧
    (base.slot 31).state ≠ .waiting :=
  ⟨⟨rfl, by decide, base_kept.1, by decide, by decide, rfl, by decide, by decide, rfl⟩, by decide +kernel⟩
/-- A CANCEL reaches a lean load's order in ARMED, and is too late while it loads (R63). -/
theorem test_cancel_of_lean_load :
    let s := fun x => inScene (fun u => { u with leanLoad := true }) (latched x { request with lean := true } (slotIn 2 .running 2 0 base))
    leaves (.cancel 2) (s .armed) (fun t => decide ((t.slot 2).code = .cancelled ∧ t.scene.state = .idle ∧ t.scene.leanLoad = false)) = true ∧
      leaves (.cancel 2) (s .preparing) (fun t => decide ((t.slot 2).state = .running ∧ (t.slot 2).cancelMark = true)) = true := by
  decide +kernel
theorem witness_OrdersCompleteAndNextIsChosen : ((slotIn 31 .waiting 6 0 base).slot 31).state = .waiting ∧
    ((slotIn 0 .running 6 0 base).slot 0).state = .running ∧ twoOrders.choice .laneEngine = some 9 ∧
    (∃ i ∈ twoOrders.disp.ageList, (twoOrders.slot i).offeredTo .laneEngine = true) ∧
    twoOrders.ownerFree .laneEngine = true ∧ twoOrders.choice .link = none ∧
    (slotIn 31 .running 6 0 twoOrders).ownerFree .laneEngine = false ∧
    (twoOrders.slot 4).kind = some .stageSet ∧ (twoOrders.slot 4).order = some ⟨6, 7, 0, []⟩ := by decide +kernel

/-- Arguments with the given bytes at the given places. -/
def argsOf (l : List (Nat × Byte)) : List Byte := l.foldl (fun m x => m.set x.1 x.2) (List.replicate 48 0)
def goodLink (loopback : Byte) : List Byte := argsOf [(0x28, 250), (0x2E, loopback)]
def goodControl (debounce : Byte) : List Byte :=
  argsOf (((List.range 8).flatMap fun n => [(4 * n, debounce), (4 * n + 1, 100)]) ++
    [(0x20, 20), (0x23, 1), (0x26, 1), (0x29, 50), (0x2C, 1)])
def goodTuner (on level : Byte) : List Byte := argsOf [(0, on), (3, level), (5, 1), (6, 0x68), (7, 0x10), (8, 10)]
theorem witness_OrdersAreTakenByTheirOwners :
    (1 < byteAt [2] 0 ∧ byteAt [1] 0 ≤ 1) ∧
    (signedAt [0, 0, 31, 0] 2 = 31 ∧ signedAt [0, 0, 32, 0] 2 = 32 ∧ base.scene.setList.count = 0 ∧
      0 < (preloading 2 1 true base).scene.setList.count ∧ (preloading 2 1 true base).scene.setList.wrap = true ∧
      (preloading 2 1 false base).scene.setList.wrap = false) ∧
    (wordAt [15, 0, 64, 0] 2 = 64 ∧ wordAt [15, 0, 63, 0] 2 = 63 ∧ wordAt [0, 0, 0x80, 7] 2 = 1920 ∧
      wordAt [0, 0, 0x81, 7] 2 = 1921 ∧ base.lines.usersOf 15 = 0 ∧ base.lines.freeCount = 512 ∧
      ({ base.lines with users := [⟨.a, .one, 0, 15⟩] } : LineMemory).usersOf 15 = 1 ∧
      ({ base.lines with map := [.impulse 0, .free] } : LineMemory).freeCount = 1) ∧
    (firstFault (linkConfigFaults (goodLink 1)) = none ∧ firstFault (linkConfigFaults (goodLink 2)) = some 0x2E) ∧
    (let s := onLink (fun l => { l with state := .detached }) (inRun base)
     s.link.state = .detached ∧ s.link.rejoinMark = false ∧ s.disp.mode = .run ∧ base.disp.mode = .setup) ∧
    (firstFault (controlFaults (goodControl 16)) = none ∧ firstFault (controlFaults (goodControl 0)) = some 0 ∧
      (base.scanner.lines[7]?).isSome = true) ∧
    ((byteAt [11, 1] 0 ≤ 11 ∧ byteAt [11, 1] 1 = 1 ∧ byteAt [11, 2] 0 + byteAt [11, 2] 1 = 13) ∧
      firstFault (lampFaults (argsOf [(0, 11), (1, 1), (2, 10)]) 0 11) = none ∧
      firstFault (lampFaults (argsOf [(0, 11), (1, 1), (2, 11)]) 0 11) = some 2) ∧
    (wordAt [0xB8, 11] 0 = 3000 ∧ byteAt [0, 0, 1] 2 ≤ 1 ∧ 1 < byteAt [0, 0, 2] 2) ∧
    (firstFault (tunerFaults (goodTuner 1 7)) = none ∧ firstFault (tunerFaults (goodTuner 0 1)) = none ∧
      firstFault (tunerFaults (goodTuner 1 8)) = some 3 ∧ (tunerSettingsOf (goodTuner 1 7)).on = true ∧
      base.tuner.settings.on = false ∧ (switchTunerOn base).tuner.settings.on = true) := by decide +kernel
theorem witness_FaultyFieldsAreNamed :
    firstFault [(1, false), (2, true), (3, true)] = some 2 ∧
    ((9, false) ∈ tunerFaults (goodTuner 1 7) ∧ (3, true) ∈ tunerFaults (goodTuner 1 8)) ∧
    ((0x2E, false) ∈ linkConfigFaults (goodLink 1) ∧ (0x2E, true) ∈ linkConfigFaults (goodLink 2)) ∧
    ((0x2C, false) ∈ controlFaults (goodControl 16) ∧ (28, true) ∈ controlFaults (goodControl 0)) ∧
    ((2, true) ∈ lampFaults (argsOf [(0, 11), (1, 1), (2, 11)]) 0 11 ∧
      (33, false) ∈ lampFaults (argsOf [(32, 2), (33, 0xEB)]) 5 11 ∧ (33, true) ∈ lampFaults (argsOf [(32, 2), (33, 0x2C)]) 5 11) ∧
    (let on := { PedalConfig.reset with enable := true }
     PedalConfig.reset.enable = false ∧ on.enable = true ∧ ((pedal .ready 0 0).pedal 1).config = on ∧
       Pedal.reset.config.enable = false ∧ { on with internalRef := true }.internalRef ≠ on.internalRef) := by decide +kernel
def pageOf (n : Nat) : State := { base with disp := { base.disp with pages := ⟨false, n, 0⟩ } }
theorem witness_ReportPagesFillAndExchange : (pageOf 30).disp.pages.fillingCount ≤ 30 ∧
    30 < (pageOf 31).disp.pages.fillingCount ∧ (pageOf 31).mem.wf = true ∧ (pageOf 31).writes = [] :=
  ⟨by decide, by decide, base_kept.1, rfl⟩

/-! ### Modes, muting, boundaries, stages -/

theorem witness_ModeRequestsActByMode : ((inRun base).disp.mode = .run ∧ (inRun base).disp.setupPending = false ∧
      base.disp.mode = .setup ∧ (settingUp (inRun base)).disp.setupPending = true ∧ (inRun base).resetHeld = false) ∧
    (let d := { (settingUp (inRun base)).disp with silenceSeen := true, linkClear := true }
     d.setupPending = true ∧ d.silenceSeen = true ∧ d.linkClear = true) ∧
    (settingUp (inRun base)).disp.mode = .run := by decide
def ramping (r : MuteRamp) (n : Nat) : State := { base with lane := { base.lane with ramp := r, rampCount := n } }
theorem witness_MuteRampTurnsAndEnds : (ramping .falling 0).silentDue = true ∧ (ramping .falling 1).silentDue = false ∧
    (ramping .rising 192).unmutedDue = true ∧ (ramping .rising 191).unmutedDue = false ∧
    base.liveBank = none ∧ base.lane.ramp = .silent ∧ base.lane.rampCount = 0 := by decide
theorem witness_FrameBoundaryCountsOnce : base.resetHeld = false ∧ (standing base).opened = true ∧
    (⟨none, 0, 0⟩ : BoundaryInput).samples = none ∧ base.opened = false ∧
    (∀ id < 16, ((settlePost base).lines.impulse id).state ≠ .loading) ∧
    (let s := settlePost { base with lines := { base.lines with impulses := putAt 16 15 ⟨.loading, 64, 0⟩ ImpulseEntry.empty [] } }
     (s.lines.impulse 15).state = .loading ∧ ∀ j < 15, (s.lines.impulse j).state ≠ .loading) := by decide +kernel
def gated : State := standing (withStage (stage .gate .holding) base)
def fading : Stage := { stage .delay .closed with tap := ⟨10, some (20, 20), some 30, 20⟩ }
theorem witness_GateHoldAndTapFadeEnd : (openBoundary gated = gated ∧ (gated.bankPlay .a).mode = .full ∧
    ((gated.lane.banks.get .a).lanes.get .two).enabled = true ∧
    gated.stageAt .a .two 11 = some (stage .gate .holding) ∧ (stage .gate .holding).kind = .gate ∧
    (stage .gate .holding).gate = .holding ∧ (stage .gate .holding).gateHold ≤ 1 ∧
    peakReaches (stage .gate .holding).peak ((stage .gate .holding).target 0) = false ∧
    gated.gateHoldDue .a .one 0 = false) ∧
    (withStage fading base).stageAt .a .one 11 = some fading ∧ fading.tap.fade = some (20, 20) := by
  refine ⟨⟨openBoundary_of_opened rfl, ?_⟩, ?_⟩ <;> decide +kernel
/-- A stage whose three timing parameters are 2500 ms, 20 (ms or hundredths of a Hz) and a sync value. -/
def synced (k : StageKind) (sync : Int) : Stage := StageRecord.fill none ⟨k, 11, false, false, [2500, 20, sync, 500, 500]⟩
def noted (tempo : Nat) : State :=
  let s := withStage (synced .delay 1) base
  { s with lane := { s.lane with notedTempo := tempo, tempoNoted := true, beats := 1,
                                 banks := { s.lane.banks with a := { s.lane.banks.a with runMode := .full } } } }
theorem witness_TempoAndBeatsReachStages :
    (((noted 400).lane.banks.get .a).lanes.get .two).stageAt 0 = none ∧
    (((noted 400).lane.banks.get .a).lanes.get .two).stageAt 11 = some (synced .delay 1) ∧
    ((noted 400).lane.tempoNoted = true ∧ base.lane.tempoNoted = false ∧ 0 < (noted 400).lane.notedTempo) ∧
    (∀ k ∈ [StageKind.mod, .delay, .verb, .trim], (synced k 0).kind = k) ∧
    (∀ sync ∈ [(0 : Int), 1, 8], ((synced .mod sync).target 2).toNat = sync.toNat) := by decide +kernel
/-- Four beats at 40.0 BPM are 6000 ms, held to the delay's 2500 ms with the mark; at 300.0 BPM they are 800 ms (R17). -/
theorem test_tempo_reaches_delay :
    (let x := (synced .delay 1).rework 400
     x.tap.inUse = 2500 ∧ x.tempoClamped = true) ∧
    (let x := (synced .delay 1).rework 3000
     x.tap.inUse = 800 ∧ x.tempoClamped = false) ∧ ((synced .mod 8).rework 1200).rate = 800 ∧
    ((applyTempoAndBeats (noted 400)).stageAt .a .two 11).map (fun x => (x.tempoClamped, x.tap.fade)) =
      some (true, some (2500, 0)) := by decide +kernel
/-- The level of a peak is a free value, so the threshold that it reaches is written with it. -/
theorem witness_gate_reached : ∃ x : Stage, peakReaches x.peak (x.target 0) = true := by
  refine ⟨{ StageRecord.fill none ⟨.gate, 11, false, false, [⌊Config.levelOf 1⌋, 1, 5, -960]⟩ with peak := 1 }, ?_⟩
  have h : ((⌊Config.levelOf 1⌋ : Int) : Rat) ≤ Config.levelOf 1 := Int.floor_le _
  exact (Bool.and_eq_true _ _).mpr ⟨rfl, decide_eq_true h⟩
theorem witness_StageKindsRunAFrame :
    (∀ k ∈ [StageKind.trim, .gate, .comp, .drive, .amp, .cab, .eq, .mod, .delay, .verb], (stage k .closed).kind = k) ∧
    (∃ x : Stage, peakReaches x.peak (x.target 0) = true) ∧ ¬ peakReaches (stage .gate .closed).peak (-400) = true ∧
    (∀ g ∈ [GateState.closed, .opened, .holding, .releasing], (stage .gate g).gate = g) ∧
    ((stage .gate .holding).gateHold ≤ 1 ∧ 1 < { stage .gate .holding with gateHold := 2 }.gateHold) ∧ [-3, 2] ≠ ([] : List Int) :=
  ⟨by decide, witness_gate_reached, by decide, by decide, by decide, by decide⟩
def moving (left : Nat) (mix : List (Int × Rat)) : Param := ⟨0, 7, left, mix⟩
def oneLane (level : Option Int) (s : List (Option Stage)) : Lane := ⟨true, .inA, level, 0, .both, s⟩
theorem witness_FrameMovesValuesAndGains :
    ((moving 0 []).left = 0 ∧ (moving 1 []).left ≤ 1 ∧ 0 < (moving 1 []).left ∧ 1 < (moving 5 []).left ∧
      ((moving 5 [(0, 1)]).mix.map Prod.snd).sum = 1 ∧ (moving 5 [(0, 1)]).target ≠ 0) ∧
    (let x := { stage .trim .closed with bypass := true, ramp := 240 }
     x.bypass = true ∧ x.ramp = 240 ∧ x.trail = false) ∧
    ((stage .trim .closed).kind = .trim ∧ (stage .trim .closed).bypass = false ∧ (stage .trim .closed).ramp = 0 ∧
      (stage .trim .closed).trail = false) ∧
    ((⟨10, none, none, 10⟩ : Tap).fade = none ∧ fading.tap.fade = some (20, 20)) ∧
    ((oneLane none []).hasTrail = false ∧ (oneLane none [some { fading with trail := true }]).hasTrail = true) ∧
    ((base.bankCtl .a).state = .empty ∧ ((bankA .trailing base).bankCtl .a).state = .trailing ∧
      ((bankA .cutting base).bankCtl .a).state = .cutting ∧ ((bankA .outgoing base).bankCtl .a).state = .outgoing ∧
      gated.scene.fade = none ∧ gated.scene.state ≠ .leanEmptying) ∧
    (∀ held ∈ [true, false], let s := inFade (fadeOf .gap true held (.slot 2))
      (s.bankCtl .b).state = .live ∧ s.scene.state = .fading ∧ s.scene.fade = some (fadeOf .gap true held (.slot 2))) ∧
    (let s := inScene (fun u => { u with state := .leanEmptying, lean := some ⟨900, 100, false⟩ }) gated
     (s.bankCtl .a).state = .live ∧ s.scene.fade = none ∧ s.scene.lean = some ⟨900, 100, false⟩) ∧
    (gated.liveBank ≠ none ∧ base.liveBank = none ∧ (inputFrame ⟨none, 0, 0⟩).length = 48) ∧
    (-100 ≤ (-100 : ℤ) ∧ (-100 : ℤ) ≤ 100 ∧ -100 ≤ (100 : ℤ) ∧ (100 : ℤ) ≤ 100) := by decide +kernel
/-- A bank's contributions have a 48th sample, whatever runs in it. -/
theorem witness_contributions (l : LineMemory) (k : BankId) (x : Bank) (c : AudioCtx) (m : RunMode) :
    ∃ y, (x.run l k ⟨List.replicate 48 0, List.replicate 48 0, m, .laneOut, 0, 1000⟩ c).2.1[47]? = some y :=
  ⟨_, List.getElem?_eq_getElem (by rw [Bank.run_length] <;> simp)⟩
theorem witness_LanesRunTheirStages :
    (let f := fun (m : RunMode) => (⟨[], [], m, .trailInput, 0, 1000⟩ : FrameInput)
     (∀ m ∈ [RunMode.full, .trails, .held], (f m).mode = m) ∧ (fading.runsIn .trails = false) ∧
       ({ fading with trail := true }.runsIn .trails = true)) ∧
    ((oneLane none []).enabled = true ∧ Lane.cleared.enabled = false ∧
      (∃ x, some x ∈ (oneLane none [none, some fading]).stages ∧ x.runsIn .full = true) ∧
      ¬ ∃ x, some x ∈ (oneLane none [none]).stages ∧ x.runsIn .full = true) :=
  ⟨by decide +kernel, rfl, rfl, ⟨fading, by simp [oneLane], rfl⟩, by simp [oneLane]⟩
theorem witness_StageOrdersApplyAtBoundary : laneOfNat 2 = some .two ∧ base.liveBank = none ∧
    gated.liveBank = some .a ∧ (gated.lane.banks.get .a).stageAt .two 0 = none ∧
    (gated.lane.banks.get .a).stageAt .two 11 = some (stage .gate .holding) ∧
    ((stage .gate .holding).kind.param ((stage .gate .holding).target 0) 4) = none ∧
    (((stage .gate .holding).kind.param ((stage .gate .holding).target 0) 0).map ParamSpec.cls) ≠ some .loadTime ∧
    ((stage .delay .closed).kind.param 100 0).map ParamSpec.cls = some .loadTime ∧
    (let t : Tap := ⟨10, none, none, 10⟩
     t.inUse = 10 ∧ t.fade = none ∧ { t with inUse := 20 }.inUse ≠ 10 ∧
       (⟨10, some (20, 3), none, 30⟩ : Tap).fade = some (20, 3)) ∧
    ((3 ≠ 1 ∧ 3 ≠ 2) ∧ 11 < 12 ∧ (2 = 1 ∨ 2 = 2) ∧ 2 < 3 ∧ 3 ≤ 3) := by
  decide +kernel

/-! ### Line memory and scenes -/

def emptyRecord : SceneRecord :=
  let lane : LaneRecord := ⟨false, .inA, none, 0, .main, []⟩
  ⟨⟨.cut, 1, 0, .none⟩, 0, ⟨lane, lane⟩, [], []⟩
/-- A record with one stage, at the last position of lane 1. -/
def recordWith (k : StageKind) (params : List Int) : SceneRecord :=
  { emptyRecord with lanes := { emptyRecord.lanes with one := { emptyRecord.lanes.one with enabled := true, stages := [⟨k, 11, false, false, params⟩] } } }
def delayRecord : SceneRecord := recordWith .delay [2500, 20, 0, 0, 0]
def cabRecord : SceneRecord := recordWith .cab [15, 64, 0, 0]
theorem witness_BankRequestsFillPrepareRelease :
    (BankRequest.release .b = .release .b ∧ BankRequest.prepare .b = .prepare .b ∧
      BankRequest.fill .b cabRecord [⟨.one, 11, 64, true⟩] = .fill .b cabRecord [⟨.one, 11, 64, true⟩]) ∧
    ((cabRecord.lanes.get .one).enabled = true ∧ (cabRecord.lanes.get .two).enabled = false ∧
      ((cabRecord.lanes.get .one).stages.find? fun z => z.position == 11).isSome = true ∧ 11 < 12) ∧
    some (⟨.one, 11, 64, true⟩ : CabAnswer) = some ⟨.one, 11, 64, true⟩ ∧ StageKind.verb ≠ .delay := by decide
/-- A fill and a release: an enabled lane with one CAB of 64 taps costs 20 + 160, and a cleared bank nothing (R20). -/
theorem test_bank_cost :
    let t := BankRequest.apply 1200 base.lane.banks (.fill .b cabRecord [⟨.one, 11, 64, true⟩])
    t.b.cost = 180 ∧ t.b.trailCost = 0 ∧ (BankRequest.apply 1200 t (.release .b)).b.cost = 0 := by decide +kernel
def allocating (rec' : SceneRecord) (r : Request) (f : LineMemory → LineMemory) : State :=
  latched .allocating r (inScene (fun u => { u with record := some rec' }) { base with lines := f base.lines })
def full (k : Holder) (l : LineMemory) : LineMemory := { l with map := List.replicate 512 k }
theorem witness_AllocationTakesLowestFreeBlocks : Holder.impulse 15 ≠ .free ∧
    (takeFree (.impulse 15) [.impulse 0, .free, .free, .free] 2 0) =
      ([.impulse 0, .impulse 15, .impulse 15, .free], [1, 2]) ∧
    cabRecord.needs = [⟨.one, 11, .cab 15 64⟩] ∧ (base.lines.impulse 15).state ≠ .resident ∧
    (let s := fun rec' f => allocating rec' request f
     let answer := fun (u : State) (rec' : SceneRecord) => (u.lines.allocate u.loadBank rec'.needs).2
     (s emptyRecord id).scene.record = some emptyRecord ∧ (s emptyRecord id).scene.latch = some request ∧
       answer (s emptyRecord id) emptyRecord = .ok [] true ∧ answer (s delayRecord id) delayRecord = .ok [] false ∧
       answer (s cabRecord id) cabRecord = .missingImpulse .one 11 15 ∧
       answer (s delayRecord (full (.impulse 1))) delayRecord = .noLineMemory 125 0 ∧
       (let v := bankB .live (s delayRecord (full (.stage .b .one 0)))
        answer v delayRecord = .noLineMemory 125 0 ∧ 125 ≤ 0 + v.liveBank.elim 0 v.lines.bankBlocks) ∧
       request.kind = .go ∧ request.origin ≠ .preload ∧ (s delayRecord id).scene.leanLoad = false) := by
  decide +kernel
def zeroing : LineMemory := { LineMemory.reset with zeroQueue := [(0, .a), (1, .a), (511, .a), (3, .b), (4, .b)] }
def freeing : LineMemory :=
  { LineMemory.reset with map := [.stage .a .two 11, .stage .b .two 11, .impulse 15, .free] }
theorem witness_BanksAreZeroedAndFreed : (511, BankId.a) ∈ zeroing.zeroQueue.take 4 ∧ 959 < 960 ∧
    zeroing.zeroFour.answers = [.a] ∧ freeing.map[0]? = some (.stage .a .two 11) ∧
    (freeing.freeBank .a).map = [.free, .stage .b .two 11, .impulse 15, .free] := by decide +kernel
def loadingSet (chunks : Nat) (s : State) : State :=
  running (.impulseChunk 15) { s with lines := { s.lines with impulses := putAt 16 15 ⟨.loading, 960, chunks⟩ ImpulseEntry.empty [] } }
theorem witness_ImpulseChunkCountsAndCompletes :
    (loadingSet 0 base).disp.port.running = some (.impulseChunk 15) ∧
    ((loadingSet 0 base).lines.impulse 15) = ⟨.loading, 960, 0⟩ ∧ 480 * (0 + 1) < 960 ∧
    ((loadingSet 1 base).lines.impulse 15) = ⟨.loading, 960, 1⟩ ∧ 960 ≤ 480 * (1 + 1) ∧
    (loadingSet 1 base).runningSlot .lineMemory = none ∧
    (loadingSet 1 (slotIn 31 .running 12 0 base)).runningSlot .lineMemory = some 31 ∧
    ((running (.impulseChunk 15) base).lines.impulse 15).state ≠ .loading ∧
    ([(0, 1), (491519, -1)] : List (Nat × Int)).Pairwise (fun y z => y.1 < z.1) := by decide +kernel

def answered (k : BankId) (x : SceneState) : State :=
  inScene (fun u => { u with state := x, record := some emptyRecord }) { base with lines := { base.lines with answers := [k] } }
/-- Scene 63's directory entry, and a record with nothing in it at the lowest offset. -/
def fetching (offset length : Word) : State :=
  let m := (base.mem.writeWord 0x40FC offset).writeWord 0x40FE length
  inScene (fun u => { u with state := .fetching, latch := some request })
    (running (.sceneFetch 63 0) { base with mem := (m.writeWord 0x4100 50).writeWord 0x4114 1 })
/-- 64 bytes with 0 everywhere but where named; `headed` is a record whose header is accepted. -/
def recordBytes (l : List (Nat × Byte)) : List Byte := l.foldl (fun m x => m.set x.1 x.2) (List.replicate 64 0)
def headed (l : List (Nat × Byte)) : List Byte := recordBytes ((0x14, 1) :: l)
theorem witness_RecordsAndEntriesAreChecked :
    (byteAt (recordBytes []) 0 = 0 ∧ byteAt (recordBytes [(0, 7)]) 0 ≠ 0 ∧
      (3, true) ∈ entryFaults (recordBytes [(0, 7)]) 0 ∧ (8, false) ∈ entryFaults (recordBytes [(0, 1), (3, 2), (8, 255)]) 0 ∧
      (8, true) ∈ entryFaults (recordBytes [(0, 1), (3, 2), (8, 2)]) 0) ∧
    (firstFault (headerFaults (headed [])) = none ∧ firstFault (headerFaults (headed [(0x2F, 13)])) = some 0x2F ∧
      (0x27, false) ∈ headerFaults (headed [(0x27, 12)])) ∧
    (let trim := fun position flags v => recordBytes [(0, 1), (1, position), (2, flags), (4, v)]
     let walk := fun position flags v len => stagesWalk (trim position flags v) len 0x27 1 11 0
     3 < 4 ∧ StageKind.ofCode (byteAt (recordBytes [(0, 11)]) 0) = none ∧ StageKind.ofCode (byteAt (trim 11 0 0) 0) = some .trim ∧
       (walk 11 0 240 8).toOption.isSome = true ∧ walk 11 0 241 8 = .error 4 ∧ walk 11 2 0 8 = .error 2 ∧
       walk 12 0 0 8 = .error 1 ∧ walk 10 0 0 8 = .error 1 ∧ walk 11 0 0 7 = .error 0x27) ∧
    (let entries := fun l => entriesWalk l 16 0x30 1 0
     entries (recordBytes []) = .ok ([none], 16) ∧ entries (recordBytes [(0, 8)]) = .error 0 ∧
       noticesWalk (recordBytes [(1, 0x70)]) 8 0x31 1 0 = .error 0 ∧
       (noticesWalk (recordBytes [(1, 0x60)]) 8 0x31 1 0).toOption.isSome = true) ∧
    ((recordWalk (headed [(0x30, 0), (0x31, 0)]) 50).toOption.isSome = true ∧
      recordWalk (headed [(0x30, 17)]) 64 = .error 0x30 ∧ recordWalk (headed [(0x31, 5)]) 64 = .error 0x31 ∧
      recordWalk (headed []) 48 = .error 0x30 ∧ recordWalk (headed []) 49 = .error 0x31 ∧
      recordWalk (headed [(0x30, 1)]) 64 = .error 0x30 ∧ recordWalk (headed [(0x31, 2)]) 64 = .error 0x31 ∧
      recordWalk (headed [(0x27, 1), (0x30, 11)]) 64 = .error 0x30) ∧
    ((fetching 0x4100 50).mem.readWord 0x40FE = 50 ∧
      ¬ (1024 < 50 ∨ 0x4100 < 0x4100 ∨ 0x10000 < 0x4100 + 50 ∨ 50 < 48 ∨ wordAt ((fetching 0x4100 50).mem.bytes 0x4100 50) 0 ≠ 50) ∧
      1024 < 1025) :=
  ⟨by decide +kernel, by decide +kernel, by decide +kernel, by decide +kernel, by decide +kernel, by decide +kernel⟩
theorem witness_LoadIsFetchedFilledAndPrepared :
    ((fetching 0x4100 50).disp.port.running = some (.sceneFetch 63 0) ∧ (fetching 0x4100 50).scene.state = .fetching ∧
      (fetching 0x4100 50).scene.serial = 0 ∧ base.scene.state ≠ .fetching ∧
      fetchCheck (fetching 0x4100 50).mem 63 = .ok { emptyRecord with
        lanes := ⟨⟨false, .inA, some 0, 0, .main, []⟩, ⟨false, .inA, some 0, 0, .main, []⟩⟩ } ∧
      fetchCheck (fetching 0x4100 49).mem 63 = .error (.badRecord, [0]) ∧
      ((fetching 0x4100 0).mem.readWord 0x40FE).toNat = 0 ∧
      1024 < ((fetching 0x4100 1025).mem.readWord 0x40FE).toNat ∧
      ((fetching 0x40FF 48).mem.readWord 0x40FC).toNat < 0x4100 ∧
      0x10000 < ((fetching 0xFFF0 17).mem.readWord 0x40FC).toNat + ((fetching 0xFFF0 17).mem.readWord 0x40FE).toNat) ∧
    ((fetching 0x4100 50).scene.latch = some request ∧ request.origin = .slot 2 ∧ Origin.preload ≠ .slot 0) ∧
    ((answered .a .zeroing).lines.answers = .a :: [] ∧
      (answered .a .zeroing).scene.state = .zeroing ∧ BankId.a = (answered .a .zeroing).loadBank ∧
      (answered .a .zeroing).scene.record = some emptyRecord ∧ BankId.b ≠ (answered .b .zeroing).loadBank ∧
      (answered .a .idle).scene.state ≠ .zeroing) ∧
    (let s := latched .preparing { request with kind := .load } base
     openBoundary s = s ∧ s.scene.state = .preparing ∧ s.scene.preparingAt + 2 ≤ s.frames ∧
       s.scene.latch = some { request with kind := .load }) ∧
    (let s := latched .preparing request base
     s.scene.latch = some request ∧ request.kind = .go) ∧
    (standing base).scene.state ≠ .preparing ∧
    (let s := { latched .preparing request base with frames := 1 }
     openBoundary s = s ∧ s.frames < s.scene.preparingAt + 2) :=
  ⟨by decide +kernel, by decide, ⟨rfl, rfl, rfl, rfl, by decide, by decide⟩,
    ⟨openBoundary_of_opened rfl, rfl, by decide, rfl⟩, ⟨rfl, rfl⟩, by decide, ⟨openBoundary_of_opened rfl, by decide⟩⟩
theorem witness_RequestsActBySceneState :
    (∀ x ∈ [SceneState.idle, .fading, .leanEmptying, .armed, .fetching, .preparing],
      (latched x request base).scene.state = x ∧ (latched x request base).scene.latch = some request) ∧
    (let live := inScene (fun u => { u with banks := ⟨{ u.banks.a with state := .live, scene := some 3 }, u.banks.b⟩ }) base
     request.kind = .go ∧ request.reswap = false ∧ live.activeScene = some request.scene ∧ base.activeScene = none ∧
       (live.bankCtl live.loadBank).state ≠ .ready) ∧
    (let ready := inScene (fun u => { u with banks := ⟨{ u.banks.a with state := .ready, scene := some 3 }, u.banks.b⟩ }) base
     (ready.bankCtl ready.loadBank).state = .ready ∧ (ready.bankCtl ready.loadBank).scene = some request.scene ∧
       ((bankA .ready base).bankCtl .a).scene ≠ some request.scene ∧ ready.scene.state = .idle) ∧
    ((bankA .trailing base).bankCtl (bankA .trailing base).loadBank).state = .trailing ∧
    ({ request with scene := 4 }.scene ≠ request.scene ∧ { request with kind := .load }.kind = .load ∧
      { request with origin := .preload }.origin = .preload ∧ Origin.preload ≠ .slot 2) ∧
    (byteAt [63] 0 ≤ 63 ∧ 63 < byteAt [64] 0 ∧ byteAt [63, 2] 1 = 2 ∧ wordAt [63, 1, 2, 2, 250, 0, 250, 0] 4 = 250 ∧
      wordAt [63, 1, 2, 2, 250, 0, 251, 0] 6 = 251) := by decide +kernel

def armed (r : Request) : State := latched .armed r (bankB .ready (bankA .live base))
theorem witness_SwapMakesBankLive : openBoundary (armed request) = armed request ∧
    (armed request).scene.state = .armed ∧ (armed request).scene.armedAt < (armed request).frames ∧
    (armed request).scene.latch = some request ∧ (armed request).loadBank = .b ∧
    ((armed request).bankCtl .b).profile.quantize = .none ∧ (armed request).liveBank = some .a ∧
    (latched .armed request (bankA .ready base)).liveBank = none ∧ base.tuner.settings.on = false ∧
    (switchTunerOn base).tuner.settings.on = true ∧ (switchTunerOn base).tuner.settings.autoOff = true :=
  ⟨openBoundary_of_opened rfl, by decide +kernel⟩
theorem witness_FadeOutEndsAndTrailIsCut :
    (let f := fadeOf .gap true true (.slot 2)
     openBoundary (inFade f) = inFade f ∧ (inFade f).scene.fade = some f ∧ f.heldBack = true ∧
       f.swapAt + f.f + f.g ≤ (inFade f).frames ∧ f.oldBank = some .a ∧ ((inFade f).bankCtl .a).state = .outgoing ∧
       f.swapAt + f.f ≤ (inFade f).frames ∧ f.trailsKept = true) ∧
    (fadeOf .gap false true (.slot 2)).trailsKept = false ∧
    (let l := full (.stage .a .one 11) LineMemory.reset
     l.map[511]? = some (.stage .a .one 11) ∧ ((511, BankId.a) ∈ ({ l with zeroQueue := [(511, .a)] } : LineMemory).zeroQueue) ∧
       (gated.lane.banks.get .a).stageAt .one 11 = some (stage .gate .holding) ∧ (stage .gate .holding).trail = false ∧
       Holder.impulse 0 ≠ .stage .a .one 11) ∧
    (let s := standing (bankA .trailing base)
     openBoundary s = s ∧ (s.bankCtl .a).state = .trailing ∧ (s.bankCtl .a).trailEnd ≤ s.frames) ∧
    (let s := standing (bankA .cutting base)
     openBoundary s = s ∧ (s.bankCtl .a).state = .cutting ∧ (s.bankCtl .a).cutFrom + 16 ≤ s.frames ∧ s.scene.latch = none) ∧
    (let s := latched .fetching request (bankA .cutting base)
     openBoundary s = s ∧ s.scene.latch = some request ∧ BankId.a = s.loadBank ∧ s.scene.state = .fetching ∧
       (s.bankCtl .a).state = .cutting) ∧
    (latched .allocating request (bankA .cutting base)).scene.state = .allocating :=
  ⟨⟨openBoundary_of_opened rfl, by decide +kernel⟩, rfl, by decide +kernel, ⟨openBoundary_of_opened rfl, by decide +kernel⟩, ⟨openBoundary_of_opened rfl, by decide +kernel⟩,
    ⟨openBoundary_of_opened rfl, by decide +kernel⟩, rfl⟩
theorem witness_FadeEndCompletesOwner :
    (let f := fadeOf .blend false false (.slot 2)
     let s := bankA .trailing (inFade f)
     openBoundary s = s ∧ s.fadeOutDue = false ∧ s.scene.fade = some f ∧ s.scene.state = .fading ∧ f.endAt ≤ s.frames ∧
       f.owner.origin = .slot 2 ∧ s.scene.latch = none ∧ (setLatch (some request) s).scene.latch = some request) ∧
    (let f := fadeOf .blend false false (.slot 2)
     (inFade f).fadeOutDue = true ∧ (finish (fadeOutEnd (inFade f))).scene.fade = some f) ∧
    ((fadeOf .blend false false (.setList 31)).owner.origin = .setList 31 ∧ (fadeOf .blend false false .preload).mode = .blend ∧
      (fadeOf .gap false false .preload).oldBank ≠ none) ∧
    (∀ i, Origin.preload ≠ .slot i) ∧ (∀ i, Origin.preload ≠ .setList i) :=
  ⟨⟨openBoundary_of_opened rfl, by decide +kernel⟩, by decide +kernel, by decide, by simp, by simp⟩
def leaning (replaced : Bool) : State :=
  inScene (fun u => { u with lean := some ⟨900, 100, replaced⟩ }) (latched .leanEmptying request (bankA .live base))
theorem witness_LeanSilenceEmptiesLiveBank : openBoundary (leaning true) = leaning true ∧
    (leaning true).scene.state = .leanEmptying ∧ (leaning true).scene.lean = some ⟨900, 100, true⟩ ∧
    900 + 100 ≤ (leaning true).frames ∧ (leaning true).liveBank = some .a ∧ (leaning true).scene.latch = some request ∧
    openBoundary (leaning false) = leaning false ∧ (leaning false).scene.lean = some ⟨900, 100, false⟩ ∧
    (setLatch none (leaning false)).scene.latch = none ∧ (setLatch none (leaning false)).liveBank = some .a :=
  ⟨openBoundary_of_opened rfl, rfl, rfl, by decide, rfl, rfl, openBoundary_of_opened rfl, rfl, rfl, rfl⟩
def copyingList (count entry : Byte) : State := running (.setlistCopy 31) (bytes [(0x1500, count), (0x1504, entry)] base)

/-! ### Tempo and tuner -/

def tempo (f : TempoUnit → TempoUnit) (s : State) : State := { s with tempo := f s.tempo }
theorem witness_AccumulatorBeatAndWatch :
    (let s := fun n => tempo (fun t => { t with phase := n, addDue := true }) base
     (s 598799).tempo.addDue = true ∧ (s 598799).tempo.phase + 1200 < 600000 ∧ 600000 ≤ (s 598800).tempo.phase + 1200 ∧
       base.tempo.addDue = false) ∧
    (let s := fun n => tempo (fun t => { t with phase := n }) base
     (s 0).opened = false ∧ (openBoundary (s 598800)).tempo.addDue = true ∧
       600000 ≤ (openBoundary (s 598800)).tempo.phase + (openBoundary (s 598800)).tempo.tempo ∧
       (openBoundary (s 598799)).tempo.phase + (openBoundary (s 598799)).tempo.tempo < 600000 ∧
       (openBoundary (standing (s 598800))).tempo.addDue = false) ∧
    (tempo (fun t => { t with watch := some 0 }) base).tempo.watch = some 0 ∧ base.tempo.watch ≠ some 0 := by decide +kernel
def firing (a : Action) : Firing := ⟨⟨.globalTable, 47⟩, true, .press 7, 0, false, a⟩
def onLinkTempo : State := tempo (fun t => { t with source := .link, prevBeat := some 0 }) base
theorem witness_TapsAndLinkBeatsSetTempo : (firing .tap).action = .tap ∧
    (tempo (fun t => { t with lastTap := some 0 }) base).tempo.lastTap = some base.frameCounter ∧
    (let s := tempo (fun t => { t with lastTap := some 0 }) { base with frames := 2000 }
     s.tempo.lastTap ≠ some s.frameCounter ∧ (s.frameCounter - 0).toNat ≤ 2000) ∧
    2000 < (({ base with frames := 2001 } : State).frameCounter - 0).toNat ∧ base.tempo.lastTap = none ∧
    base.tempo.source = .internal ∧ onLinkTempo.tempo.source = .link ∧ onLinkTempo.tempo.prevBeat = some 0 ∧
    base.tempo.prevBeat = none ∧ 0 < 2 ∧ roundDiv 5 2 = 3 := by decide +kernel
def tuning (ticks : Nat) (wrapped discard : Bool) : State :=
  { base with tuner := { base.tuner with
      settings := { base.tuner.settings with on := true, n := 1 }, group := [⟨ticks, wrapped⟩], discard := discard } }
theorem witness_TunerReadsOrFindsSilence : (tuning 6982 false false).tuner.settings.on = true ∧
    0 < (tuning 6982 false false).tuner.settings.n ∧
    (tuning 6982 false false).tuner.settings.n ≤ (tuning 6982 false false).tuner.group.length ∧
    (tuning 6982 false true).tuner.discard = true ∧ (tuning 6982 false false).tuner.discard = false ∧
    ((tuning 5 true false).tuner.group.take 1).any Period.wrapped = true ∧
    200000 < roundDiv (3072000 * 1 * 100) 1535 ∧ ¬ 200000 < roundDiv (3072000 * 1 * 100) 1536 ∧
    base.tuner.group.length < 1 ∧ base.mem.wf = true ∧ (tuning 0 false false).resetHeld = false ∧
    base.tuner.settings.on = false ∧ (8192 * 2 ^ base.tuner.settings.level < (131073 : Int)) ∧ base.tuner.below ≠ 3 ∧
    { base.tuner with below := 3 }.below = 3 ∧ 0 < 1 ∧
    ({ base.tuner with silence := some 0 } : Tuner).silence = some 0 ∧ base.tuner.silence ≠ some 0 ∧
    (switchTunerOn base).tuner.cell.status = .settling ∧ base.tuner.cell.status ≠ .settling ∧ base.tuner.settings.thru = false ∧
    { base.tuner.settings with thru := true }.thru = true := by decide +kernel
theorem witness_IndicationFollowsCell :
    (let t := { base.tuner with cell := ⟨.stable, some 57, some (-3), some 44000, 6982, 4, 1⟩ }
     t.cell.status = .stable ∧ t.cell.cents = some (-3) ∧ -(t.settings.window : Int) ≤ -3 ∧ (-3 : Int) ≤ t.settings.window ∧
       (-4 : Int) < -(t.settings.window : Int) ∧ (t.settings.window : Int) < 4) ∧ base.tuner.cell.status ≠ .stable := by
  decide

/-! ### Footswitches, pedals, bindings -/

theorem witness_LineStatesChange :
    ((base.scanner.lines[7]?).map Line.state = some .off ∧
      ((line .momentary .up false 10 base).scanner.lines[7]?).map Line.state = some .up) ∧
    (∀ x ∈ [LineState.up, .standby, .settling, .watching], (((line .momentary x false 10 base).line 7).state = x ∧
      ((line .momentary x false 10 base).line 7).level = false ∧
      10 ≤ ((line .momentary x false 10 base).line 7).run ∧ 0 < ((line .momentary x false 10 base).line 7).config.debounce)) ∧
    (∀ x ∈ [LineState.down, .held, .blocked], (((line .momentary x true 10 base).line 7).state = x ∧
      ((line .momentary x true 10 base).line 7).level = true)) ∧
    ((line .momentary .up false 9 base).line 7).run < ((line .momentary .up false 9 base).line 7).config.debounce ∧
    (let x := { Line.reset with state := .settling, settle := some 0, hold := some 0, rept := some 0 }
     ((setLine 7 x base).line 7).settle = some 0 ∧ ((setLine 7 { x with state := .down } base).line 7).hold = some 0 ∧
       ((setLine 7 { x with state := .held } base).line 7).rept = some 0 ∧ x.run < x.config.debounce) := by decide +kernel
def chording (w : Option Waiting) (c : Option Chord) : State :=
  { base with scanner := { base.scanner with waiting := w, chord := c, pairs := [(0, 7)] } }
theorem witness_ChordsGatherPresses : (chording none (some ⟨0, 7, false, false⟩)).inChord 7 = true ∧
    (chording none none).inChord 7 = false ∧ (chording none none).scanner.isMember 7 = true ∧
    (chording none none).scanner.isMember 1 = false ∧ (chording (some ⟨0, 5, 0⟩) none).scanner.waiting = some ⟨0, 5, 0⟩ ∧
    (chording none none).scanner.isPair 0 7 = true ∧ (chording none none).scanner.isPair 0 1 = false ∧
    (chording none (some ⟨0, 7, false, false⟩)).scanner.chord = some ⟨0, 7, false, false⟩ ∧
    (chording (some ⟨0, 5, 0⟩) none).inChord 0 = false ∧
    (∀ x ∈ (chording (some ⟨0, 5, 0⟩) none).scanner.lines, x.debounceDue = false) ∧
    (chording (some ⟨0, 5, 1⟩) none).scanner.waiting = some ⟨0, 5, 1⟩ ∧
    ({ Line.reset with state := .up, run := 10 } : Line).debounceDue = true := by decide +kernel
theorem witness_PedalsSettleAndDisconnect : PedalConfig.reset.heel ≠ PedalConfig.reset.toe ∧
    1020 < 1021 ∧ ({ Pedal.reset with state := .ready, used := true } : Pedal).used = true ∧
    (let v := PedalConfig.reset.value 5
     v = 4 ∧ PedalConfig.reset.deadband ≤ ((v : Int) - (0 : Nat)).natAbs ∧ PedalConfig.reset.value 1020 = 1000) ∧
    (pedal .ready 0 0).frames % 2 = 0 ∧ ({ pedal .ready 0 0 with frames := 1 }.pedal 1).config.enable = true ∧
    (base.pedal 0).config.enable = false ∧ ((base.pedal 0).reading 1021 true).2 = none ∧
    (({ Pedal.reset with state := .ready, used := true } : Pedal).reading 1020 true).2 = some 1000 ∧
    ((pedal .settling 0 0).pedal 1).state = .settling ∧ ((pedal .settling 0 0).pedal 1).discard = 0 ∧
    ((pedal .ready 25 0).pedal 1).state = .ready ∧ 25 ≤ ((pedal .ready 25 0).pedal 1).high ∧
    ((pedal .settling 25 0).pedal 1).state = .settling ∧
    ((pedal .disconnected 0 25).pedal 1).state = .disconnected ∧ 25 ≤ ((pedal .disconnected 0 25).pedal 1).low ∧
    (base.pedal 1).state = .disabled := by decide +kernel
def table : List (Option Entry) := [none, some entry]
theorem witness_EventFiresFirstMatch : table[1]? = some (some entry) ∧
    entry.trigger.hits (.press 7) = true ∧ entry.trigger.hits (.press 0) = false ∧
    ((Trigger.chord 7 0).hits (.chord 0 7) = true ∧ (Trigger.link 5 1 (some 9)).hits (.link 7 62 ⟨1023, 1, [9]⟩) = true ∧
      (Trigger.link 5 1 (some 9)).hits (.link 7 62 ⟨1023, 0, []⟩) = false) ∧
    (∀ m < 1, ∀ y, table[m]? = some (some y) → y.trigger.hits (.press 7) = false) ∧
    (∀ y, some y ∈ base.bind.global → y.trigger.hits (.press 7) = false) := by
  refine ⟨by decide, by decide, by decide, by decide, ?_, ?_⟩
  · intro m hm y hy
    obtain rfl : m = 0 := by omega
    simp [table] at hy
  · intro y hy
    have : some y ∈ List.replicate 48 (none : Option Entry) := hy
    simp at this
def follower : Entry := ⟨.pedal 1, .paramFromPedal 2 11 0 (-900) (-100), true, true⟩
def following : State :=
  let s := setPedal 1 { Pedal.reset with state := .ready, value := 1000 } gated
  { s with bind := { s.bind with global := [some follower], globalSpans := [some (-900, -100)] } }
theorem witness_ActionsAreSentAndAnswered :
    (firing (.sceneGo 63 none)).action = .sceneGo 63 none ∧ 63 < 64 ∧
    (firing (.paramFromPedal 2 11 0 (-900) (-100))).action = .paramFromPedal 2 11 0 (-900) (-100) ∧
    base.spanOf ⟨.globalTable, 0⟩ = none ∧ following.spanOf ⟨.globalTable, 0⟩ = some (-900, -100) ∧
    base.noticeFault = none ∧ (onLink (fun l => { l with state := .detached }) base).noticeFault = some .linkDetached ∧
    base.findStage 2 11 = .error .notReady ∧ gated.findStage 2 11 = .ok (.a, .two, stage .gate .holding) ∧
    gated.findStage 2 10 = .error .badArgument ∧
    (stage .gate .holding).settable 4 = none ∧ (∃ c, (stage .gate .holding).settable 0 = some c) ∧
    (∃ c, AnswerKind.failed c = .failed .notReady) ∧
    ((following.pedal 1).state = .ready ∧ following.lookup (.pedal 1 1000) = some (⟨.globalTable, 0⟩, follower)) ∧
    follower.follow = true ∧ entry.follow = false ∧ following.lookup (.press 7) = none ∧ (base.pedal 1).state ≠ .ready :=
  ⟨rfl, by decide, rfl, by decide +kernel, by decide +kernel, by decide +kernel, by decide +kernel, by decide +kernel,
    by decide +kernel, by decide +kernel, by decide +kernel, ⟨_, rfl⟩, ⟨_, rfl⟩, by decide +kernel⟩
/-- A binding GO that replaces a RUNNING scene order lets the next one in before it is answered (R195). -/
theorem test_binding_go_lets_next_order_in :
    let s := slotIn 4 .waiting 2 7 (latched .fetching { request with origin := .slot 2 } (slotIn 2 .running 2 0 base))
    let t := fireAction (firing (.sceneGo 5 none)) { s with disp := { s.disp with ageList := [2, 4] } }
    (t.slot 2).state = .done ∧ (t.slot 4).state ≠ .waiting := by decide +kernel
def copyingBindings (kind : Byte) : State := running (.bindingCopy 31) (bytes [(0x14F0, kind)] base)

theorem witness_CopiesReplaceOrRefuse :
    ((copyingList 32 63).disp.port.running = some (.setlistCopy 31) ∧
      byteAt ((copyingList 33 0).mem.bytes 0x1500 68) 0 = 33 ∧ byteAt ((copyingList 32 63).mem.bytes 0x1500 68) 0 = 32 ∧
      wordAt ((copyingList 1 64).mem.bytes 0x1500 68) 4 = 64 ∧
      ∀ e ∈ (List.range 32).map fun n => wordAt ((copyingList 32 63).mem.bytes 0x1500 68) (4 + 2 * n), e ≤ 63) ∧
    ((copyingBindings 0).disp.port.running = some (.bindingCopy 31) ∧
      (∀ n < 48, (firstFault (entryFaults ((copyingBindings 0).mem.bytes 0x1200 768) (16 * n))).isSome = false) ∧
      (firstFault (entryFaults ((copyingBindings 255).mem.bytes 0x1200 768) (16 * 47))).isSome = true ∧
      ∀ m < 47, (firstFault (entryFaults ((copyingBindings 255).mem.bytes 0x1200 768) (16 * m))).isSome = false) ∧
    (base.bind.view = none ∧ ({ base.bind with view := some .b } : BindingUnit).view = some .b ∧
      ({ base with bind := { base.bind with global := [some { entry with trigger := .chord 7 0 }] } } : State).pairsNow = [(0, 7)]) := by
  decide +kernel

/-! ### The link and the lamps -/

theorem witness_LineCarriesCheckedMessage : 63 < 64 ∧ (⟨1023, 6, List.replicate 6 255⟩ : Message).topic < 1024 ∧
    (⟨1023, 6, List.replicate 6 255⟩ : Message).length ≤ 6 ∧ (List.replicate 6 (255 : Byte)).length = 6 ∧
    ((if true = true then 5 + 1 else 1) = 6 ∧ (if false = true then 5 + 1 else 1) ≠ 6) ∧
    (readMessage (messageBits 5 ⟨7, 1, [200]⟩)).isSome = true ∧ (crc8 [true]).toNat = 7 := by decide +kernel
theorem test_message_round_trip : decodeLine (lineBits 63 ⟨1023, 6, List.replicate 6 255⟩) =
      some (63, ⟨1023, 6, List.replicate 6 255⟩) ∧
    decodeLine (lineBits 0 ⟨0, 0, []⟩) = some (0, ⟨0, 0, []⟩) := by decide +kernel
/-- Topic 0, sender 0, no payload: nineteen dominant bits after the start bit, a recessive stuff bit after each six, and
the check 0 of R150. -/
theorem test_message_bits : lineBits 0 ⟨0, 0, []⟩ =
    [false, false, false, false, false, false, true, false, false, false, false, false, false, true,
     false, false, false, false, false, false, true, false, false, false, false, false, false, true,
     false, false, false, false] := by decide +kernel
def twoHolds : State := hold 1 .pending 3 9 .notice (hold 0 .pending 3 8 .notice (onBus base))
def sending (o : HoldOrigin) (mark : Bool) (attempts : Nat) : State :=
  setHold 2 { Hold.empty with state := .sending, origin := o, cancelMark := mark, attempts := attempts } (onBus base)
theorem witness_AttemptStartsAndEnds : (twoHolds.link.engagement = .onBus ∧ twoHolds.link.state ≠ .detached ∧
      twoHolds.link.inhibit = false ∧ twoHolds.link.lineFree = true ∧ twoHolds.link.receiving = false ∧
      twoHolds.link.justSent = false ∧ 16 ≤ 16 ∧ (∀ g < 3, (twoHolds.hold g).state ≠ .sending) ∧
      (onLink (fun l => { l with state := .quiet, justSent := true }) twoHolds).link.state = .quiet ∧ 24 ≤ 24 ∧
      (twoHolds.hold 0).state = .pending ∧
      (∀ g < 3, g ≠ 0 → (twoHolds.hold g).state = .pending → (twoHolds.hold 0).message.topic < (twoHolds.hold g).message.topic ∨
        ((twoHolds.hold 0).message.topic = (twoHolds.hold g).message.topic ∧ (twoHolds.hold 0).stamp < (twoHolds.hold g).stamp))) ∧
    ((sending (.slot 31) false 0).sendingHold = some 2 ∧
      (sending (.slot 31) false 0).link.config.loopback = false ∧ ((sending (.slot 31) false 0).hold 2).cancelMark = false ∧
      ((sending (.slot 31) true 0).hold 2).cancelMark = true ∧ ((sending (.slot 31) true 0).hold 2).origin = .slot 31 ∧
      ((sending .notice false 0).hold 2).origin = .notice) ∧
    (let s := settingUp (onLink (fun l => { l with inhibit := true }) base)
     s.link.inhibit = true ∧ s.disp.setupPending = true ∧ (∀ h < 3, (s.hold h).state ≠ .sending)) ∧
    base.link.inhibit = false := by decide +kernel
def receiving : State := onLink (fun l => { l with receiving := true }) (onBus base)
def inLoopback (s : State) : State := onLink (fun l => { l with config := { l.config with loopback := true } }) s
/-- Seven filters that miss, and one that hits every header. -/
def filtering (d : FilterDest) : State :=
  onLink (fun l => { l with config := { l.config with filters := List.replicate 7 Filter.reset ++ [⟨true, 0xFFFF, 0, d⟩] } }) receiving
theorem witness_ReceivedMessageIsPassedOn : receiving.link.receiving = true ∧ receiving.link.engagement = .onBus ∧
    receiving.link.state ≠ .detached ∧ receiving.link.config.loopback = false ∧
    decodeLine [true] = none ∧ decodeLine (lineBits 63 ⟨0, 0, []⟩) = some (63, ⟨0, 0, []⟩) ∧
    63 = receiving.link.config.address ∧ decodeLine (lineBits 0 ⟨0, 0, []⟩) = some (0, ⟨0, 0, []⟩) ∧
    (∀ f ∈ base.link.config.filters, f.hits (word (64 * 1023 + 62)) = false) ∧
    (∀ d ∈ [FilterDest.report, .bind, .both], (filtering d).link.config.filters[7]? = some ⟨true, 0xFFFF, 0, d⟩ ∧
      Filter.hits ⟨true, 0xFFFF, 0, d⟩ (word (64 * 1023 + 62)) = true ∧
      ∀ f ∈ (filtering d).link.config.filters.take 7, f.hits (word (64 * 1023 + 62)) = false) ∧
    (inLoopback (sending .notice false 0)).sendingHold = some 2 ∧
    (sentOk chooseLink 2 (inLoopback (sending .notice false 0))).link.config.loopback = true := by decide +kernel
theorem witness_ErrorsCountAndEndAttempts : (sending (.slot 31) false 0).sendingHold = some 2 ∧
    LinkErrorKind.noAck ≠ .check ∧ receiving.sendingHold = none ∧ LinkErrorKind.check ≠ .bit ∧ LinkErrorKind.check ≠ .noAck ∧
    (sending (.slot 31) false 0).link.config.loopback = false ∧ receiving.link.receiving = true ∧
    linkStateOf (min 255 (216 + 8)) 0 .quiet = .detached ∧ linkStateOf (min 255 (215 + 8)) 0 .quiet ≠ .detached ∧
    ((sending (.slot 31) true 0).hold 2).cancelMark = true ∧ ((sending (.slot 31) false 2).hold 2).attempts < 3 ∧
    3 ≤ ((sending (.slot 31) false 3).hold 2).attempts ∧ ((sending .notice false 3).hold 2).origin = .notice ∧
    (let s := fun n => onLink (fun l => { l with notices := List.replicate n ⟨⟨5, 0, []⟩, 9⟩ }) base
     (s 7).link.notices.length < 8 ∧ 8 ≤ (s 8).link.notices.length ∧ (s 8).link.state ≠ .detached) := by decide +kernel
def rejoining (count : Nat) : State :=
  inRun (onBus (onLink (fun l => { l with state := .detached, rejoinMark := true, rejoinCount := count, tec := 224 }) base))
theorem witness_LineAndBusEvents :
    (onLink (fun l => { l with engagement := .awaitingIdle }) base).link.engagement = .awaitingIdle ∧
    base.link.engagement ≠ .awaitingIdle ∧ (onBus base).sendingHold = none ∧ (onBus base).link.receiving = false ∧
    (onBus base).link.engagement ≠ .offBus ∧ (onBus base).link.lineFree = true ∧ (onBus base).link.engagement = .onBus ∧
    (onBus base).link.config.loopback = false ∧ (rejoining 31).link.state = .detached ∧
    (rejoining 31).link.rejoinMark = true ∧ (rejoining 31).disp.mode = .run ∧ (rejoining 31).sendingHold = none ∧
    31 ≤ (rejoining 31).link.rejoinCount ∧ ¬ 31 ≤ (rejoining 30).link.rejoinCount ∧
    (rejoining 31).link.receiving = false ∧ (rejoining 31).link.engagement ≠ .offBus := by decide +kernel
def pendingLamps (first : Nat) (c : LampConfig) : PendingLamps := ⟨31, first, [c]⟩
theorem witness_PeriodStartLoadsLevels : (lamps fun d => { d with windowOpen := true }).lamps.windowOpen = true ∧
    base.lamps.window = 0 ∧ base.lamps.windowOpen = false ∧ base.lamps.pending = none ∧
    (base.lamps.lamps[11]?).isSome = true ∧
    ((lampPair true 0).lamps.lamps[10]?).map (fun e => (e.config.complement, e.worked)) = some (true, .on 2047 true) ∧
    ((lampPair false 0).lamps.lamps[10]?).map (fun e => e.config.complement) = some false ∧
    ((lampPair true 0).lamps.lamp 10).worked.halfCounts = 4096 ∧ ((lampPair true 0).lamps.lamp 10).config.gap = 0 ∧
    (lamps fun d => { d with pending := some (pendingLamps 11 LampConfig.reset) }).lamps.pending =
      some (pendingLamps 11 LampConfig.reset) ∧
    (let given := fun (p : PendingLamps) k => if p.first ≤ k then p.configs[k - p.first]? else none
     given (pendingLamps 11 LampConfig.reset) 11 = some LampConfig.reset ∧ given (pendingLamps 11 LampConfig.reset) 10 = none ∧
       given (pendingLamps 10 LampConfig.reset) 10 = some LampConfig.reset ∧ LampConfig.reset.complement = false ∧
       given (pendingLamps 10 LampConfig.reset) 11 = none) := by decide +kernel

/-! ### One step -/

theorem test_post : leaves (.post 31) base (fun t => decide
    ((t.slot 31).state = .waiting ∧ t.disp.port.queue = [.orderCapture 31 0] ∧ t.mem.readWord 0x9F4 = 1 ∧
      t.mem.readWord 0x9F6 = 1 ∧ t.mem.readWord 0x08 = 0x011F)) = true := by decide +kernel
theorem test_post_idle_port : leaves (.post 31) idlePort (fun t =>
    decide (t.disp.port.running = some (.orderCapture 31 0))) = true := by decide +kernel
theorem test_capture_bad_kind : leaves .orderCapture (capturing 19 0) (fun t => decide
    ((t.slot 31).state = .done ∧ (t.slot 31).code = .badArgument ∧ (t.slot 31).words = [19, 0, 0, 0] ∧
      t.disp.pages.count0 = 1 ∧ t.attn = 1)) = true := by decide +kernel
theorem test_run_request : leaves .runRequest base (fun t => decide
    (t.disp.mode = .run ∧ t.lane.ramp = .rising ∧ t.link.engagement = .awaitingIdle ∧ t.readReg .mode = 1 ∧
      t.attn = 0x20)) = true := by decide +kernel
theorem test_boundary : leaves (.frameBoundary ⟨none, 0, 0⟩) base (fun t => decide
    (t.frames = 1 ∧ t.tempo.phase = 1200 ∧ t.delivering = false)) = true := by decide +kernel
theorem test_group_reading : leaves .groupComplete (tuning 6982 false false) (fun t => decide
    (t.tuner.cell.status = .stable ∧ t.tuner.cell.frequency = some 43999 ∧ t.mem.readWord 0x108 = 6982 ∧
      t.attn = 2)) = true := by decide +kernel
theorem test_cents : centsFrom 44000 4400 = 0 ∧ centsFrom 46616 4400 = 100 ∧ centsFrom 22000 4400 = -1200 := by decide +kernel
theorem test_gains : |panLeftOf 0 ^ 2 - 1 / 2| < 1 / 10 ^ 15 ∧ |gainOf 1 ^ 200 - 10| < 1 / 10 ^ 15 := by decide +kernel

end Sys2Proof.Tests
end

section
/-! Sitting 1: lanes and stages (chapter 1). What the lane engine's frame, its orders and its events do, one lemma for
each operation of the model, and the statements settled from them. -/

namespace Sys2Proof.Machine

/-! ### The commands of the lane engine, each as the effect it is run with -/

theorem exec_muteRampSilent (s : State) : exec .muteRampSilent s = plain (force State.silentDue rampSilent) s := rfl
theorem exec_muteRampUnmuted (s : State) : exec .muteRampUnmuted s = plain rampUnmuted s := rfl
theorem exec_gateHoldExpiry (k : BankId) (ln : LaneId) (p : Fin 12) (s : State) : exec (.gateHoldExpiry k ln p) s =
    plain (atBoundary (fun s => s.gateHoldDue k ln p) (gateHoldEnd k ln p)) s := rfl
theorem exec_tapCrossfadeEnd (k : BankId) (ln : LaneId) (p : Fin 12) (s : State) :
    exec (.tapCrossfadeEnd k ln p) s = plain (tapFadeEnd k ln p) s := rfl

/-- An event that is due acts whole; one that is not leaves the state. -/
theorem force_of_due {due : State → Bool} {s : State} (f : State → State) (h : due s = true) :
    force due f s = finish (f s) := by unfold force; rw [if_pos h]

theorem force_of_not_due {due : State → Bool} {s : State} (f : State → State) (h : due s = false) :
    force due f s = s := by unfold force; rw [if_neg (by simp [h])]

/-! ### The mute ramp (R26, R28) -/

theorem silentDue_iff (s : State) : s.silentDue = true ↔ s.lane.ramp = .falling ∧ s.lane.rampCount = 0 := by
  simp [State.silentDue]

theorem unmutedDue_iff (s : State) : s.unmutedDue = true ↔ s.lane.ramp = .rising ∧ s.lane.rampCount = 192 := by
  simp [State.unmutedDue]

theorem exec_muteRampSilent_of_due {s : State} (hs : s.resetHeld = false) (h : s.silentDue = true) :
    exec .muteRampSilent s = .next (publish s (finish (rampSilent s))) := by
  rw [exec_muteRampSilent, plain_of_free _ hs, force_of_due _ h]

theorem exec_muteRampSilent_of_not_due {s : State} (hs : s.resetHeld = false) (h : s.silentDue = false) :
    exec .muteRampSilent s = .next (publish s s) := by
  rw [exec_muteRampSilent, plain_of_free _ hs, force_of_not_due _ h]

theorem exec_muteRampUnmuted_of_due {s : State} (hs : s.resetHeld = false) (h : s.unmutedDue = true) :
    exec .muteRampUnmuted s = .next (publish s (setLane { s.lane with ramp := .unmuted } s)) := by
  rw [exec_muteRampUnmuted, plain_of_free _ hs, rampUnmuted, if_pos h]

theorem exec_muteRampUnmuted_of_not_due {s : State} (hs : s.resetHeld = false) (h : s.unmutedDue = false) :
    exec .muteRampUnmuted s = .next (publish s s) := by
  rw [exec_muteRampUnmuted, plain_of_free _ hs, rampUnmuted, if_neg (by simp [h])]

/-- The ramp turns with the mute set's becoming empty or not (R26). -/
theorem MuteRamp.turn_eq (r : MuteRamp) (m n : MuteSet) : r.turn m n =
    if m.isEmpty = true ∧ n.isEmpty = false then .falling
    else if m.isEmpty = false ∧ n.isEmpty = true then .rising else r := by
  unfold MuteRamp.turn
  cases m.isEmpty <;> cases n.isEmpty <;> rfl

/-- A frame moves the ramp count by its 48 samples. -/
theorem playFrame_rampCount (input : List (Sample × Sample)) (pa pb : BankPlay) (s : State) :
    (playFrame input pa pb s).lane.rampCount = rampCountAt s.lane.ramp s.lane.rampCount 47 := rfl

/-- A value that is a whole number is brought to itself (log 13). -/
@[simp] theorem rnd_intCast (n : Int) : rnd (n : ℚ) = n := by simp [rnd]

@[simp] theorem rnd_zero : rnd 0 = 0 := rnd_intCast 0

/-- At ramp count 0 every output is 0. -/
@[simp] theorem outSample_zero (x : Four) : outSample 0 x = OutSample.zero := by
  simp [outSample, saturate, clampInt, OutSample.zero]

theorem outputFrame_of_not_live (r : MuteRamp) (count : Nat) (sum : List Four) :
    outputFrame false r count sum = List.replicate 48 OutSample.zero := rfl

theorem mem_outputFrame_silent {live : Bool} {sum : List Four} {y : OutSample} (h : y ∈ outputFrame live .silent 0 sum) :
    y = OutSample.zero := by
  cases live with
  | false => exact List.eq_of_mem_replicate h
  | true =>
    obtain ⟨x, _, rfl⟩ := List.mem_map.1 h
    exact outSample_zero _

/-- With no bank LIVE, and with the ramp SILENT at count 0, a frame's outputs are silence (R28). -/
theorem playFrame_output_silent (input : List (Sample × Sample)) (pa pb : BankPlay) (s : State)
    (h : s.liveBank = none ∨ (s.lane.ramp = .silent ∧ s.lane.rampCount = 0)) :
    ∀ y ∈ (playFrame input pa pb s).lane.output, y = OutSample.zero := by
  intro y hy
  simp only [playFrame] at hy
  rcases h with h | ⟨hr, hc⟩
  · rw [h] at hy
    exact List.eq_of_mem_replicate hy
  · rw [hr, hc] at hy
    exact mem_outputFrame_silent hy

/-- Settles O26: the two ends of the ramp by whether they are due, its turn by the mute set, and its outputs. -/
theorem muteRampTurnsAndEnds : Obligations.MuteRampTurnsAndEnds := by
  refine ⟨fun s hs => ⟨fun hr hc => ?_, fun h => ?_, fun hr hc => ?_, fun h => ?_⟩, fun f s => ?_,
    fun input pa pb s => ⟨?_, playFrame_output_silent input pa pb s⟩⟩
  · exact exec_muteRampSilent_of_due hs ((silentDue_iff s).2 ⟨hr, hc⟩)
  · refine exec_muteRampSilent_of_not_due hs (Bool.eq_false_iff.2 fun hd => ?_)
    obtain ⟨hr, hc⟩ := (silentDue_iff s).1 hd
    exact h.elim (· hr) (· hc)
  · exact exec_muteRampUnmuted_of_due hs ((unmutedDue_iff s).2 ⟨hr, hc⟩)
  · refine exec_muteRampUnmuted_of_not_due hs (Bool.eq_false_iff.2 fun hd => ?_)
    obtain ⟨hr, hc⟩ := (unmutedDue_iff s).1 hd
    exact h.elim (· hr) (· hc)
  · rw [← MuteRamp.turn_eq]; rfl
  · rw [playFrame_rampCount]
    cases s.lane.ramp <;> rfl

/-! ### The end of a gate's hold and of a tap crossfade (R12, R16) -/

theorem holdDue_iff (x : Stage) : x.holdDue = true ↔
    x.kind = .gate ∧ x.gate = .holding ∧ x.gateHold ≤ 1 ∧ peakReaches x.peak (x.target 0) = false := by
  simp only [Stage.holdDue, Bool.and_eq_true, beq_iff_eq, Bool.not_eq_true', decide_eq_true_eq]
  constructor
  · rintro ⟨⟨⟨hk, hg⟩, hp⟩, hh⟩; exact ⟨hk, hg, hh, hp⟩
  · rintro ⟨hk, hg, hh, hp⟩; exact ⟨⟨⟨hk, hg⟩, hp⟩, hh⟩

theorem gateHoldDue_iff (b : State) (k : BankId) (ln : LaneId) (p : Nat) : b.gateHoldDue k ln p = true ↔
    (b.bankPlay k).mode = .full ∧ ((b.lane.banks.get k).lanes.get ln).enabled = true ∧
      ∃ x, b.stageAt k ln p = some x ∧ x.holdDue = true := by
  unfold State.gateHoldDue
  cases b.stageAt k ln p <;> simp [and_assoc]

theorem updateStage_of_some {s : State} {k : BankId} {ln : LaneId} {p : Nat} {x : Stage} (f : Stage → Stage)
    (h : s.stageAt k ln p = some x) : updateStage k ln p f s = putStage k ln p (f x) s := by
  unfold updateStage; rw [h]

theorem Tap.endFade_of_some {t : Tap} {n m : Nat} (h : t.fade = some (n, m)) : t.endFade =
    { t with time := n, pending := none, fade := match t.pending with
        | none => none
        | some q => if q = n then none else some (q, 0) } := by
  unfold Tap.endFade; rw [h] <;> rfl

theorem Tap.fadeDone_iff (t : Tap) : t.fadeDone = true ↔ ∃ n, t.fade = some (n, 20) := by
  unfold Tap.fadeDone
  rcases t.fade with _ | ⟨n, m⟩ <;> simp

theorem tapFadeEnd_of_done {s : State} {k : BankId} {ln : LaneId} {p : Nat} {x : Stage} (h : s.stageAt k ln p = some x)
    (hd : x.tap.fadeDone = true) : tapFadeEnd k ln p s = putStage k ln p { x with tap := x.tap.endFade } s := by
  unfold tapFadeEnd; rw [h]; exact if_pos hd

/-- Settles O28: by whether the hold is due at the boundary that stands, and by the crossfade's end. -/
theorem gateHoldAndTapFadeEnd : Obligations.GateHoldAndTapFadeEnd := by
  refine ⟨fun s k ln p hs => ⟨fun x hm he hx hk hg hh hp => ?_, ?_, fun h => ?_⟩, fun s k ln p x n hs hx hf => ?_⟩
  · have due : (openBoundary s).gateHoldDue k ln p = true :=
      (gateHoldDue_iff ..).2 ⟨hm, he, x, hx, (holdDue_iff x).2 ⟨hk, hg, hh, hp⟩⟩
    rw [exec_gateHoldExpiry, plain_of_free _ hs, atBoundary]
    simp only [due, if_true]
    rw [gateHoldEnd, updateStage_of_some _ hx, Stage.holdEnd]
  · simp only [gateHoldDue_iff, holdDue_iff]
  · rw [exec_gateHoldExpiry, plain_of_free _ hs, atBoundary]
    simp [h]
  · rw [exec_tapCrossfadeEnd, plain_of_free _ hs, tapFadeEnd_of_done hx ((Tap.fadeDone_iff _).2 ⟨n, hf⟩),
      Tap.endFade_of_some hf] <;> rfl

end Sys2Proof.Machine
end

section
/-! The frame boundary (R1, R2; log 2): the commands whose effect its arrival and its scene work repeat. -/

namespace Sys2Proof.Machine

/-- The effect of a command that a boundary takes when no command of its own has: what `exec` runs it with, on a boundary
that stands. -/
def ownEffect : Instr → State → State
  | .muteRampSilent => force State.silentDue rampSilent
  | .muteRampUnmuted => rampUnmuted
  | .zeroedAnswer => force State.answerDue zeroedAnswer
  | .groupComplete => groupComplete
  | .silenceTimerExpiry => silenceExpiry
  | .linkWatchExpiry => linkWatchExpiry
  | .debouncedChange n => force (fun s => (s.line n).debounceDue) (debouncedChange n)
  | .switchSettleEnd n => settleEnd n
  | .holdTimerExpiry n => force (fun s => (s.line n).holdDue) (holdExpiry n)
  | .repeatTimerExpiry n => force (fun s => (s.line n).reptDue) (repeatExpiry n)
  | .chordWindowExpiry => force State.windowDue deliverWaiting
  | .pedalDisconnect p => pedalDisconnect p
  | .pedalSettleEnd p => pedalSettleEnd p
  | .pedalReconnect p => pedalReconnect p
  | .beatWindowClose => beatWindowClose
  | .trailTimerExpiry k => whenDue (fun s => s.trailDue k) (startCut k)
  | .cutEnd k => force (fun s => s.cutDue k) (cutEnd k)
  | .fadeOutEnd => force State.fadeOutDue fadeOutEnd
  | .gapFadeInStart => whenDue State.gapFadeInDue gapFadeIn
  | .leanSilence => force State.leanDue leanSilence
  | .prepareDone => force State.prepareDue prepareDone
  | .fadeEnd => force State.fadeEndDue fadeEndWhole
  | .swap => force State.swapDue swap
  | _ => id

/-- The commands that an arriving boundary takes for the one before. -/
def settledCommand : Instr → Bool
  | .muteRampSilent | .muteRampUnmuted | .zeroedAnswer | .groupComplete | .silenceTimerExpiry | .linkWatchExpiry
  | .debouncedChange _ | .switchSettleEnd _ | .holdTimerExpiry _ | .repeatTimerExpiry _ | .chordWindowExpiry
  | .pedalDisconnect _ | .pedalSettleEnd _ | .pedalReconnect _ | .beatWindowClose => true
  | _ => false

/-- The scene unit's events at a boundary. -/
def sceneCommand : Instr → Bool
  | .trailTimerExpiry _ | .cutEnd _ | .fadeOutEnd | .gapFadeInStart | .leanSilence | .prepareDone | .fadeEnd | .swap => true
  | _ => false

theorem ownEffect_still (c : Instr) (s t : State) : Still s (ownEffect c t) ↔ Still s t := by
  cases c <;> simp [ownEffect]

theorem exec_settledCommand {c : Instr} (h : settledCommand c = true) (s : State) : exec c s = plain (ownEffect c) s := by
  cases c <;> simp only [settledCommand, Bool.false_eq_true] at h <;> rfl

/-- On a boundary that stands, an event of its own is taken when it is due. -/
theorem atBoundary_of_opened {s : State} (h : s.opened = true) (due : State → Bool) (f : State → State) :
    atBoundary due f s = whenDue due f s := by
  unfold atBoundary; rw [openBoundary_of_opened h]; rfl

theorem plain_atBoundary {s : State} (hs : s.resetHeld = false) (h : s.opened = true) (due : State → Bool)
    (f : State → State) : plain (atBoundary due f) s = .next (publish s (whenDue due f s)) := by
  rw [plain_of_free _ hs, atBoundary_of_opened h]

theorem exec_sceneCommand {c : Instr} (h : sceneCommand c = true) {s : State} (hs : s.resetHeld = false)
    (ho : s.opened = true) : exec c s = .next (publish s (ownEffect c s)) := by
  cases c <;> simp only [sceneCommand, Bool.false_eq_true] at h <;> exact plain_atBoundary hs ho _ _

/-! ### The commands in a fixed order -/

/-- The effects of a list of commands, in order. -/
def takeAll (l : List Instr) (s : State) : State := l.foldl (fun u c => ownEffect c u) s

theorem takeAll_append (l m : List Instr) (s : State) : takeAll (l ++ m) s = takeAll m (takeAll l s) :=
  List.foldl_append

theorem takeAll_replicate (c : Instr) (n : Nat) (s : State) :
    takeAll (List.replicate n c) s = iterate (ownEffect c) n s := by
  induction n generalizing s with
  | zero => rfl
  | succ n ih => exact ih (ownEffect c s)

/-- A command for each of the eight lines. -/
def eachLine (c : Fin 8 → Instr) : List Instr := (List.finRange 8).map c

/-- A command for each line runs as the event for each number. -/
theorem takeAll_eachLine (c : Fin 8 → Instr) (f : Nat → State → State) (h : ∀ i : Fin 8, ownEffect (c i) = f i)
    (s : State) : takeAll (eachLine c) s = forEach 8 f s := by
  unfold takeAll eachLine forEach
  rw [← List.map_coe_finRange_eq_range, List.foldl_map, List.foldl_map]
  simp only [h]

theorem forEach_two (f : Nat → State → State) (s : State) : forEach 2 f s = f 1 (f 0 s) := rfl

/-- What is due of the mute ramp comes before the ends of the tap crossfades. -/
def settledBefore : List Instr := [.muteRampSilent, .muteRampUnmuted]

def settledAfter : List Instr :=
  [Instr.zeroedAnswer, Instr.zeroedAnswer] ++ List.replicate 12 Instr.groupComplete ++
    [Instr.silenceTimerExpiry, Instr.linkWatchExpiry] ++ eachLine Instr.debouncedChange ++
    eachLine Instr.switchSettleEnd ++ eachLine Instr.holdTimerExpiry ++ eachLine Instr.repeatTimerExpiry ++
    [Instr.chordWindowExpiry, Instr.pedalDisconnect 0, Instr.pedalSettleEnd 0, Instr.pedalReconnect 0,
      Instr.pedalDisconnect 1, Instr.pedalSettleEnd 1, Instr.pedalReconnect 1, Instr.beatWindowClose]

def sceneCommands : List Instr :=
  [.trailTimerExpiry .a, .trailTimerExpiry .b, .cutEnd .a, .cutEnd .b, .fadeOutEnd, .gapFadeInStart, .leanSilence,
    .prepareDone, .fadeEnd, .swap]

theorem settledCommand_of_mem : ∀ c ∈ settledBefore ++ settledAfter, settledCommand c = true := by decide

theorem sceneCommand_of_mem : ∀ c ∈ sceneCommands, sceneCommand c = true := by decide

theorem settlePost_eq_takeAll (s : State) :
    settlePost s = takeAll settledAfter (endTapFades (takeAll settledBefore s)) := by
  have debounced := takeAll_eachLine .debouncedChange
    (fun n => force (fun s => (s.line n).debounceDue) (debouncedChange n)) fun _ => rfl
  have settled := takeAll_eachLine .switchSettleEnd settleEnd fun _ => rfl
  have held := takeAll_eachLine .holdTimerExpiry
    (fun n => force (fun s => (s.line n).holdDue) (holdExpiry n)) fun _ => rfl
  have repeated := takeAll_eachLine .repeatTimerExpiry
    (fun n => force (fun s => (s.line n).reptDue) (repeatExpiry n)) fun _ => rfl
  simp only [settledAfter, takeAll_append, takeAll_replicate, debounced, settled, held, repeated]
  simp only [takeAll, settledBefore, List.foldl_cons, List.foldl_nil, ownEffect, settlePost, forEach_two]
  rfl

theorem sceneWork_eq_takeAll (s : State) : sceneWork s = takeAll sceneCommands s := by
  simp only [sceneWork, takeAll, sceneCommands, List.foldl_cons, List.foldl_nil, ownEffect]

theorem exec_frameBoundary (i : BoundaryInput) (s : State) :
    exec (.frameBoundary i) s = plain (fun s => finish (frameBoundary i s)) s := rfl

theorem exec_converterSamplesStop (s : State) :
    exec .converterSamplesStop s = plain (fun s => { s with delivering := false }) s := rfl

/-! ### What the arrival and the work of a boundary do -/

/-- A whole boundary ends its standing, and changes neither memory nor the queue; the frame counter counts it once. -/
theorem frameBoundary_keeps (i : BoundaryInput) (s : State) :
    (frameBoundary i s).frames = (if s.opened then s.frames else s.frames + 1) ∧ (frameBoundary i s).opened = false ∧
      (frameBoundary i s).mem = s.mem ∧ (frameBoundary i s).pending = s.pending := by
  have h := frameBoundary_still i s
  exact ⟨h.frames.trans (openBoundary_frames s), h.opened, h.mem.trans (openBoundary_mem s),
    h.pending.trans (openBoundary_pending s)⟩

/-- The frame's work, its first two updates written out. -/
theorem frameWork_eq (i : BoundaryInput) (s : State) :
    let u := { s with tempo := { s.tempo with watch := s.tempo.watch.map (· - 1) }, lines := s.lines.zeroFour }
    let v := laneFrame chooseLane (inputFrame i) (u.bankPlay .a) (u.bankPlay .b) u
    let w := scannerFrame i.pins
      (tunerFrame (inputFrame i) { v with opened := false, delivering := i.samples.isSome })
    frameWork i s = takeAddition (lampFrame (finish (pedalFrame i.pedal w))) := by
  simp only [frameWork, setLines, countWatch, setTempoUnit]

theorem loadingSet_of_none {l : LineMemory} (h : ∀ id < 16, (l.impulse id).state ≠ .loading) : l.loadingSet = none := by
  simpa [LineMemory.loadingSet] using h

/-- The LOADING set is the first in the directory. -/
theorem loadingSet_of_first {l : LineMemory} {id : Nat} (hid : id < 16) (h : (l.impulse id).state = .loading)
    (first : ∀ j < id, (l.impulse j).state ≠ .loading) : l.loadingSet = some id := by
  unfold LineMemory.loadingSet
  rw [List.find?_range_eq_some]
  exact ⟨by simp [h], List.mem_range.2 hid, fun j hj => by simp [first j hj]⟩

theorem askImpulseChunk_of_none {s : State} (h : s.lines.loadingSet = none) : askImpulseChunk s = s := by
  unfold askImpulseChunk; rw [h]

theorem askImpulseChunk_of_some {s : State} {id : Nat} (h : s.lines.loadingSet = some id) :
    askImpulseChunk s = askBurst (.impulseChunk id) s := by
  unfold askImpulseChunk; rw [h]

/-- What the boundary does with a stage whose tap crossfade has run its 20 frames. -/
theorem endFade_of_fade (x : Stage) : (if x.tap.fadeDone then { x with tap := x.tap.endFade } else x) =
    match x.tap.fade with
    | some (n, 20) => { x with tap := { x.tap with time := n, pending := none, fade := match x.tap.pending with
        | none => none
        | some q => if q = n then none else some (q, 0) } }
    | _ => x := by
  split
  · next h =>
    obtain ⟨n, hn⟩ := (Tap.fadeDone_iff _).1 h
    rw [Tap.endFade_of_some hn, hn] <;> rfl
  · next h =>
    split
    · next n hn => exact absurd ((Tap.fadeDone_iff _).2 ⟨n, hn⟩) h
    · rfl

theorem Bank.mapStages_get (f : Stage → Stage) (k : Bank) (ln : LaneId) :
    (k.mapStages f).lanes.get ln = (k.lanes.get ln).mapStages f := by cases ln <;> rfl

theorem endTapFades_get (s : State) (k : BankId) : (endTapFades s).lane.banks.get k =
    (s.lane.banks.get k).mapStages fun x => if x.tap.fadeDone then { x with tap := x.tap.endFade } else x := by
  cases k <;> rfl

/-- Settles O27: a boundary's arrival, its scene work and its frame's work are the effects of their commands in order. -/
theorem frameBoundaryCountsOnce : Obligations.FrameBoundaryCountsOnce := by
  refine ⟨fun s i hs => ⟨⟨frameBoundary i s, ?_, rfl, frameBoundary_keeps i s⟩, openBoundary_of_opened, ?_, fun h => ?_⟩,
    frameWork_eq, fun choose input pa pb s => rfl, fun s hs => ⟨fun h => ?_, fun id hid h first => ?_⟩,
    ownEffect, endTapFades, fun s => ⟨settlePost_eq_takeAll s, sceneWork_eq_takeAll s⟩, fun c hc u hu => ?_,
    fun c hc u hu ho => ?_, fun u k ln => ⟨rfl, ?_, ?_⟩⟩
  · rw [exec_frameBoundary, plain_of_free _ hs]
  · rw [exec_converterSamplesStop, plain_of_free _ hs]
  · unfold inputFrame; rw [h]
  · rw [openBoundary_of_closed hs]
    generalize settlePost s = p at h
    exact askImpulseChunk_of_none (loadingSet_of_none h)
  · rw [openBoundary_of_closed hs]
    generalize settlePost s = p at h first
    exact askImpulseChunk_of_some (loadingSet_of_first hid h first)
  · have still := still_apply (ownEffect_still c) u
    exact ⟨(exec_settledCommand (settledCommand_of_mem c hc) u).trans (plain_of_free _ hu), still.mem,
      still.resetHeld.trans hu⟩
  · have still := still_apply (ownEffect_still c) u
    exact ⟨exec_sceneCommand (sceneCommand_of_mem c hc) hu ho, still.mem, still.resetHeld.trans hu, still.opened.trans ho⟩
  · rw [endTapFades_get]; rfl
  · rw [endTapFades_get, Bank.mapStages_get, Lane.mapStages]
    simp only [endFade_of_fade] <;> rfl

end Sys2Proof.Machine
end

section
/-! What runs in a lane and in a bank over a frame (R2, R4, R6, R7), and how tempo and beats reach the stages (R15-R17,
R21). -/

namespace Sys2Proof.Machine

/-! ### The stages that run -/

theorem Stage.runsIn_iff (x : Stage) (m : RunMode) :
    x.runsIn m = true ↔ m = .full ∨ (m = .trails ∧ x.trail = true) := by
  cases m <;> simp [Stage.runsIn]

theorem Lane.runsAny_iff (k : Lane) (m : RunMode) :
    k.runsAny m = true ↔ ∃ x, some x ∈ k.stages ∧ x.runsIn m = true := by
  unfold Lane.runsAny
  rw [List.any_eq_true]
  constructor
  · rintro ⟨_ | x, hx, h⟩
    · cases h
    · exact ⟨x, hx, h⟩
  · rintro ⟨x, hx, h⟩
    exact ⟨some x, hx, h⟩

theorem laneInput_full {f : FrameInput} (h : f.mode = .full) (source : LaneSource) (lane1 : List Int) :
    laneInput f source lane1 = match source with
      | .inA => f.inA
      | .inB => f.inB
      | .lane1 => lane1 := by
  cases source <;> simp only [laneInput, h]

theorem laneInput_trails {f : FrameInput} (h : f.mode = .trails) (source : LaneSource) (lane1 : List Int) :
    laneInput f source lane1 = if source = .lane1 then lane1 else List.replicate 48 0 := by
  unfold laneInput; rw [h]
  cases source <;> rfl

section
variable (l : LineMemory) (k : BankId) (ln : LaneId) (f : FrameInput) (x : Stage) (rest : List (Option Stage)) (p : Nat)
  (cut : Bool) (signal : List Int) (c : AudioCtx)

theorem runStages_nil : runStages l k ln f [] p cut signal c = ([], signal, c) := rfl

theorem runStages_none : runStages l k ln f (none :: rest) p cut signal c =
    (none :: (runStages l k ln f rest (p + 1) cut signal c).1, (runStages l k ln f rest (p + 1) cut signal c).2) := rfl

/-- A stage that does not run stays, and passes the signal by. -/
theorem runStages_passed (h : x.runsIn f.mode = false) : runStages l k ln f (some x :: rest) p cut signal c =
    (some x :: (runStages l k ln f rest (p + 1) cut signal c).1, (runStages l k ln f rest (p + 1) cut signal c).2) := by
  rw [runStages]; exact if_neg (by simp [h])

/-- A stage that runs takes the signal, cut by the crossfade gain at the first trail stage's input. -/
theorem runStages_runs (h : x.runsIn f.mode = true) :
    let input := if cut = true ∧ x.trail = true then signal.zipIdx.map fun y => rnd (y.1 * f.gainAt y.2) else signal
    let y := x.run l (l.blockList (.stage k ln p)) input c
    let r := runStages l k ln f rest (p + 1) (cut && !x.trail) y.2.1 y.2.2
    runStages l k ln f (some x :: rest) p cut signal c = (some y.1 :: r.1, r.2) := by
  rw [runStages]; dsimp only
  rw [if_pos h]
  simp only [Bool.and_eq_true, mapSamples]

end

/-! ### A lane and a bank over a frame -/

theorem Lane.run_enabled (l : LineMemory) (bk : BankId) (ln : LaneId) (f : FrameInput) {k : Lane} (input : List Int)
    (c : AudioCtx) (h : k.enabled = true) :
    let r := runStages l bk ln f k.stages 0 (decide (f.fadePoint = .trailInput)) input c
    k.run l bk ln f input c = ({ k with stages := r.1 }, r.2.1, k.contribution f r.2.1, r.2.2) := by
  unfold Lane.run; exact if_pos h

theorem Lane.run_disabled (l : LineMemory) (bk : BankId) (ln : LaneId) (f : FrameInput) {k : Lane} (input : List Int)
    (c : AudioCtx) (h : k.enabled = false) : k.run l bk ln f input c = (k, input, zeroFrame, c) := by
  unfold Lane.run; exact if_neg (by simp [h])

theorem Bank.run_held (l : LineMemory) (bk : BankId) {f : FrameInput} (k : Bank) (c : AudioCtx) (h : f.mode = .held) :
    k.run l bk f c = (k, zeroFrame, c) := by
  unfold Bank.run; rw [h]

/-- A bank that plays: lane 1 over input A, and lane 2 over its source, of which lane 1 puts out `out`. -/
theorem Bank.run_playing (l : LineMemory) (bk : BankId) {f : FrameInput} (k : Bank) (c : AudioCtx) (h : f.mode ≠ .held)
    (out : List Int)
    (hout : out = if (k.lanes.one.enabled && k.lanes.one.runsAny f.mode) = true
      then (k.lanes.one.run l bk .one f (laneInput f .inA []) c).2.1 else laneInput f .inA []) :
    let one := k.lanes.one.run l bk .one f (laneInput f .inA []) c
    let two := k.lanes.two.run l bk .two f (laneInput f k.lanes.two.source out) one.2.2.2
    k.run l bk f c = ({ k with lanes := ⟨one.1, two.1⟩ }, List.zipWith Four.add one.2.2.1 two.2.2.1, two.2.2.2) := by
  subst hout
  obtain ⟨inA, inB, mode, point, gain0, gain1⟩ := f
  cases mode with
  | held => exact absurd rfl h
  | full => rfl
  | trails => rfl

theorem Bank.mapRunning_get (g : Stage → Stage) (k : Bank) (ln : LaneId) : (k.mapRunning g).lanes.get ln =
    if (k.lanes.get ln).enabled then (k.lanes.get ln).mapStages fun x => if x.runsIn k.runMode then g x else x
    else k.lanes.get ln := by
  cases ln <;> rfl

/-- Settles O30: by the equations of the stages' walk, of a lane and of a bank. -/
theorem lanesRunTheirStages : Obligations.LanesRunTheirStages := by
  refine ⟨fun f source lane1 => ⟨fun h => ?_, fun h => laneInput_trails h source lane1⟩, Stage.runsIn_iff,
    fun l k ln f x rest p cut signal c => ⟨rfl, rfl, runStages_passed l k ln f x rest p cut signal c,
      runStages_runs l k ln f x rest p cut signal c⟩,
    fun l bk ln f k input c => ⟨Lane.run_enabled l bk ln f input c, Lane.run_disabled l bk ln f input c⟩,
    fun l bk f k c => ⟨Bank.run_held l bk k c, fun out h runs stands => Bank.run_playing l bk k c h out ?_⟩,
    fun g k ln => ⟨rfl, fun h => ?_, fun h => ?_⟩, fun g x => rfl⟩
  · exact (laneInput_full h source lane1).trans (by cases source <;> rfl)
  · by_cases hr : k.lanes.one.enabled = true ∧ k.lanes.one.runsAny f.mode = true
    · rw [if_pos (by simp [hr])]
      exact runs ⟨hr.1, (Lane.runsAny_iff _ _).1 hr.2⟩
    · rw [if_neg (by simpa using hr)]
      exact stands fun ⟨he, hx⟩ => hr ⟨he, (Lane.runsAny_iff _ _).2 hx⟩
  · simp [Bank.mapRunning_get, h]
  · simp [Bank.mapRunning_get, h, Lane.mapStages]

/-! ### What a boundary's tempo and beats leave of a bank (R21, R85) -/

/-- Two banks that differ in nothing but their stages. -/
structure StagesOnly (b b' : Bank) : Prop where
  bank : b' = { b with lanes := b'.lanes }
  lane : ∀ ln, b'.lanes.get ln = { b.lanes.get ln with stages := (b'.lanes.get ln).stages }

namespace StagesOnly

theorem refl (b : Bank) : StagesOnly b b := ⟨rfl, fun _ => rfl⟩

theorem trans {b c d : Bank} (h : StagesOnly b c) (k : StagesOnly c d) : StagesOnly b d :=
  ⟨by rw [k.bank, h.bank], fun ln => by rw [k.lane, h.lane]⟩

theorem runMode {b c : Bank} (h : StagesOnly b c) : c.runMode = b.runMode := by rw [h.bank]

theorem enabled {b c : Bank} (h : StagesOnly b c) (ln : LaneId) : (c.lanes.get ln).enabled = (b.lanes.get ln).enabled := by
  rw [h.lane]

theorem mapStages (f : Stage → Stage) (b : Bank) : StagesOnly b (b.mapStages f) :=
  ⟨rfl, fun ln => by rw [Bank.mapStages_get]; rfl⟩

theorem mapRunning (g : Stage → Stage) (b : Bank) : StagesOnly b (b.mapRunning g) :=
  ⟨rfl, fun ln => by rw [Bank.mapRunning_get]; split <;> rfl⟩

theorem iterate {f : Bank → Bank} (h : ∀ b, StagesOnly b (f b)) (n : Nat) (b : Bank) :
    StagesOnly b (Machine.iterate f n b) := by
  induction n generalizing b with
  | zero => exact refl b
  | succ n ih => exact (h b).trans (ih (f b))

end StagesOnly

theorem Lane.stageAt_mapStages (f : Stage → Stage) (k : Lane) (p : Nat) :
    (k.mapStages f).stageAt p = (k.stageAt p).map f := by
  simp only [Lane.stageAt, Lane.mapStages, List.getD_eq_getElem?_getD, List.getElem?_map]
  cases k.stages[p]? <;> rfl

theorem Bank.stageAt_mapStages (f : Stage → Stage) (k : Bank) (ln : LaneId) (p : Nat) :
    (k.mapStages f).stageAt ln p = (k.stageAt ln p).map f := by
  rw [Bank.stageAt, Bank.mapStages_get, Lane.stageAt_mapStages, Bank.stageAt]

/-- A stage of a lane of a bank runs: its lane is enabled and the bank's mode runs it (R4). -/
def Bank.runs (k : Bank) (ln : LaneId) (x : Stage) : Bool := (k.lanes.get ln).enabled && x.runsIn k.runMode

theorem Bank.runs_iff (k : Bank) (ln : LaneId) (x : Stage) : k.runs ln x = true ↔
    (k.lanes.get ln).enabled = true ∧ (k.runMode = .full ∨ (k.runMode = .trails ∧ x.trail = true)) := by
  rw [Bank.runs, Bool.and_eq_true, Stage.runsIn_iff]

/-- Whether a stage runs rests on its trail flag, and on nothing that a change of stages moves. -/
theorem StagesOnly.runs {b c : Bank} (h : StagesOnly b c) (ln : LaneId) {x y : Stage} (hxy : y.trail = x.trail) :
    c.runs ln y = b.runs ln x := by
  unfold Bank.runs Stage.runsIn
  rw [h.enabled, h.runMode, hxy]

theorem Bank.stageAt_mapRunning (g : Stage → Stage) (k : Bank) (ln : LaneId) (p : Nat) :
    (k.mapRunning g).stageAt ln p = (k.stageAt ln p).map fun x => if k.runs ln x then g x else x := by
  rw [Bank.stageAt, Bank.mapRunning_get, Bank.stageAt]
  split
  · next h => simp [Lane.stageAt_mapStages, Bank.runs, h]
  · next h => simp [Bank.runs, h]

@[simp] theorem Stage.beat_trail (x : Stage) : x.beat.trail = x.trail := by unfold Stage.beat; split <;> rfl

@[simp] theorem Stage.rework_trail (tempo : Nat) (x : Stage) : (x.rework tempo).trail = x.trail := by
  unfold Stage.rework
  cases x.kind with
  | delay => dsimp only; split <;> rfl
  | _ => rfl

/-- Beats counted one after the other reach the stages that run, each as often. -/
theorem Bank.stageAt_beats (n : Nat) (k : Bank) (ln : LaneId) (p : Nat) :
    (iterate (Bank.mapRunning Stage.beat) n k).stageAt ln p =
      (k.stageAt ln p).map fun x => if k.runs ln x then Stage.beat^[n] x else x := by
  induction n generalizing k with
  | zero => simp [iterate]
  | succ n ih =>
    rw [iterate, ih, Bank.stageAt_mapRunning, Option.map_map]
    congr 1
    funext x
    have same := (StagesOnly.mapRunning Stage.beat k).runs ln (Stage.beat_trail x)
    have still := (StagesOnly.mapRunning Stage.beat k).runs ln (rfl : x.trail = x.trail)
    cases h : k.runs ln x <;> simp [h, same, still]

/-- What a noted tempo makes of a bank: each stage worked out anew, and the taps of those that run following. -/
def Bank.takeTempo (noted : Bool) (tempo : Nat) (k : Bank) : Bank :=
  if noted then (k.mapStages (Stage.rework tempo)).mapRunning Stage.followTap else k

theorem Bank.takeTempo_stagesOnly (noted : Bool) (tempo : Nat) (k : Bank) : StagesOnly k (k.takeTempo noted tempo) := by
  unfold Bank.takeTempo
  split
  · exact (StagesOnly.mapStages _ k).trans (StagesOnly.mapRunning _ _)
  · exact .refl k

theorem Bank.stageAt_takeTempo (noted : Bool) (tempo : Nat) (k : Bank) (ln : LaneId) (p : Nat) :
    (k.takeTempo noted tempo).stageAt ln p = (k.stageAt ln p).map fun x =>
      let y := if noted then x.rework tempo else x
      if noted && k.runs ln x then y.followTap else y := by
  cases noted with
  | false => simp [Bank.takeTempo]
  | true =>
    rw [Bank.takeTempo, if_pos rfl, Bank.stageAt_mapRunning, Bank.stageAt_mapStages, Option.map_map]
    congr 1
    funext x
    simp [(StagesOnly.mapStages (Stage.rework tempo) k).runs ln (Stage.rework_trail tempo x)]

theorem applyTempoAndBeats_get (s : State) (k : BankId) : (applyTempoAndBeats s).lane.banks.get k =
    iterate (Bank.mapRunning Stage.beat) s.lane.beats
      ((s.lane.banks.get k).takeTempo s.lane.tempoNoted s.lane.notedTempo) := by
  cases k <;> rfl

theorem applyTempoAndBeats_stagesOnly (s : State) (k : BankId) :
    StagesOnly (s.lane.banks.get k) ((applyTempoAndBeats s).lane.banks.get k) := by
  rw [applyTempoAndBeats_get]
  exact (Bank.takeTempo_stagesOnly ..).trans (.iterate (StagesOnly.mapRunning _) ..)

/-- A stage after the tempo and the beats of a boundary: the tempo before the beats (log 47). -/
theorem applyTempoAndBeats_stageAt (s : State) (k : BankId) (ln : LaneId) (p : Nat) :
    ((applyTempoAndBeats s).lane.banks.get k).stageAt ln p = ((s.lane.banks.get k).stageAt ln p).map fun x =>
      let y := if s.lane.tempoNoted then x.rework s.lane.notedTempo else x
      let z := if s.lane.tempoNoted && (s.lane.banks.get k).runs ln x then y.followTap else y
      if (s.lane.banks.get k).runs ln x then Stage.beat^[s.lane.beats] z else z := by
  rw [applyTempoAndBeats_get, Bank.stageAt_beats, Bank.stageAt_takeTempo, Option.map_map]
  congr 1
  funext x
  have trail : (let y := if s.lane.tempoNoted then x.rework s.lane.notedTempo else x
      if s.lane.tempoNoted && (s.lane.banks.get k).runs ln x then y.followTap else y).trail = x.trail := by
    dsimp only
    split <;> split <;> simp [Stage.followTap]
  simp only [Function.comp, (Bank.takeTempo_stagesOnly _ _ _).runs ln trail]

/-! ### Synced rates and times (R15-R17) -/

/-- The length in beats of a sync value's note (R15). -/
def syncBeats (n : Nat) : ℚ := [4, 2, 3 / 2, 1, 3 / 4, 1 / 2, 1 / 3, 1 / 4].getD (n - 1) 0

/-- The nearest whole number, half up. -/
def nearestNat (q : ℚ) : Nat := (q + 1 / 2).floor.toNat

theorem nearestNat_div (a : Nat) {b : Nat} (hb : 0 < b) : nearestNat (a / b) = roundDiv a b := by
  have e : (a / b + 1 / 2 : ℚ) = ((2 * a + b : Nat) : ℚ) / ((2 * b : Nat) : ℚ) := by
    have : (b : ℚ) ≠ 0 := by exact_mod_cast hb.ne'
    push_cast
    field_simp
  rw [nearestNat, e]
  exact congrArg Int.toNat (Rat.floor_natCast_div_natCast _ _)

/-- A quotient written as one of whole numbers. -/
theorem roundDiv_eq_nearestNat {q : ℚ} {a b : Nat} (hb : 0 < b) (h : q = a / b) : roundDiv a b = nearestNat q := by
  rw [h, nearestNat_div a hb]

theorem divisionOf_eq {sync : Nat} (h1 : 1 ≤ sync) (h8 : sync ≤ 8) : divisionOf sync = syncBeats sync := by
  interval_cases sync <;> norm_num [divisionOf, syncBeats]

theorem syncedRate_eq {sync : Nat} (tempo : Nat) (h1 : 1 ≤ sync) (h8 : sync ≤ 8) :
    syncedRate sync tempo = nearestNat (tempo / (6 * syncBeats sync)) := by
  interval_cases sync <;> refine roundDiv_eq_nearestNat (by decide) ?_ <;> norm_num [syncBeats] <;> ring

theorem syncedTime_eq {sync tempo : Nat} (ht : 0 < tempo) (h1 : 1 ≤ sync) (h8 : sync ≤ 8) :
    syncedTime sync tempo = nearestNat (600000 * syncBeats sync / tempo) := by
  interval_cases sync <;> refine roundDiv_eq_nearestNat ht ?_ <;> norm_num [syncBeats]

/-! ### What follows from a stage's targets -/

section
variable {x : Stage}

theorem Stage.rework_mod_own (tempo : Nat) (hk : x.kind = .mod) (h : (x.target 2).toNat = 0) :
    x.rework tempo = { x with rate := (x.target 1).toNat } := by
  simp [Stage.rework, hk, h]

theorem Stage.rework_mod_synced (tempo : Nat) (hk : x.kind = .mod) (h1 : 1 ≤ (x.target 2).toNat)
    (h8 : (x.target 2).toNat ≤ 8) :
    x.rework tempo = { x with rate := nearestNat (tempo / (6 * syncBeats (x.target 2).toNat)) } := by
  simp only [Stage.rework, hk]
  rw [if_neg (by omega), syncedRate_eq tempo h1 h8]

theorem Stage.rework_delay_own (tempo : Nat) (hk : x.kind = .delay) (h : (x.target 2).toNat = 0) :
    x.rework tempo = { x with tap := { x.tap with inUse := (x.target 1).toNat }, tempoClamped := false } := by
  simp [Stage.rework, hk, h]

theorem Stage.rework_delay_synced {tempo : Nat} (ht : 0 < tempo) (hk : x.kind = .delay)
    (h1 : 1 ≤ (x.target 2).toNat) (h8 : (x.target 2).toNat ≤ 8) :
    let time := nearestNat (600000 * syncBeats (x.target 2).toNat / tempo)
    x.rework tempo = { x with tap := { x.tap with inUse := min time (x.target 0).toNat },
                              tempoClamped := decide ((x.target 0).toNat < time) } := by
  simp only [Stage.rework, hk]
  rw [if_neg (by omega), syncedTime_eq ht h1 h8]

theorem Stage.rework_verb (tempo : Nat) (hk : x.kind = .verb) :
    x.rework tempo = { x with tap := { x.tap with inUse := (x.target 1).toNat } } := by
  simp [Stage.rework, hk]

theorem Stage.rework_other (tempo : Nat) (hm : x.kind ≠ .mod) (hd : x.kind ≠ .delay) (hv : x.kind ≠ .verb) :
    x.rework tempo = x := by
  unfold Stage.rework
  cases h : x.kind with
  | mod => exact absurd h hm
  | delay => exact absurd h hd
  | verb => exact absurd h hv
  | _ => rfl

theorem Stage.beat_other (hk : x.kind ≠ .mod) : x.beat = x := if_neg hk

theorem Stage.beat_own (hk : x.kind = .mod) (h : (x.target 2).toNat = 0) :
    x.beat = { x with beatCount := (x.beatCount + 1) % 12 } := by
  simp [Stage.beat, hk, h]

theorem Stage.beat_synced (hk : x.kind = .mod) (h1 : 1 ≤ (x.target 2).toNat) (h8 : (x.target 2).toNat ≤ 8) :
    let n := (x.beatCount + 1) % 12
    let q : ℚ := n / syncBeats (x.target 2).toNat
    x.beat = { x with beatCount := n, phase := q - q.floor } := by
  simp only [Stage.beat, if_pos hk, divisionOf_eq h1 h8]
  rw [if_neg (by omega)]

end

/-- Settles O32: by what the tempo and the beats leave of a stage, and by a stage's own tempo and beat. -/
theorem tempoAndBeatsReachStages : Obligations.TempoAndBeatsReachStages := by
  refine ⟨fun s => ⟨rfl, fun k ln => ⟨(applyTempoAndBeats_stagesOnly s k).bank, (applyTempoAndBeats_stagesOnly s k).lane ln,
      fun p => ⟨fun h => ?_, fun x h => ?_⟩⟩⟩,
    fun x tempo ht => ⟨fun hk => ⟨Stage.rework_mod_own tempo hk, Stage.rework_mod_synced tempo hk⟩,
      fun hk => ⟨Stage.rework_delay_own tempo hk, Stage.rework_delay_synced ht hk⟩, Stage.rework_verb tempo,
      Stage.rework_other tempo⟩,
    fun x => ⟨Stage.beat_other, Stage.beat_own, Stage.beat_synced⟩⟩
  · exact (applyTempoAndBeats_stageAt s k ln p).trans (congrArg _ h)
  · refine (applyTempoAndBeats_stageAt s k ln p).trans ((congrArg _ h).trans (congrArg some ?_))
    simp only [← Bank.runs_iff, Bool.and_eq_true, Stage.followTap]

end Sys2Proof.Machine
end

section
/-! What a frame moves (R4, R7, R9, R16, R19, R26, R28): parameters, ramps, taps, gains, and the outputs. -/

namespace Sys2Proof.Machine

/-! ### Parameters (R9) -/

theorem Param.now_eq (p : Param) : p.now = if p.left = 0 then (p.target : ℚ) else p.start := rfl

theorem Param.at_rest {p : Param} (h : p.left = 0) (i : Nat) : p.at i = p.target := if_pos h

theorem Param.mixAt_rest {p : Param} (h : p.left = 0) (i : Nat) : p.mixAt i = [(p.target, 1)] := if_pos h

theorem Param.at_moving {p : Param} (h : 0 < p.left) (i : Nat) :
    p.at i = p.start + (p.target - p.start) * (((i : ℚ) + 1) / (48 * p.left)) := by
  rw [Param.at, if_neg h.ne', mul_div_assoc]

theorem Param.mixAt_moving {p : Param} (h : 0 < p.left) (i : Nat) : p.mixAt i =
    addShare p.target (((i : ℚ) + 1) / (48 * p.left))
      (p.mix.map fun x => (x.1, x.2 * (1 - ((i : ℚ) + 1) / (48 * p.left)))) := if_neg h.ne'

theorem Param.advance_last {p : Param} (h : p.left ≤ 1) : p.advance = ⟨p.target, p.target, 0, []⟩ := if_pos h

/-- A parameter that goes on moving starts its next frame where its last sample stood. -/
theorem Param.advance_moving {p : Param} (h : 1 < p.left) :
    p.advance = ⟨p.at 47, p.target, p.left - 1, if p.mix = [] then [] else p.mixAt 47⟩ := by
  have h0 : (p.left : ℚ) ≠ 0 := by exact_mod_cast (by omega : p.left ≠ 0)
  have e : p.start + (p.target - p.start) / p.left = p.at 47 := by
    rw [Param.at_moving (by omega)]
    push_cast
    field_simp
    ring
  rw [Param.advance, if_neg (by omega), e]

/-- A share added to a mix adds to the sum of its shares. -/
theorem addShare_sum (v : Int) (w : ℚ) (l : List (Int × ℚ)) :
    ((addShare v w l).map Prod.snd).sum = w + (l.map Prod.snd).sum := by
  induction l with
  | nil => simp [addShare]
  | cons x l ih =>
    unfold addShare
    split
    · simp only [List.map_cons, List.sum_cons]; ring
    · simp only [List.map_cons, List.sum_cons, ih]; ring

theorem scaled_sum (a : ℚ) (l : List (Int × ℚ)) :
    ((l.map fun x => (x.1, x.2 * a)).map Prod.snd).sum = (l.map Prod.snd).sum * a := by
  rw [List.map_map]
  exact List.sum_map_mul_right ..

/-- The shares of a crossfade add to 1 at every sample. -/
theorem Param.mixAt_sum {p : Param} (h : 0 < p.left) (hm : (p.mix.map Prod.snd).sum = 1) (i : Nat) :
    ((p.mixAt i).map Prod.snd).sum = 1 := by
  rw [Param.mixAt_moving h, addShare_sum, scaled_sum, hm]
  ring

theorem Param.mixAt_two {p : Param} {old : Int} (h : 0 < p.left) (hm : p.mix = [(old, 1)]) (ne : old ≠ p.target)
    (i : Nat) : p.mixAt i =
      [(old, 1 - ((i : ℚ) + 1) / (48 * p.left)), (p.target, ((i : ℚ) + 1) / (48 * p.left))] := by
  simp [Param.mixAt_moving h, hm, addShare, ne]

/-! ### Gates and compressors at a boundary (R12, R13) -/

section
variable {x : Stage}

/-- A peak at or above the threshold opens the gate from every state. -/
theorem Stage.gateStep_reached (h : peakReaches x.peak (x.target 0) = true) :
    x.gateStep = { x with gate := .opened, gateGain := 0 } := by
  unfold Stage.gateStep
  cases x.gate <;> simp only [h, if_true]

theorem Stage.gateStep_closed (h : peakReaches x.peak (x.target 0) = false) (hg : x.gate = .closed) :
    x.gateStep = { x with gateGain := x.target 3 } := by
  simp [Stage.gateStep, h, hg]

theorem Stage.gateStep_opened (h : peakReaches x.peak (x.target 0) = false) (hg : x.gate = .opened) :
    x.gateStep = { x with gate := .holding, gateHold := (x.target 1).toNat, gateGain := 0 } := by
  simp [Stage.gateStep, h, hg]

theorem Stage.gateStep_holding (h : peakReaches x.peak (x.target 0) = false) (hg : x.gate = .holding)
    (hh : 1 < x.gateHold) : x.gateStep = { x with gateHold := x.gateHold - 1, gateGain := 0 } := by
  simp [Stage.gateStep, h, hg, Nat.not_le.2 hh]

/-- The gain a falling gate's frame ends at (R12). -/
def Stage.fallen (x : Stage) : ℚ := max (x.target 3 : ℚ) (x.gateGain - (0 - (x.target 3 : ℚ)) / x.target 2)

theorem Stage.gateStep_held (h : peakReaches x.peak (x.target 0) = false) (hg : x.gate = .holding)
    (hh : x.gateHold ≤ 1) : x.gateStep = { x with
      gate := if x.fallen = x.target 3 then .closed else .releasing, gateGain := x.fallen, gateHold := 0 } := by
  simp only [Stage.gateStep, h, hg, hh, if_true, Bool.false_eq_true, if_false]
  rfl

theorem Stage.gateStep_releasing (h : peakReaches x.peak (x.target 0) = false) (hg : x.gate = .releasing) :
    x.gateStep = { x with
      gate := if x.fallen = x.target 3 then .closed else .releasing, gateGain := x.fallen } := by
  simp only [Stage.gateStep, h, hg, Bool.false_eq_true, if_false]
  rfl

end

theorem peakReaches_iff (peak : Nat) (v : Int) :
    peakReaches peak v = true ↔ 0 < peak ∧ (v : ℚ) ≤ Config.levelOf peak := by
  simp [peakReaches]

/-- A running peak: it never falls, no magnitude passes it, and it is the first value or one of the magnitudes. -/
theorem foldl_peak (xs : List Int) (m : Nat) :
    let peak := xs.foldl (fun m x => max m x.natAbs) m
    m ≤ peak ∧ (∀ x ∈ xs, x.natAbs ≤ peak) ∧ (peak = m ∨ ∃ x ∈ xs, peak = x.natAbs) := by
  induction xs generalizing m with
  | nil => simp
  | cons y ys ih =>
    obtain ⟨low, above, one⟩ := ih (max m y.natAbs)
    refine ⟨(le_max_left ..).trans low, ?_, ?_⟩
    · rintro x (_ | ⟨_, hx⟩)
      · exact (le_max_right ..).trans low
      · exact above x hx
    · rcases one with h | ⟨x, hx, h⟩
      · rcases max_choice m y.natAbs with e | e
        · exact .inl (h.trans e)
        · exact .inr ⟨y, List.mem_cons_self, h.trans e⟩
      · exact .inr ⟨x, List.mem_cons_of_mem _ hx, h⟩

/-- A frame's peak is at or above each sample's magnitude, and is one of them. -/
theorem peakOf_spec (xs : List Int) :
    (∀ x ∈ xs, x.natAbs ≤ peakOf xs) ∧ (xs ≠ [] → ∃ x ∈ xs, peakOf xs = x.natAbs) := by
  obtain ⟨-, above, one⟩ := foldl_peak xs 0
  refine ⟨above, fun h => ?_⟩
  rcases one with zero | found
  · obtain ⟨x, hx⟩ := List.exists_mem_of_ne_nil xs h
    have := above x hx
    exact ⟨x, hx, by unfold peakOf; omega⟩
  · exact found

theorem gateGainAt_stands (falls : Bool) (rate g : ℚ) (i : Nat) : gateGainAt falls rate g g i = gateLinear g := if_pos rfl

theorem gateGainAt_falls (rate : ℚ) {g0 g1 : ℚ} (h : g1 < g0) (i : Nat) :
    gateGainAt true rate g0 g1 i = gateLinear (max g1 (g0 - rate * (i + 1) / 48)) := by
  rw [gateGainAt, if_neg h.ne', if_pos ⟨rfl, h⟩]

/-- A gate that does not fall ends its frame at the gain it moves to. -/
theorem gateGainAt_end {falls : Bool} (rate : ℚ) {g0 g1 : ℚ} (h : falls = false ∨ g0 < g1) :
    gateGainAt falls rate g0 g1 47 = gateLinear g1 := by
  have no : ¬ (falls = true ∧ g1 < g0) := by
    rintro ⟨hf, hg⟩
    rcases h with h | h
    · simp [h] at hf
    · exact lt_asymm h hg
  unfold gateGainAt
  rw [if_neg no]
  split <;> rfl

theorem Stage.compStep_eq (x : Stage) :
    let ratio : ℚ := x.target 1
    let level := Config.levelOf x.peak
    let wanted : ℚ := if 0 < x.peak ∧ (x.target 0 : ℚ) < level then (level - x.target 0) * (ratio - 10) / ratio else 0
    let r := x.reduction + (wanted - x.reduction) / (if x.reduction < wanted then x.target 2 else x.target 3)
    x.compStep = { x with reduction := r, compGain := (x.param 4).at 47 - r } := by
  unfold Stage.compStep
  rcases Nat.eq_zero_or_pos x.peak with h | h
  · simp [h]
  · simp [h, h.ne']

/-! ### The lines of CAB, DELAY and VERB (R14, R16, R18) -/

theorem convolve_eq (taps recent : List Int) :
    convolve taps recent = ((List.zipWith (fun t x => t * x) taps recent).sum : Int) / 8388608 := by
  rw [convolve, List.sum_eq_foldl]

/-- The dry share of a DELAY or VERB: a trail stage's bypass cuts it (R19). -/
theorem cut_eq (x : Stage) (i : Nat) : (if x.trail then 1 - (x.rampAt i : ℚ) / 240 else 1) =
    1 - (if x.trail = true then (x.rampAt i : ℚ) / 240 else 0) := by
  cases x.trail <;> simp

theorem delayRun_cons (blocks : List Nat) (x : Stage) (i wp : Nat) (m : List (Nat × Int)) (s : Int) (rest : List Int) :
    let len := 960 * blocks.length
    let delayed := tapRead (fun k => sampleGet m (lineIndex blocks ((wp + len - k % (len + 1)) % len))) x.tap i
    let b : ℚ := if x.trail = true then x.rampAt i / 240 else 0
    let r := delayRun blocks x (i + 1) ((wp + 1) % len)
      (samplePut m (lineIndex blocks wp) (rnd (s * (1 - b) + delayed * x.value 3 i / 1000))) rest
    delayRun blocks x i wp m (s :: rest) =
      (rnd (s * ((1000 - x.value 4 i) / 1000 * (1 - b) + b) + delayed * x.value 4 i / 1000) :: r.1, r.2) := by
  intro len delayed b r
  have hb : 1 - (1 - b) = b := sub_sub_cancel 1 b
  rw [delayRun]
  simp only [cut_eq]
  simp only [r, b, hb]
  rfl

theorem decayGain_eq (decay : ℚ) : decayGain decay = gainOf (-360000 / decay) := by norm_num [decayGain]

theorem verbRun_cons (blocks : List Nat) (x : Stage) (c : AudioCtx) (i wp : Nat) (m : List (Nat × Int)) (s : Int)
    (rest : List Int) :
    let b : ℚ := if x.trail = true then x.rampAt i / 240 else 0
    let entering := rnd (s * (1 - b))
    let here := wp % 9600
    let fed := tapRead (fun k => if k = 0 then entering
      else sampleGet m (lineIndex blocks ((here + 9600 - k % 9601) % 9600))) x.tap i
    let place := lineIndex blocks (9600 + wp)
    let oldest : ℚ := sampleGet m place * gainOf (-360000 / x.value 0 i)
    let tail := Config.tail (x.value 2 i) fed oldest (Config.freeSample (c.fresh + 2 * i))
    let network := Config.network (x.value 2 i) fed oldest (Config.freeSample (c.fresh + (2 * i + 1)))
    let r := verbRun blocks x c (i + 1) ((wp + 1) % 28800)
      (samplePut (samplePut m (lineIndex blocks here) entering) place (rnd network)) rest
    verbRun blocks x c i wp m (s :: rest) =
      (rnd (s * ((1000 - x.value 3 i) / 1000 * (1 - b) + b) + tail * x.value 3 i / 1000) :: r.1, r.2) := by
  intro b entering here fed place oldest tail network r
  have hb : 1 - (1 - b) = b := sub_sub_cancel 1 b
  rw [verbRun]
  simp only [cut_eq, decayGain_eq]
  simp only [r, tail, network, oldest, fed, entering, b, hb]
  rfl

/-! ### A stage's frame: the bypass ramp and the dry output (R19) -/

/-- What a running stage's processed samples become: themselves with the trail flag, and otherwise blended with the input
by the bypass ramp. -/
def Stage.blend (x : Stage) (input wet : List Int) : List Int :=
  if x.trail = true then wet
  else (input.zip wet).zipIdx.map fun z =>
    rnd (z.1.2 * (1 - (x.rampAt z.2 : ℚ) / 240) + z.1.1 * ((x.rampAt z.2 : ℚ) / 240))

/-- A stage as its frame leaves it: every parameter a frame on, and the bypass ramp too. -/
def Stage.onward (x y : Stage) : Stage := { y with params := x.params.map Param.advance, ramp := x.rampAt 47 }

@[simp] theorem Stage.gateStep_params (x : Stage) : x.gateStep.params = x.params := by
  unfold Stage.gateStep
  dsimp only
  cases x.gate <;> dsimp only <;> (repeat' split) <;> rfl

theorem Stage.onward_gate (x : Stage) (peak : Nat) : x.onward { x.gateStep with peak := peak } =
    { x.gateStep with peak := peak, params := x.gateStep.params.map Param.advance, ramp := x.rampAt 47 } := by
  rw [gateStep_params]; rfl

/-- Both ways of writing the share of the input in the output of a bypassed stage. -/
theorem Stage.blend_eq (x : Stage) (input wet : List Int) : (if x.trail then wet
    else (input.zip wet).zipIdx.map fun y =>
      rnd (y.1.2 * (1 - (x.rampAt y.2 : ℚ) / 240) + y.1.1 * (x.rampAt y.2 : ℚ) / 240)) = x.blend input wet := by
  simp only [Stage.blend, mul_div_assoc]

section
variable (l : LineMemory) (blocks : List Nat) {x : Stage} (input : List Int) (c : AudioCtx)

theorem Stage.run_trim (hk : x.kind = .trim) : x.run l blocks input c =
    (x.onward x, x.blend input (mapSamples (fun i s => rnd (s * gainOf (x.value 0 i) * (1 - 2 * x.value 1 i))) input),
      c) := by
  simp only [Stage.run, hk, Stage.blend_eq, Stage.onward]

theorem Stage.run_gate (hk : x.kind = .gate) : x.run l blocks input c =
    (x.onward { x.gateStep with peak := peakOf input },
      x.blend input (mapSamples (fun i s => rnd (s * gateGainAt (x.gateStep.fallsFrom x.gate) x.gateStep.fallRate
        x.gateGain x.gateStep.gateGain i)) input), c) := by
  simp only [Stage.run, hk, Stage.blend_eq, Stage.onward_gate]

theorem Stage.run_comp (hk : x.kind = .comp) : x.run l blocks input c =
    (x.onward { x.compStep with peak := peakOf input },
      x.blend input (mapSamples (fun i s => rnd (s * gainOf (across x.compGain x.compStep.compGain i))) input), c) := by
  simp only [Stage.run, hk, Stage.blend_eq]
  rfl

theorem Stage.run_drive (hk : x.kind = .drive) : x.run l blocks input c =
    (x.onward x, x.blend input (mapSamples (fun i s => rnd (driveAt x c i s)) input), ⟨c.samples, c.fresh + 384⟩) := by
  simp only [Stage.run, hk, Stage.blend_eq, Stage.onward]

theorem Stage.run_amp (hk : x.kind = .amp) : x.run l blocks input c =
    (x.onward x, x.blend input (mapSamples (fun i s => rnd (ampAt x c i s)) input), ⟨c.samples, c.fresh + 48⟩) := by
  simp only [Stage.run, hk, Stage.blend_eq, Stage.onward]

theorem Stage.run_cab (hk : x.kind = .cab) :
    let set := l.blockList (.impulse (x.target 0).toNat)
    let q := cabRun ((List.range x.tapsInUse).map fun k => sampleGet c.samples (lineIndex set k)) x 0 x.history input
    x.run l blocks input c = (x.onward { x with history := q.2 }, x.blend input q.1, c) := by
  simp only [Stage.run, hk, Stage.blend_eq]
  rfl

theorem Stage.run_eq (hk : x.kind = .eq) : x.run l blocks input c =
    (x.onward x, x.blend input (mapSamples (fun i s => rnd (eqAt x c i s)) input), ⟨c.samples, c.fresh + 240⟩) := by
  simp only [Stage.run, hk, Stage.blend_eq, Stage.onward]

theorem Stage.run_mod (hk : x.kind = .mod) : x.run l blocks input c =
    (x.onward { x with phase := x.phaseAt 47 },
      x.blend input (mapSamples (fun i s => rnd (mixed (x.value 4 i) s
        (Config.modulated (x.target 0) (x.value 3 i) (x.phaseAt i) s (freeAt c i)))) input),
      ⟨c.samples, c.fresh + 48⟩) := by
  simp only [Stage.run, hk, Stage.blend_eq]
  rfl

theorem Stage.run_delay (hk : x.kind = .delay) :
    let r := delayRun blocks x 0 x.writePos c.samples input
    x.run l blocks input c = (x.onward { x with writePos := r.2.1, tap := x.tap.advance }, x.blend input r.1,
      ⟨r.2.2, c.fresh⟩) := by
  simp only [Stage.run, hk, Stage.blend_eq]
  rfl

theorem Stage.run_verb (hk : x.kind = .verb) :
    let r := verbRun blocks x c 0 x.writePos c.samples input
    x.run l blocks input c = (x.onward { x with writePos := r.2.1, tap := x.tap.advance }, x.blend input r.1,
      ⟨r.2.2, c.fresh + 96⟩) := by
  simp only [Stage.run, hk, Stage.blend_eq]
  rfl

end

/-! ### The sounds of DRIVE and EQ (R11) -/

theorem Param.standsAt_iff (p : Param) (v : Int) : p.standsAt v = true ↔ p.now = v ∧ p.target = v := by
  simp [Param.standsAt]

theorem driveWith_eq (x : Stage) (c : AudioCtx) (i : Nat) (s : Int) (curve : Nat) :
    driveWith x c i s curve =
      if (x.param 2).now = 500 ∧ (x.param 2).target = 500
      then Config.clip curve (s * gainOf (x.value 0 i * 3 / 5))
      else Config.tilt (x.value 2 i) (Config.clip curve (s * gainOf (x.value 0 i * 3 / 5))) (freeAt c (8 * i + curve)) := by
  simp only [driveWith, Param.standsAt_iff, Int.cast_ofNat]

/-- The curves side by side are a sum by their shares. -/
theorem driveAt_eq (x : Stage) (c : AudioCtx) (i : Nat) (s : Int) : driveAt x c i s =
    (((x.param 1).mixAt i).map fun z => z.2 * driveWith x c i s z.1.toNat).sum * gainOf (x.value 3 i) := by
  rw [driveAt, List.sum_eq_foldl, List.foldl_map]

theorem eqBand_eq (x : Stage) (c : AudioCtx) (i : Nat) (y : ℚ) (n : Nat) : eqBand x c i y n =
    if (x.param n).now = 0 ∧ (x.param n).target = 0 then y
    else Config.peaking ([100, 400, 1000, 2500, 6000].getD n 0) (x.value n i) y (freeAt c (5 * i + n)) := by
  simp only [eqBand, Param.standsAt_iff, Int.cast_zero]
  rfl

theorem Stage.fallsFrom_eq (x : Stage) (before : GateState) : x.fallsFrom before =
    decide ((before = .holding ∨ before = .releasing) ∧ (x.gate = .releasing ∨ x.gate = .closed)) := by
  cases before <;> cases h : x.gate <;> simp [Stage.fallsFrom, h]

/-- Settles O33: by the rows of R12 and R13, the equations of the lines, and each kind's frame. -/
theorem stageKindsRunAFrame : Obligations.StageKindsRunAFrame := by
  refine ⟨fun x i j => ⟨rfl, rfl, rfl, rfl⟩, peakReaches_iff, peakOf_spec, fun x => ⟨Stage.gateStep_reached, fun h => ?_⟩,
    fun g => rfl, fun falls rate g0 g1 i => ⟨?_, ?_, gateGainAt_end rate⟩, Stage.compStep_eq, convolve_eq,
    fun taps x i history s rest => ⟨rfl, rfl⟩,
    fun blocks x i wp m s rest => ⟨rfl, delayRun_cons blocks x i wp m s rest⟩,
    fun blocks x c i wp m s rest => ⟨rfl, verbRun_cons blocks x c i wp m s rest⟩,
    fun l blocks x input c => ⟨Stage.run_trim l blocks input c, fun hk => ?_, Stage.run_comp l blocks input c,
      fun hk => ?_, Stage.run_amp l blocks input c, Stage.run_cab l blocks input c, fun hk => ?_,
      Stage.run_mod l blocks input c, Stage.run_delay l blocks input c, Stage.run_verb l blocks input c⟩⟩
  · have h : peakReaches x.peak (x.target 0) = false := by simpa using h
    exact ⟨Stage.gateStep_closed h, Stage.gateStep_opened h, Stage.gateStep_holding h, Stage.gateStep_held h,
      Stage.gateStep_releasing h⟩
  · rintro rfl
    exact gateGainAt_stands falls rate g0 i
  · rintro rfl h
    exact gateGainAt_falls rate h i
  · refine (Stage.run_gate l blocks input c hk).trans ?_
    simp only [Stage.fallsFrom_eq]
    rfl
  · refine (Stage.run_drive l blocks input c hk).trans ?_
    simp only [driveAt_eq, driveWith_eq]
    rfl
  · refine (Stage.run_eq l blocks input c hk).trans ?_
    simp only [eqAt, funext₂ (eqBand_eq x c _)]
    rfl

end Sys2Proof.Machine
end

section
/-! What a frame moves: the stage's ramp and dry output, the gains, a lane's contribution, a bank's gain, the outputs
(R4, R7, R16, R19, R26, R28, R70, R73, R74). -/

namespace Sys2Proof.Machine

/-! ### The bypass ramp and the dry output (R19) -/

theorem Stage.run_params (l : LineMemory) (blocks : List Nat) (x : Stage) (input : List Int) (c : AudioCtx) :
    (x.run l blocks input c).1.params = x.params.map Param.advance := by
  unfold Stage.run
  cases x.kind with
  | gate => exact congrArg _ (Stage.gateStep_params x)
  | _ => rfl

/-- Every stage's output is its processed samples, blended with its input. -/
theorem Stage.run_out (l : LineMemory) (blocks : List Nat) (x : Stage) (input : List Int) (c : AudioCtx) :
    ∃ wet, (x.run l blocks input c).2.1 = x.blend input wet :=
  ⟨_, Stage.blend_eq x input _⟩

theorem Stage.blend_length {x : Stage} (input wet : List Int) (ht : x.trail = false) :
    (x.blend input wet).length = min input.length wet.length := by
  simp [Stage.blend, ht]

/-- A bypassed stage at the end of its ramp gives the input back. -/
theorem Stage.blend_dry {x : Stage} {input wet : List Int} (hb : x.bypass = true) (hr : x.ramp = 240)
    (ht : x.trail = false) (hl : input.length ≤ wet.length) : x.blend input wet = input := by
  have ramp : ∀ i, x.rampAt i = 240 := fun i => by simp [Stage.rampAt, hb, hr]
  have e : x.blend input wet = (input.zip wet).map Prod.fst := by
    simp only [Stage.blend, ht, ramp]
    simp [List.ext_getElem_iff]
  rw [e, List.map_fst_zip hl]

/-- An engaged stage at the end of its ramp gives its processed samples. -/
theorem Stage.blend_wet {x : Stage} {input wet : List Int} (hb : x.bypass = false) (hr : x.ramp = 0)
    (hl : wet.length ≤ input.length) : x.blend input wet = wet := by
  have ramp : ∀ i, x.rampAt i = 0 := fun i => by simp [Stage.rampAt, hb, hr]
  have e : (input.zip wet).zipIdx.map (fun z =>
      rnd (z.1.2 * (1 - (x.rampAt z.2 : ℚ) / 240) + z.1.1 * ((x.rampAt z.2 : ℚ) / 240))) =
      (input.zip wet).map Prod.snd := by
    simp only [ramp]
    simp [List.ext_getElem_iff]
  rw [Stage.blend, e, List.map_snd_zip hl, ite_self]

theorem Stage.run_bypassed (l : LineMemory) (blocks : List Nat) {x : Stage} (input : List Int) (c : AudioCtx)
    (hb : x.bypass = true) (hr : x.ramp = 240) (ht : x.trail = false) : (x.run l blocks input c).2.1 = input := by
  obtain ⟨wet, h⟩ := Stage.run_out l blocks x input c
  have length := Stage.run_length l blocks x input c
  rw [h, Stage.blend_length input wet ht] at length
  rw [h, Stage.blend_dry hb hr ht (by omega)]

/-! ### Gains (R7) -/

/-- A gain of whole tens of dB is exact. -/
theorem gainOf_whole (n : ℤ) : gainOf (200 * n) = 10 ^ n := by
  have e : (200 * n : ℚ) / 200 = n := by ring
  have f : (n : ℚ).floor = n := Rat.floor_intCast n
  simp [gainOf, e, f, tenTo_eq_zpow]

theorem panLeftOf_ends : panLeftOf (-100) = 1 ∧ panLeftOf 100 = 0 := ⟨if_pos rfl, by simp [panLeftOf]⟩

/-! ### A lane's contribution (R4, R7) -/

theorem Lane.place_eq (k : Lane) (s : Int) :
    let x : ℚ := s * k.level.elim 0 fun v => gainOf v
    let a := x * panLeftOf k.pan
    let b := x * panRightOf k.pan
    k.place s = (match k.assign with
      | .main => (a, b, 0, 0)
      | .aux => (0, 0, a, b)
      | .both => (a, b, a, b)) := by
  unfold Lane.place
  cases k.level <;> cases k.assign <;> simp

theorem Lane.contribution_out {k : Lane} {f : FrameInput} (sig : List Int)
    (h : f.fadePoint = .laneOut ∨ k.hasTrail = false) :
    k.contribution f sig = sig.zipIdx.map fun y => Four.scale (f.gainAt y.2) (k.place y.1) := by
  have : (f.fadePoint == .laneOut || !k.hasTrail) = true := by simpa using h
  simp only [Lane.contribution, this, if_true]

theorem Lane.contribution_trail {k : Lane} {f : FrameInput} (sig : List Int) (hf : f.fadePoint = .trailInput)
    (ht : k.hasTrail = true) : k.contribution f sig = sig.map k.place := by
  simp [Lane.contribution, hf, ht, List.ext_getElem_iff]

/-! ### A bank's gain by its state (R70, R73, R74) -/

section
variable {s : State} {k : BankId}

theorem bankPlay_silent (h : (s.bankCtl k).state = .empty ∨ (s.bankCtl k).state = .loading ∨ (s.bankCtl k).state = .ready) :
    s.bankPlay k = ⟨.held, .laneOut, 0⟩ := by
  rcases h with h | h | h <;> simp only [State.bankPlay, h]

theorem bankPlay_trailing (h : (s.bankCtl k).state = .trailing) : s.bankPlay k = ⟨.trails, .laneOut, 1000⟩ := by
  simp only [State.bankPlay, h]

theorem bankPlay_cutting (h : (s.bankCtl k).state = .cutting) :
    s.bankPlay k = ⟨.trails, .laneOut, 1000 - 1000 * (s.frames + 1 - (s.bankCtl k).cutFrom) / 16⟩ := by
  simp only [State.bankPlay, h]

theorem bankPlay_outgoing {f : Fade} (h : (s.bankCtl k).state = .outgoing) (hf : s.scene.fade = some f) :
    s.bankPlay k = ⟨.full, if f.trailsKept then .trailInput else .laneOut, 1000 - 1000 * (s.frames - f.swapAt + 1) / f.f⟩ := by
  simp only [State.bankPlay, h, hf]

theorem bankPlay_live_unfaded (h : (s.bankCtl k).state = .live) (hf : s.scene.fade = none) :
    s.bankPlay k = ⟨.full, .laneOut, s.liveGain s.frames⟩ := by
  simp [State.bankPlay, h, hf]

theorem bankPlay_live_fading {f : Fade} (h : (s.bankCtl k).state = .live) (hf : s.scene.fade = some f) :
    s.bankPlay k = ⟨if f.heldBack then .held else .full, .laneOut, s.liveGain s.frames⟩ := by
  simp [State.bankPlay, h, hf]

theorem liveGain_plain (n : Nat) (hf : s.scene.fade = none) (h : s.scene.state ≠ .leanEmptying) :
    s.liveGain n = 1000 := by
  unfold State.liveGain
  rw [hf]
  cases hs : s.scene.state with
  | leanEmptying => exact absurd hs h
  | _ => rfl

theorem liveGain_lean {l : LeanFade} (n : Nat) (h : s.scene.state = .leanEmptying) (hl : s.scene.lean = some l) :
    s.liveGain n = if n < l.first then 1000 else 1000 - 1000 * (n - l.first + 1) / l.f := by
  unfold State.liveGain; rw [h, hl]

theorem liveGain_fading {f : Fade} (n : Nat) (h : s.scene.state = .fading) (hf : s.scene.fade = some f) :
    s.liveGain n = if f.heldBack then 0
      else
        let from' := if f.oldBank = none ∨ f.mode = .blend then f.swapAt else f.swapAt + f.f + f.g
        min 1000 (1000 * (n - from' + 1) / f.f) := by
  unfold State.liveGain; rw [h, hf]

end

/-! ### The outputs of a frame (R26, R28) -/

/-- Output sample `i` by the ramp's count at it. -/
theorem outputFrame_get (r : MuteRamp) (count : Nat) {xs ys : List Four} {i : Nat} {x y : Four} (hx : xs[i]? = some x)
    (hy : ys[i]? = some y) : (outputFrame true r count (List.zipWith Four.add xs ys))[i]? =
      some (outSample (rampCountAt r count i) (Four.add x y)) := by
  have h : (List.zipWith Four.add xs ys)[i]? = some (Four.add x y) := by
    rw [List.getElem?_zipWith, hx, hy]
  simp [outputFrame, h]

theorem outputFrame_length (r : MuteRamp) (count : Nat) {sum : List Four} (h : sum.length = 48) :
    (outputFrame true r count sum).length = 48 := by
  simp [outputFrame, h]

theorem playFrame_output_length {input : List (Sample × Sample)} (pa pb : BankPlay) {s : State}
    (hlive : s.liveBank.isSome = true) (hi : input.length = 48) : (playFrame input pa pb s).lane.output.length = 48 := by
  have ha : ∀ k p, (frameInput input k p).inA.length = 48 := fun k p => by simp [frameInput, hi]
  have hb : ∀ k p, (frameInput input k p).inB.length = 48 := fun k p => by simp [frameInput, hi]
  simp only [playFrame, hlive]
  apply outputFrame_length
  rw [List.length_zipWith, Bank.run_length _ _ _ _ (ha ..) (hb ..), Bank.run_length _ _ _ _ (ha ..) (hb ..)]
  rfl

/-- Settles O29: by what a frame does to a parameter, a stage, a tap and a gain, and by its outputs. -/
theorem frameMovesValuesAndGains : Obligations.FrameMovesValuesAndGains := by
  refine ⟨fun p v => ⟨rfl, rfl, rfl, rfl, rfl, fun h i => ⟨Param.at_rest h i, Param.mixAt_rest h i⟩, Param.advance_last,
      Param.at_moving, Param.advance_moving, Param.mixAt_sum, fun old => Param.mixAt_two⟩,
    fun l blocks x input c => ⟨fun i => rfl, rfl, Stage.run_params l blocks x input c, Stage.run_bypassed l blocks input c,
      fun hk hb hr _ => ?_⟩,
    fun read t i => ⟨rfl, fun h => ?_, fun f h => ?_⟩, gainOf_close, gainOf_whole,
    fun p h0 h1 => ⟨panLeftOf_close h0 h1, panRightOf_close h0 h1⟩, ⟨panLeftOf_ends.1, panLeftOf_ends.2, fun p => rfl⟩,
    fun x => rfl,
    fun k f sig s => ⟨?_, Lane.contribution_out sig, Lane.contribution_trail sig, fun i => rfl⟩,
    fun s k => ⟨bankPlay_silent, bankPlay_trailing, bankPlay_cutting, fun f => bankPlay_outgoing, fun h hf =>
      ⟨fun hs => ?_, fun l hs hl => ?_⟩, fun f h hs hf => ⟨fun held => ?_, fun free => ?_⟩⟩,
    fun input pa pb s => ⟨rfl, fun h => ?_, fun h hi => ?_, fun i x y h hx hy => ?_, fun k p => rfl⟩, fun count x => rfl⟩
  · rw [Stage.run_trim l blocks input c hk]
    exact Stage.blend_wet hb hr (by simp)
  · unfold tapRead; rw [h]
  · unfold tapRead; rw [h]
  · exact (Lane.place_eq k s).trans (by cases k.assign <;> rfl)
  · rw [bankPlay_live_unfaded h hf, liveGain_plain _ hf hs]
  · rw [bankPlay_live_unfaded h hf, liveGain_lean _ hs hl]
  · simp [bankPlay_live_fading h hf, liveGain_fading _ hs hf, held]
  · simp [bankPlay_live_fading h hf, liveGain_fading _ hs hf, free]
  · simp only [playFrame, h]
    exact outputFrame_of_not_live _ _ _
  · exact playFrame_output_length pa pb (Option.isSome_iff_ne_none.2 h) hi
  · simp only [playFrame, Option.isSome_iff_ne_none.2 h]
    refine (outputFrame_get _ _ hx hy).trans ?_
    cases s.lane.ramp <;> rfl

end Sys2Proof.Machine
end

section
/-! Fill, prepare and release (R2, R3, R5, R20), and the table of stages and parameters (R9, R10). -/

namespace Sys2Proof.Machine

/-! ### Fill (R3, R20) -/

theorem Lane.cost_eq (k : Lane) : k.cost =
    if k.enabled = true then 20 + (k.stages.map fun y => y.elim 0 fun y => y.kind.cost y.tapsInUse).sum else 0 := by
  have e : (fun (y : Option Stage) => match y with | some x => x.kind.cost x.tapsInUse | none => 0) =
      fun y => y.elim 0 fun y => y.kind.cost y.tapsInUse := by
    funext y; cases y <;> rfl
  rw [← e] <;> rfl

theorem Lane.trailCost_eq (k : Lane) : k.trailCost =
    (k.stages.map fun y => y.elim 0 fun y => if y.trail = true then y.kind.cost y.tapsInUse else 0).sum := by
  have e : (fun (y : Option Stage) =>
      match y with | some x => if x.trail then x.kind.cost x.tapsInUse else 0 | none => 0) =
      fun y => y.elim 0 fun y => if y.trail = true then y.kind.cost y.tapsInUse else 0 := by
    funext y; cases y <;> rfl
  rw [← e] <;> rfl

section
variable (ln : LaneId) (cabs : List CabAnswer) {r : LaneRecord}

theorem LaneRecord.fill_length (r : LaneRecord) : (r.fill ln cabs).stages.length = 12 := by simp [LaneRecord.fill]

theorem LaneRecord.fill_disabled (h : r.enabled = false) (p : Nat) : (r.fill ln cabs).stageAt p = none := by
  have none : (r.fill ln cabs).stages = List.replicate 12 none := by
    simp only [LaneRecord.fill, h, Bool.false_eq_true, if_false]
    rfl
  rw [Lane.stageAt, none, List.getD_eq_getElem?_getD, List.getElem?_getD_replicate_default_eq]

/-- The stage a record gives at a position, with the taps of the allocation's answer for it. -/
theorem LaneRecord.fill_stageAt (h : r.enabled = true) {p : Nat} (hp : p < 12) : (r.fill ln cabs).stageAt p =
    (r.stages.find? fun z => z.position == p).map fun z =>
      z.fill (cabs.find? fun c => c.lane == ln && c.position == p) := by
  simp [LaneRecord.fill, Lane.stageAt, h, List.getD_eq_getElem?_getD, List.getElem?_range hp]

end

theorem Lane.cleared_stageAt (p : Nat) : Lane.cleared.stageAt p = none := by
  rw [Lane.stageAt, List.getD_eq_getElem?_getD]
  exact List.getElem?_getD_replicate_default_eq ..

/-! ### Prepare (R5) -/

/-- What a tempo works out rests on a stage's kind, its targets and what stood there before. -/
theorem Stage.rework_congr (tempo : Nat) {x y : Stage} (hk : y.kind = x.kind) (ht : ∀ i, y.target i = x.target i)
    (hr : y.rate = x.rate) (hp : y.tap = x.tap) (hc : y.tempoClamped = x.tempoClamped) :
    y.rework tempo = { y with tap := (x.rework tempo).tap, rate := (x.rework tempo).rate,
                              tempoClamped := (x.rework tempo).tempoClamped } := by
  cases x
  cases y
  dsimp only at hk hr hp hc
  subst hk hr hp hc
  unfold Stage.rework
  simp only [ht]
  split
  case h_2 => split <;> rfl
  all_goals rfl

/-- Settled parameters have the same targets. -/
theorem target_of_params {x y : Stage} (h : y.params = x.params.map fun p => Param.fixed p.target) (i : Nat) :
    y.target i = x.target i := by
  simp only [Stage.target, Stage.param, h, List.getD_eq_getElem?_getD, List.getElem?_map]
  cases x.params[i]? <;> rfl

/-- A stage at its starting point, but for what the tempo works out and its tap (log 75 for the peak). -/
def Stage.settled (x : Stage) : Stage :=
  { x with
    params := x.params.map fun p => Param.fixed p.target, ramp := if x.bypass then 240 else 0, gate := .closed,
    gateHold := 0, gateGain := x.target 3, reduction := 0, compGain := x.target 4, peak := 0, phase := 0, beatCount := 0,
    writePos := 0, history := [] }

theorem Stage.prepare_settled (x : Stage) (tempo : Nat) : x.prepare tempo =
    { x.settled.rework tempo with
      tap := ⟨(x.settled.rework tempo).tap.inUse, none, none, (x.settled.rework tempo).tap.inUse⟩ } := rfl

theorem Stage.prepare_eq (x : Stage) (tempo : Nat) :
    let z := x.rework tempo
    x.prepare tempo = { x with
      params := x.params.map fun p => ⟨p.target, p.target, 0, []⟩, ramp := if x.bypass = true then 240 else 0,
      gate := .closed, gateHold := 0, gateGain := x.target 3, reduction := 0, compGain := x.target 4, peak := 0, phase := 0,
      beatCount := 0, writePos := 0, history := [], tap := ⟨z.tap.inUse, none, none, z.tap.inUse⟩, rate := z.rate,
      tempoClamped := z.tempoClamped } := by
  have e : x.settled.rework tempo = _ := Stage.rework_congr (x := x) tempo rfl (target_of_params rfl) rfl rfl rfl
  rw [Stage.prepare_settled, e]
  rfl

/-! ### The table of R10 -/

theorem StageKind.param_delay (longest : Int) : StageKind.delay.param longest 1 = some ⟨.tap, 1, longest⟩ := rfl

theorem StageKind.param_other {k : StageKind} {i : Nat} (longest : Int) (h : k ≠ .delay ∨ i ≠ 1) :
    k.param longest i = k.params[i]? := by
  have no : ¬ (k = .delay ∧ i = 1) := not_and_or.2 h
  unfold StageKind.param
  cases k.params[i]? with
  | none => rfl
  | some p => exact congrArg some (if_neg no)

theorem Bank.prepare_get (tempo : Nat) (k : Bank) (ln : LaneId) :
    (k.prepare tempo).lanes.get ln = (k.lanes.get ln).mapStages (Stage.prepare tempo) :=
  Bank.mapStages_get (Stage.prepare tempo) k ln

/-- Settles O31: the three requests, the stage that a fill makes and that a prepare settles, and the table of R10. -/
theorem bankRequestsFillPrepareRelease : Obligations.BankRequestsFillPrepareRelease := by
  refine ⟨fun s => rfl, fun tempo banks k q => ⟨?_, ?_, ?_⟩, ⟨rfl, Lane.cleared_stageAt⟩,
    fun z cab => ⟨rfl, rfl, rfl, rfl, ?_⟩, Stage.prepare_eq, fun k taps => by cases k <;> rfl,
    fun k => by cases k <;> rfl, fun k => by cases k <;> rfl, fun k longest i => ⟨?_, StageKind.param_other longest⟩⟩
  · rintro rfl; rfl
  · rintro rfl
    exact ⟨((banks.get k).prepare tempo).lanes, rfl, Bank.prepare_get tempo _⟩
  · rintro r cabs rfl
    refine ⟨⟨r.lanes.one.fill .one cabs, r.lanes.two.fill .two cabs⟩, ?_, fun ln => ?_⟩
    · simp only [BankRequest.apply, Bank.fill, Lane.cost_eq, Lane.trailCost_eq]
      rfl
    · cases ln
      · exact ⟨rfl, LaneRecord.fill_length .one cabs _, LaneRecord.fill_disabled .one cabs,
          fun h p => LaneRecord.fill_stageAt .one cabs h⟩
      · exact ⟨rfl, LaneRecord.fill_length .two cabs _, LaneRecord.fill_disabled .two cabs,
          fun h p => LaneRecord.fill_stageAt .two cabs h⟩
  · rintro c rfl
    exact ⟨rfl, rfl⟩
  · rintro rfl rfl
    exact StageKind.param_delay longest

end Sys2Proof.Machine
end

section
/-! The request list at a boundary (R16, R21-R23): what STAGE_SET and STAGE_BYPASS do there, refusals included. -/

namespace Sys2Proof.Machine

/-! ### Where a stage request lands (R22) -/

theorem laneOfNat_other {n : Nat} (h1 : n ≠ 1) (h2 : n ≠ 2) : laneOfNat n = none := by
  unfold laneOfNat
  split
  · exact absurd rfl h1
  · exact absurd rfl h2
  · rfl

theorem laneOfNat_known {n : Nat} (h : n = 1 ∨ n = 2) : ∃ ln, laneOfNat n = some ln := by
  rcases h with rfl | rfl
  · exact ⟨.one, rfl⟩
  · exact ⟨.two, rfl⟩

section
variable {s : State} {lane p : Nat}

theorem findStage_bad_place (h : lane ≠ 1 ∧ lane ≠ 2 ∨ 11 < p) : s.findStage lane p = .error .badArgument := by
  unfold State.findStage
  rcases h with ⟨h1, h2⟩ | h
  · rw [laneOfNat_other h1 h2]
  · cases laneOfNat lane with
    | none => rfl
    | some ln => exact if_pos h

theorem findStage_not_live {ln : LaneId} (hl : laneOfNat lane = some ln) (hp : p ≤ 11) (h : s.liveBank = none) :
    s.findStage lane p = .error .notReady := by
  unfold State.findStage
  rw [hl, h]
  exact if_neg (by omega)

theorem findStage_live {ln : LaneId} {bank : BankId} (hl : laneOfNat lane = some ln) (hp : p ≤ 11)
    (h : s.liveBank = some bank) : s.findStage lane p =
      match (s.lane.banks.get bank).stageAt ln p with
      | none => .error .badArgument
      | some x => .ok (bank, ln, x) := by
  unfold State.findStage
  rw [hl, h]
  exact if_neg (by omega)

end

/-! ### A parameter and a bypass request (R22, R23) -/

section
variable {s : State} {lane p : Nat} (i index : Nat) (v : Int)

theorem setOrder_refused {code : ResultCode} (h : s.findStage lane p = .error code) :
    applyRequest s (.setOrder i lane p index v) = complete i code ResultFlags.none [] s := by
  simp only [applyRequest, applyParam, h, completeWith]

theorem setOrder_unsettable {bank : BankId} {ln : LaneId} {x : Stage} (h : s.findStage lane p = .ok (bank, ln, x))
    (hx : x.settable index = none) :
    applyRequest s (.setOrder i lane p index v) = complete i .badArgument ResultFlags.none [] s := by
  simp only [applyRequest, applyParam, h, hx, completeWith]

/-- A parameter set to the value held within its range, with CLAMPED when that differs. -/
theorem setOrder_taken {bank : BankId} {ln : LaneId} {x : Stage} {c : ParamSpec}
    (h : s.findStage lane p = .ok (bank, ln, x)) (hx : x.settable index = some c) :
    let w := clampInt c.min c.max v
    applyRequest s (.setOrder i lane p index v) =
      complete i .ok { ResultFlags.none with clamped := w != v } [wordOfInt w]
        (putStage bank ln p
          ((x.setTarget s.lane.notedTempo index c.cls w).followIn (s.lane.banks.get bank).runMode) s) := by
  simp only [applyRequest, applyParam, h, hx]

theorem settable_none {x : Stage} {index : Nat}
    (h : (x.kind.param (x.target 0) index).elim True fun c => c.cls = .loadTime) : x.settable index = none := by
  unfold Stage.settable
  cases hc : x.kind.param (x.target 0) index with
  | none => rfl
  | some c => rw [hc] at h; exact if_pos h

theorem settable_some {x : Stage} {index : Nat} {c : ParamSpec} (h : x.kind.param (x.target 0) index = some c)
    (hc : c.cls ≠ .loadTime) : x.settable index = some c := by
  unfold Stage.settable
  rw [h]
  exact if_neg hc

/-- Every setting is refused where the request does not land (log 32). -/
theorem bypassOrder_refused {code : ResultCode} (setting : Nat) (h : s.findStage lane p = .error code) :
    applyRequest s (.bypassOrder i lane p setting) = complete i code ResultFlags.none [] s := by
  cases hs : bypassSetting setting <;> simp only [applyRequest, hs, applyBypass, h, completeWith]

theorem bypassOrder_taken {bank : BankId} {ln : LaneId} {x : Stage} {setting : Nat} {f : Bool → Bool}
    (h : s.findStage lane p = .ok (bank, ln, x)) (hf : bypassSetting setting = some f) :
    applyRequest s (.bypassOrder i lane p setting) =
      complete i .ok ResultFlags.none [wordOfBool (f x.bypass)] (putStage bank ln p { x with bypass := f x.bypass } s) := by
  simp only [applyRequest, hf, applyBypass, h, completeOk]

theorem bypassOrder_bad_setting {bank : BankId} {ln : LaneId} {x : Stage} {setting : Nat}
    (h : s.findStage lane p = .ok (bank, ln, x)) (hf : bypassSetting setting = none) :
    applyRequest s (.bypassOrder i lane p setting) = complete i .badArgument ResultFlags.none [] s := by
  simp only [applyRequest, hf, h, completeWith]

theorem bypassSetting_known {setting : Nat} (h : setting < 3) : ∃ f, bypassSetting setting = some f ∧
    ∀ b, f b = if setting = 0 then false else if setting = 1 then true else !b := by
  interval_cases setting <;> exact ⟨_, rfl, fun _ => rfl⟩

theorem bypassSetting_other {setting : Nat} (h : 3 ≤ setting) : bypassSetting setting = none := by
  obtain ⟨n, rfl⟩ := Nat.exists_eq_add_of_le' h
  rfl

end

/-! ### A tap that follows its time in use (R16) -/

theorem Stage.followIn_eq (m : RunMode) (x : Stage) : x.followIn m =
    if m = .full ∨ (m = .trails ∧ x.trail = true) then { x with tap := x.tap.follow } else x := by
  simp only [← Stage.runsIn_iff]
  rfl

section
variable {t : Tap}

theorem Tap.follow_stays (h : t.inUse = t.destination) : t.follow = t := if_pos h

theorem Tap.follow_starts (h : t.inUse ≠ t.destination) (hf : t.fade = none) :
    t.follow = { t with fade := some (t.inUse, 0) } := by
  unfold Tap.follow; rw [if_neg h, hf]

theorem Tap.follow_waits {f : Nat × Nat} (h : t.inUse ≠ t.destination) (hf : t.fade = some f) :
    t.follow = { t with pending := some t.inUse } := by
  unfold Tap.follow; rw [if_neg h, hf]

end

/-- Settles O34: by where a request lands, and what the two orders do there. -/
theorem stageOrdersApplyAtBoundary : Obligations.StageOrdersApplyAtBoundary := by
  refine ⟨⟨fun v => rfl, fun x => rfl⟩, ⟨rfl, rfl, fun n => laneOfNat_other⟩, fun tempo i x c v => rfl,
    fun s bank ln p x => ⟨rfl, rfl, rfl⟩, fun choose s => rfl,
    fun s i lane p index v => ⟨fun h => setOrder_refused i index v (findStage_bad_place h), fun hl hp h => ?_,
      fun setting => ⟨fun h => bypassOrder_refused i setting (findStage_bad_place h), fun hl hp h => ?_,
        fun bank ln hl hp h hx => ?_⟩, fun bank ln hl hp h => ⟨fun hx => ?_, fun x hx => ?_⟩⟩,
    Stage.followIn_eq, fun t => ⟨Tap.follow_stays, Tap.follow_starts, fun f => Tap.follow_waits⟩⟩
  · obtain ⟨ln, hln⟩ := laneOfNat_known hl
    exact setOrder_refused i index v (findStage_not_live hln hp h)
  · obtain ⟨ln, hln⟩ := laneOfNat_known hl
    exact bypassOrder_refused i setting (findStage_not_live hln hp h)
  · exact bypassOrder_refused i setting ((findStage_live hl hp h).trans (by rw [hx]))
  · exact setOrder_refused i index v ((findStage_live hl hp h).trans (by rw [hx]))
  · have found : s.findStage lane p = .ok (bank, ln, x) := (findStage_live hl hp h).trans (by rw [hx])
    refine ⟨fun hc => setOrder_unsettable i index v found (settable_none hc),
      fun c hc hn => setOrder_taken i index v found (settable_some hc hn), fun setting hs => ?_,
      fun setting hs => bypassOrder_bad_setting i found (bypassSetting_other hs)⟩
    obtain ⟨f, hf, value⟩ := bypassSetting_known hs
    have taken := bypassOrder_taken i found hf
    rw [value] at taken
    exact taken

end Sys2Proof.Machine
end

section
/-! The checks of binding entries, scene records and fetches (R20, R49, R133, R214, R215). -/

namespace Sys2Proof.Machine

/-! ### Faults by offset -/

@[simp] theorem outside_iff (x lo hi : Nat) : outside x lo hi = true ↔ x < lo ∨ hi < x := by simp [outside]

@[simp] theorem outsideInt_iff (x lo hi : Int) : outsideInt x lo hi = true ↔ x < lo ∨ hi < x := by simp [outsideInt]

/-- The fault marked at each offset behind `a` in a list says whether `P` holds of the offset. -/
def NamesFaults (a : Nat) (P : Nat → Prop) (l : List (Nat × Bool)) : Prop :=
  ∀ k v, (a + k, v) ∈ l → (v = true ↔ P k)

section
variable {a : Nat} {P : Nat → Prop} {l m : List (Nat × Bool)}

@[simp] theorem namesFaults_nil : NamesFaults a P [] := by simp [NamesFaults]

@[simp] theorem namesFaults_cons (i : Nat) (b : Bool) :
    NamesFaults a P ((a + i, b) :: l) ↔ (b = true ↔ P i) ∧ NamesFaults a P l := by
  simp only [NamesFaults, List.mem_cons, Prod.mk.injEq, Nat.add_left_cancel_iff]
  constructor
  · exact fun h => ⟨h i b (.inl ⟨rfl, rfl⟩), fun k v hm => h k v (.inr hm)⟩
  · rintro ⟨h, hl⟩ k v (⟨rfl, rfl⟩ | hm)
    · exact h
    · exact hl k v hm

@[simp] theorem namesFaults_cons_self (b : Bool) :
    NamesFaults a P ((a, b) :: l) ↔ (b = true ↔ P 0) ∧ NamesFaults a P l := namesFaults_cons 0 b

@[simp] theorem namesFaults_append : NamesFaults a P (l ++ m) ↔ NamesFaults a P l ∧ NamesFaults a P m := by
  simp only [NamesFaults, List.mem_append]
  constructor
  · exact fun h => ⟨fun k v hl => h k v (.inl hl), fun k v hm => h k v (.inr hm)⟩
  · rintro ⟨hl, hm⟩ k v (h | h)
    · exact hl k v h
    · exact hm k v h

end

theorem firstFault_cons (o : Nat) (b : Bool) (l : List (Nat × Bool)) :
    firstFault ((o, b) :: l) = if b = true then some o else firstFault l := by
  cases b <;> rfl

/-- The first fault of a list over the numbers below `n`. -/
theorem firstFault_range_some {n i : Nat} {at' : Nat → Nat} {f : Nat → Bool} (hi : i < n) (h : f i = true)
    (first : ∀ j < i, f j = false) : firstFault ((List.range n).map fun j => (at' j, f j)) = some (at' i) := by
  have found : (List.range n).find? f = some i := by
    rw [List.find?_range_eq_some]
    exact ⟨h, List.mem_range.2 hi, fun j hj => by simp [first j hj]⟩
  rw [firstFault, List.find?_map]
  exact congrArg (Option.map _) (congrArg (Option.map _) found)

theorem firstFault_range_none {n : Nat} {at' : Nat → Nat} {f : Nat → Bool} (h : ∀ i < n, f i = false) :
    firstFault ((List.range n).map fun j => (at' j, f j)) = none := by
  have none : (List.range n).find? f = none := by simpa using h
  rw [firstFault, List.find?_map]
  exact congrArg (Option.map _) (congrArg (Option.map _) none)

/-! ### Binding entries (R133, R215) -/

theorem bitsOf_low (x width : Nat) : bitsOf x 0 width = x % 2 ^ width := by simp [bitsOf]

/-- A signed byte that is neither 1 nor -1. -/
theorem signedByteAt_step (l : List Byte) (i : Nat) :
    (signedByteAt l i != 1 && signedByteAt l i != -1) = true ↔ byteAt l i ≠ 1 ∧ byteAt l i ≠ 255 := by
  simp only [signedByteAt, byteAt, Bool.and_eq_true, bne_iff_ne]
  have := (l.getD i 0).isLt
  rw [BitVec.toInt_eq_toNat_cond]
  constructor <;> rintro ⟨h1, h2⟩ <;> constructor <;> split at * <;> omega

theorem entryFaults_none {l : List Byte} {o : Nat} (h : byteAt l o = 0) : entryFaults l o = [] := if_pos h

theorem entryFaults_some {l : List Byte} {o : Nat} (h : byteAt l o ≠ 0) :
    let t := byteAt l o
    let kind := byteAt l (o + 3) % 16
    entryFaults l o =
      [(o, decide (7 < t)),
       (o + 1, (decide (t ≤ 5) && decide (7 < byteAt l (o + 1))) || (t == 6 && decide (1 < byteAt l (o + 1)))),
       (o + 2, t == 5 && decide (7 < byteAt l (o + 2))),
       (o + 3, kind == 0 || kind == 15 || (kind == 7 && t != 6) || (bitsOf (byteAt l (o + 3)) 7 1 == 1 && kind != 7)),
       (o + 4, t == 7 && decide (1023 < wordAt l (o + 4))),
       (o + 6, t == 7 && decide (1023 < wordAt l (o + 6)))] ++ actionFaults l (o + 8) kind := by
  unfold entryFaults
  dsimp only
  rw [if_neg h, bitsOf_low]
  rfl

theorem entryFaults_places {l : List Byte} {o : Nat} (h : byteAt l o ≠ 0) :
    (entryFaults l o).map Prod.fst = ([0, 1, 2, 3, 4, 6] ++ match byteAt l (o + 3) % 16 with
      | 1 => if byteAt l (o + 9) = 1 then [8, 9, 10, 11, 12, 14] else [8, 9]
      | 2 => [8] | 3 => [8] | 4 => [8, 9] | 5 => [8, 9] | 6 => [8, 9] | 7 => [8, 9, 10, 12, 14] | 13 => [8]
      | _ => []).map (o + ·) := by
  rw [entryFaults_some h]
  generalize byteAt l (o + 3) % 16 = kind
  rw [List.map_append, List.map_append]
  congr 1
  unfold actionFaults
  split
  case h_1 => split <;> rfl
  case h_9 => simp [*]
  all_goals rfl

/-- The field at offset `k` of the entry at `o` is at fault: first the fields ahead of the action's, then the action's
(R133). -/
def EntryFault (l : List Byte) (o k : Nat) : Prop :=
  let b := fun k => byteAt l (o + k)
  let w := fun k => wordAt l (o + k)
  let t := b 0
  let kind := b 3 % 16
  (k = 0 ∧ 7 < t) ∨ (k = 1 ∧ ((t ≤ 5 ∧ 7 < b 1) ∨ (t = 6 ∧ 1 < b 1))) ∨ (k = 2 ∧ t = 5 ∧ 7 < b 2) ∨
  (k = 3 ∧ (kind = 0 ∨ kind = 15 ∨ (kind = 7 ∧ t ≠ 6) ∨ (b 3 / 128 % 2 = 1 ∧ kind ≠ 7))) ∨
  (k = 4 ∧ t = 7 ∧ 1023 < w 4) ∨ (k = 6 ∧ t = 7 ∧ 1023 < w 6) ∨
  (k = 8 ∧ ((kind = 1 ∧ 63 < b 8) ∨ (kind = 2 ∧ b 8 ≠ 1 ∧ b 8 ≠ 255) ∨ (kind = 3 ∧ 31 < b 8) ∨
    (4 ≤ kind ∧ kind ≤ 7 ∧ b 8 ≠ 1 ∧ b 8 ≠ 2) ∨ (kind = 13 ∧ w 8 / 2 ^ 12 % 8 = 7))) ∨
  (k = 9 ∧ ((kind = 1 ∧ 1 < b 9) ∨ (4 ≤ kind ∧ kind ≤ 7 ∧ 11 < b 9))) ∨
  (k = 10 ∧ ((kind = 1 ∧ 2 < b 10) ∨ (kind = 7 ∧ 7 < b 10))) ∨ (k = 11 ∧ 2 < b 11) ∨
  (k = 12 ∧ ((kind = 1 ∧ (w 12 < 1 ∨ 250 < w 12)) ∨
    (kind = 7 ∧ (signedAt l (o + 12) < -1000 ∨ 10000 < signedAt l (o + 12))))) ∨
  (k = 14 ∧ ((kind = 1 ∧ 250 < w 14) ∨
    (kind = 7 ∧ (signedAt l (o + 14) < -1000 ∨ 10000 < signedAt l (o + 14)))))

/-- A byte that is no lane number. -/
theorem outside_lane (x : Nat) : outside x 1 2 = true ↔ x ≠ 1 ∧ x ≠ 2 := by rw [outside_iff]; omega

theorem noticeFault_iff (x : Nat) : (bitsOf x 12 3 == 7) = true ↔ x / 2 ^ 12 % 8 = 7 := by simp [bitsOf]

/-- The fields of an action, by its kind. -/
theorem actionFaults_named (l : List Byte) (o : Nat) :
    NamesFaults o (EntryFault l o) (actionFaults l (o + 8) (byteAt l (o + 3) % 16)) := by
  unfold EntryFault
  dsimp only
  generalize byteAt l (o + 3) % 16 = kind
  unfold actionFaults
  split
  case h_1 =>
    split <;> simp [profileFaults, Nat.add_assoc]
  case h_2 =>
    simp only [namesFaults_cons, signedByteAt_step]
    simp
  case h_8 =>
    simp only [noticeFaults, namesFaults_cons, noticeFault_iff]
    simp
  case h_9 => simp
  all_goals simp [Nat.add_assoc, outside_lane, -outside_iff]

theorem entryFaults_named {l : List Byte} {o : Nat} (h : byteAt l o ≠ 0) :
    NamesFaults o (EntryFault l o) (entryFaults l o) := by
  rw [entryFaults_some h]
  refine namesFaults_append.2 ⟨?_, actionFaults_named l o⟩
  simp [EntryFault, bitsOf, or_assoc]

theorem headerFaults_places (l : List Byte) : (headerFaults l).map Prod.fst = [0x12, 0x13, 0x14, 0x16, 0x18, 0x20, 0x21,
    0x22, 0x24, 0x26, 0x27, 0x28, 0x29, 0x2A, 0x2C, 0x2E, 0x2F] := rfl

theorem headerFaults_named (l : List Byte) : ∀ x ∈ headerFaults l, x.2 = true ↔
    (x.1 ∈ [0x12, 0x13, 0x26, 0x29, 0x2E] ∧ 2 < byteAt l x.1) ∨ (x.1 = 0x14 ∧ (wordAt l 0x14 < 1 ∨ 250 < wordAt l 0x14)) ∨
    (x.1 = 0x16 ∧ 250 < wordAt l 0x16) ∨ (x.1 = 0x18 ∧ 10000 < wordAt l 0x18) ∨ (x.1 ∈ [0x20, 0x28] ∧ 1 < byteAt l x.1) ∨
    (x.1 = 0x21 ∧ 0 < byteAt l 0x21) ∨ (x.1 ∈ [0x27, 0x2F] ∧ 12 < byteAt l x.1) ∨
    (x.1 ∈ [0x22, 0x2A] ∧ wordAt l x.1 ≠ 0x8000 ∧ (signedAt l x.1 < -960 ∨ 120 < signedAt l x.1)) ∨
    (x.1 ∈ [0x24, 0x2C] ∧ (signedAt l x.1 < -100 ∨ 100 < signedAt l x.1)) := by
  simp [headerFaults, profileFaults, laneFaults]

/-! ### The walk of a lane's stage records (R214) -/

/-- The checks of the stage record at `o`, of kind `k`, where position `low` is the first free one. -/
def stageFaults (l : List Byte) (low o : Nat) (k : StageKind) : List (Nat × Bool) :=
  [(o + 1, outside (byteAt l (o + 1)) low 11),
   (o + 2, bitsOf (byteAt l (o + 2)) 1 1 == 1 && k != .delay && k != .verb)] ++ paramFaults l (o + 4) k

/-- Parameter `i` of the stage record at `o` is outside its range, a DELAY's time outside its own longest (R9, R10). -/
def BadParam (l : List Byte) (o : Nat) (k : StageKind) (i : Nat) : Prop :=
  let value := fun i => signedAt l (o + 4 + 2 * i)
  ∃ p, k.params[i]? = some p ∧ (value i < p.min ∨ p.max < value i ∨ (k = .delay ∧ i = 1 ∧ value 0 < value 1))

theorem badParam_lt {l : List Byte} {o : Nat} {k : StageKind} {i : Nat} (h : BadParam l o k i) : i < k.params.length := by
  obtain ⟨p, hp, -⟩ := h
  exact (List.getElem?_eq_some_iff.1 hp).1

/-- The check of parameter `i`. -/
def paramFaulty (l : List Byte) (o : Nat) (k : StageKind) (i : Nat) : Bool :=
  match k.param (min (signedAt l o) 2500) i with
  | none => true
  | some p => outsideInt (signedAt l (o + 2 * i)) p.min p.max

theorem paramFaults_eq (l : List Byte) (o : Nat) (k : StageKind) :
    paramFaults l o k = (List.range k.params.length).map fun i => (o + 2 * i, paramFaulty l o k i) := rfl

theorem paramFaulty_iff {l : List Byte} {o : Nat} {k : StageKind} {i : Nat} (hi : i < k.params.length) :
    paramFaulty l (o + 4) k i = true ↔ BadParam l o k i := by
  unfold paramFaulty BadParam
  by_cases h : k = .delay ∧ i = 1
  · obtain ⟨rfl, rfl⟩ := h
    have range : StageKind.delay.params[1]? = some ⟨.tap, 1, 2500⟩ := rfl
    simp only [StageKind.param_delay, range, outsideInt_iff, Option.some.injEq, exists_eq_left', true_and, Nat.mul_zero,
      Nat.add_zero]
    omega
  · rw [StageKind.param_other _ (not_and_or.1 h), List.getElem?_eq_getElem hi]
    simp only [outsideInt_iff, Option.some.injEq, exists_eq_left']
    constructor
    · exact fun h => h.imp_right .inl
    · rintro (h1 | h1 | ⟨hk, hi, -⟩)
      · exact .inl h1
      · exact .inr h1
      · exact absurd ⟨hk, hi⟩ h

theorem paramFaults_first {l : List Byte} {o : Nat} {k : StageKind} {i : Nat} (h : BadParam l o k i)
    (first : ∀ j < i, ¬ BadParam l o k j) : firstFault (paramFaults l (o + 4) k) = some (o + 4 + 2 * i) := by
  have hi := badParam_lt h
  rw [paramFaults_eq]
  refine firstFault_range_some hi ((paramFaulty_iff hi).2 h) fun j hj => ?_
  exact Bool.eq_false_iff.2 fun hf => first j hj ((paramFaulty_iff (hj.trans hi)).1 hf)

theorem paramFaults_none {l : List Byte} {o : Nat} {k : StageKind} (h : ∀ i, ¬ BadParam l o k i) :
    firstFault (paramFaults l (o + 4) k) = none := by
  rw [paramFaults_eq]
  exact firstFault_range_none fun i hi => Bool.eq_false_iff.2 fun hf => h i ((paramFaulty_iff hi).1 hf)

/-- A trail flag on a stage that can have none. -/
theorem trailFault_iff (x : Nat) (k : StageKind) :
    (bitsOf x 1 1 == 1 && k != .delay && k != .verb) = true ↔ x / 2 % 2 = 1 ∧ k ≠ .delay ∧ k ≠ .verb := by
  simp [bitsOf, and_assoc]

section
variable {l : List Byte} {low o : Nat} {k : StageKind}

theorem stageFaults_misplaced (h : byteAt l (o + 1) < low ∨ 11 < byteAt l (o + 1)) :
    firstFault (stageFaults l low o k) = some (o + 1) := by
  have : outside (byteAt l (o + 1)) low 11 = true := (outside_iff ..).2 h
  simp only [stageFaults, List.cons_append, firstFault_cons, this, if_true]

theorem stageFaults_trail (h : ¬ (byteAt l (o + 1) < low ∨ 11 < byteAt l (o + 1)))
    (ht : byteAt l (o + 2) / 2 % 2 = 1 ∧ k ≠ .delay ∧ k ≠ .verb) :
    firstFault (stageFaults l low o k) = some (o + 2) := by
  simp only [stageFaults, List.cons_append, firstFault_cons, outside_iff, trailFault_iff]
  rw [if_neg h, if_pos ht]

theorem stageFaults_placed (h : ¬ (byteAt l (o + 1) < low ∨ 11 < byteAt l (o + 1)))
    (ht : ¬ (byteAt l (o + 2) / 2 % 2 = 1 ∧ k ≠ .delay ∧ k ≠ .verb)) :
    firstFault (stageFaults l low o k) = firstFault (paramFaults l (o + 4) k) := by
  simp only [stageFaults, List.cons_append, firstFault_cons, outside_iff, trailFault_iff]
  rw [if_neg h, if_neg ht]
  rfl

variable {len at' : Nat} (n : Nat)

theorem stagesWalk_short (h : len < o + 4) : stagesWalk l len at' (n + 1) low o = .error at' := by
  rw [stagesWalk, if_pos h]

theorem stagesWalk_unknown (h : o + 4 ≤ len) (hk : StageKind.ofCode (byteAt l o) = none) :
    stagesWalk l len at' (n + 1) low o = .error o := by
  rw [stagesWalk, if_neg (by omega), hk]

theorem stagesWalk_past (h : o + 4 ≤ len) (hk : StageKind.ofCode (byteAt l o) = some k)
    (hs : len < o + (4 + 2 * k.params.length)) : stagesWalk l len at' (n + 1) low o = .error at' := by
  rw [stagesWalk, if_neg (by omega), hk]
  exact if_pos hs

theorem stagesWalk_fault (h : o + 4 ≤ len) (hk : StageKind.ofCode (byteAt l o) = some k)
    (hs : o + (4 + 2 * k.params.length) ≤ len) {f : Nat} (hf : firstFault (stageFaults l low o k) = some f) :
    stagesWalk l len at' (n + 1) low o = .error f := by
  unfold stageFaults at hf
  rw [stagesWalk, if_neg (by omega), hk]
  dsimp only
  rw [if_neg (by omega), hf]

/-- A stage record without a fault: the walk goes on behind it. -/
theorem stagesWalk_next (h : o + 4 ≤ len) (hk : StageKind.ofCode (byteAt l o) = some k)
    (hs : o + (4 + 2 * k.params.length) ≤ len) (hf : firstFault (stageFaults l low o k) = none) :
    stagesWalk l len at' (n + 1) low o =
      match stagesWalk l len at' n (byteAt l (o + 1) + 1) (o + (4 + 2 * k.params.length)) with
      | .error f => .error f
      | .ok (rest, o') => .ok (⟨k, byteAt l (o + 1), byteAt l (o + 2) % 2 == 1, byteAt l (o + 2) / 2 % 2 == 1,
          (List.range k.params.length).map fun i => signedAt l (o + 4 + 2 * i)⟩ :: rest, o') := by
  unfold stageFaults at hf
  rw [stagesWalk, if_neg (by omega), hk]
  dsimp only
  rw [if_neg (by omega), hf, bitsOf_low] <;> rfl

end

/-! ### The walk of the binding entries and the notices (R214) -/

section
variable {l : List Byte} {len at' o : Nat} (n : Nat)

theorem entriesWalk_short (h : len < o + 16) : entriesWalk l len at' (n + 1) o = .error at' := by
  rw [entriesWalk, if_pos h]

theorem entriesWalk_fault (h : o + 16 ≤ len) {f : Nat} (hf : firstFault (entryFaults l o) = some f) :
    entriesWalk l len at' (n + 1) o = .error f := by
  rw [entriesWalk, if_neg (by omega), hf]

theorem entriesWalk_next (h : o + 16 ≤ len) (hf : firstFault (entryFaults l o) = none) :
    entriesWalk l len at' (n + 1) o = match entriesWalk l len at' n (o + 16) with
      | .error f => .error f
      | .ok (rest, o') => .ok (entryAt l o :: rest, o') := by
  rw [entriesWalk, if_neg (by omega), hf] <;> rfl

theorem noticeFaults_first (l : List Byte) (o : Nat) :
    firstFault (noticeFaults l o) = if wordAt l o / 2 ^ 12 % 8 = 7 then some o else none := by
  simp only [noticeFaults, firstFault_cons, noticeFault_iff]
  rfl

theorem noticesWalk_short (h : len < o + 8) : noticesWalk l len at' (n + 1) o = .error at' := by
  rw [noticesWalk, if_pos h]

theorem noticesWalk_fault (h : o + 8 ≤ len) (hf : wordAt l o / 2 ^ 12 % 8 = 7) :
    noticesWalk l len at' (n + 1) o = .error o := by
  rw [noticesWalk, if_neg (by omega), noticeFaults_first, if_pos hf]

theorem noticesWalk_next (h : o + 8 ≤ len) (hf : ¬ wordAt l o / 2 ^ 12 % 8 = 7) :
    noticesWalk l len at' (n + 1) o = match noticesWalk l len at' n (o + 8) with
      | .error f => .error f
      | .ok rest => .ok (noticeAt l o :: rest) := by
  rw [noticesWalk, if_neg (by omega), noticeFaults_first, if_neg hf] <;> rfl

end

/-! ### The walk of a whole record (R214) -/

/-- The checks of the two counts behind the stage records. -/
def countFaults (l : List Byte) (len o : Nat) : List (Nat × Bool) :=
  [(o, decide (len < o + 1) || decide (16 < byteAt l o)), (o + 1, decide (len < o + 2) || decide (4 < byteAt l (o + 1)))]

section
variable {l : List Byte} {len o : Nat}

theorem countFaults_entries (h : len ≤ o ∨ 16 < byteAt l o) : firstFault (countFaults l len o) = some o := by
  have : (decide (len < o + 1) || decide (16 < byteAt l o)) = true := by simp; omega
  simp only [countFaults, firstFault_cons, this, if_true]

theorem countFaults_notices (ho : o < len) (he : byteAt l o ≤ 16) (h : len ≤ o + 1 ∨ 4 < byteAt l (o + 1)) :
    firstFault (countFaults l len o) = some (o + 1) := by
  have entries : (decide (len < o + 1) || decide (16 < byteAt l o)) = false := by simp; omega
  have notices : (decide (len < o + 2) || decide (4 < byteAt l (o + 1))) = true := by simp; omega
  simp only [countFaults, firstFault_cons, entries, notices, if_true, Bool.false_eq_true, if_false]

theorem countFaults_none (ho : o + 1 < len) (he : byteAt l o ≤ 16) (hn : byteAt l (o + 1) ≤ 4) :
    firstFault (countFaults l len o) = none := by
  have entries : (decide (len < o + 1) || decide (16 < byteAt l o)) = false := by simp; omega
  have notices : (decide (len < o + 2) || decide (4 < byteAt l (o + 1))) = false := by simp; omega
  simp only [countFaults, firstFault_cons, entries, notices, Bool.false_eq_true, if_false]
  rfl

end

section
variable {l : List Byte} {len f : Nat}

theorem recordWalk_header (h : firstFault (headerFaults l) = some f) : recordWalk l len = .error f := by
  rw [recordWalk, h]

/-- Behind a good header the walk is that of lane 1's stages, lane 2's, the counts, the entries and the notices. -/
theorem recordWalk_behind_header (h : firstFault (headerFaults l) = none) : recordWalk l len =
    (stagesWalk l len 0x27 (byteAt l 0x27) 0 0x30).bind fun one =>
    (stagesWalk l len 0x2F (byteAt l 0x2F) 0 one.2).bind fun two =>
      match firstFault (countFaults l len two.2) with
      | some f => .error f
      | none =>
        (entriesWalk l len two.2 (byteAt l two.2) (two.2 + 2)).bind fun entries =>
        (noticesWalk l len (two.2 + 1) (byteAt l (two.2 + 1)) entries.2).bind fun notices =>
          .ok ⟨profileAt l 0x12, wordAt l 0x18, ⟨laneHeaderAt l 0x20 one.1, laneHeaderAt l 0x28 two.1⟩, entries.1,
            notices⟩ := by
  rw [recordWalk, h] <;> rfl

end

/-! ### The checks of a fetch (R20, R49) -/

section
variable {m : Memory} {scene : Nat}

/-- A directory entry whose record is too long or too short, lies outside the record area, or names another length. -/
def BadExtent (m : Memory) (offset length : Nat) : Prop :=
  1024 < length ∨ offset < 0x4100 ∨ 0x10000 < offset + length ∨ length < 48 ∨ wordAt (m.bytes offset length) 0 ≠ length

def recordOffset (m : Memory) (scene : Nat) : Nat := (m.readWord (0x4000 + 4 * scene)).toNat

def recordLength (m : Memory) (scene : Nat) : Nat := (m.readWord (0x4002 + 4 * scene)).toNat

theorem fetchCheck_empty (h : recordLength m scene = 0) : fetchCheck m scene = .error (.emptyEntry, []) := if_pos h

theorem fetchCheck_extent (h0 : recordLength m scene ≠ 0)
    (h : BadExtent m (recordOffset m scene) (recordLength m scene)) : fetchCheck m scene = .error (.badRecord, [0]) := by
  unfold fetchCheck
  change (if recordLength m scene = 0 then _ else if 1024 < recordLength m scene ∨ recordOffset m scene < 0x4100 ∨
    0xFFFF < recordOffset m scene + recordLength m scene - 1 then _ else if recordLength m scene < 48 ∨
    wordAt (m.bytes (recordOffset m scene) (recordLength m scene)) 0 ≠ recordLength m scene then _ else _) = _
  rw [if_neg h0]
  split
  · rfl
  · next inside =>
    refine if_pos ?_
    unfold BadExtent at h
    omega

theorem fetchCheck_walk (h0 : recordLength m scene ≠ 0)
    (h : ¬ BadExtent m (recordOffset m scene) (recordLength m scene)) : fetchCheck m scene =
      match recordWalk (m.bytes (recordOffset m scene) (recordLength m scene)) (recordLength m scene) with
      | .error f => .error (.badRecord, [word f])
      | .ok r => if 1960 < r.cost then .error (.overBudget, [word r.cost]) else .ok r := by
  have inside : ¬ (1024 < recordLength m scene ∨ recordOffset m scene < 0x4100 ∨
      0xFFFF < recordOffset m scene + recordLength m scene - 1) := by unfold BadExtent at h; omega
  have length : ¬ (recordLength m scene < 48 ∨
      wordAt (m.bytes (recordOffset m scene) (recordLength m scene)) 0 ≠ recordLength m scene) := by
    unfold BadExtent at h; omega
  exact (if_neg h0).trans ((if_neg inside).trans (if_neg length))

end

/-- Settles O38: by the faults of an entry and a header, the walks' equations, and the checks of a fetch. -/
theorem recordsAndEntriesAreChecked : Obligations.RecordsAndEntriesAreChecked := by
  refine ⟨fun l o => ⟨entryFaults_none, fun h => ⟨entryFaults_places h, entryFaults_named h⟩⟩,
    fun l => ⟨headerFaults_places l, headerFaults_named l⟩,
    fun l len at' n low o => ⟨rfl, stagesWalk_short n, stagesWalk_unknown n, fun k h hk => ⟨stagesWalk_past n h hk,
      fun hs => ⟨fun hm => ?_, fun hm ht => ?_, fun hm ht => ⟨fun i hi first => ?_, fun good => ?_⟩⟩⟩⟩,
    fun l len at' n o => ⟨rfl, rfl, entriesWalk_short n, noticesWalk_short n,
      fun h => ⟨fun f => entriesWalk_fault n h, fun hf => ⟨fun f hw => ?_, fun rest o' hw => ?_⟩⟩,
      fun h => ⟨noticesWalk_fault n h, fun hf => ⟨fun f hw => ?_, fun rest hw => ?_⟩⟩⟩,
    fun l len => ⟨fun f => recordWalk_header, fun h => ?_⟩, fun r => rfl,
    fun m scene => ⟨fetchCheck_empty, fetchCheck_extent, fun h0 h => ⟨fun f hw => ?_, fun r hw => ?_⟩⟩⟩
  · exact stagesWalk_fault n h hk hs (stageFaults_misplaced hm)
  · exact stagesWalk_fault n h hk hs (stageFaults_trail hm ht)
  · exact stagesWalk_fault n h hk hs ((stageFaults_placed hm ht).trans (paramFaults_first hi first))
  · have walk := stagesWalk_next (at' := at') n h hk hs ((stageFaults_placed hm ht).trans (paramFaults_none good))
    exact ⟨fun f hf => by rw [walk, hf], fun rest o' hok => by rw [walk, hok]⟩
  · rw [entriesWalk_next n h hf, hw]
  · rw [entriesWalk_next n h hf, hw]
  · rw [noticesWalk_next n h hf, hw]
  · rw [noticesWalk_next n h hf, hw]
  · have walk := recordWalk_behind_header (len := len) h
    refine ⟨fun f h1 => ?_, fun s1 o1 h1 => ⟨fun f h2 => ?_, fun s2 o2 h2 => ⟨fun hc => ?_, fun ho he hc => ?_,
      fun ho he hn => ⟨fun f h3 => ?_, fun es o3 h3 => ⟨fun f h4 => ?_, fun ns h4 => ?_⟩⟩⟩⟩⟩
    · simp only [walk, h1, Except.bind]
    · simp only [walk, h1, h2, Except.bind]
    · simp only [walk, h1, h2, Except.bind, countFaults_entries hc]
    · simp only [walk, h1, h2, Except.bind, countFaults_notices ho he hc]
    · simp only [walk, h1, h2, Except.bind, countFaults_none ho he hn, h3]
    · simp only [walk, h1, h2, Except.bind, countFaults_none ho he hn, h3, h4]
    · simp only [walk, h1, h2, Except.bind, countFaults_none ho he hn, h3, h4]
  · rw [fetchCheck_walk h0 h, recordOffset, recordLength, hw]
  · rw [fetchCheck_walk h0 h, recordOffset, recordLength, hw]

end Sys2Proof.Machine
end

section
/-! What each owner does with an order it takes (R22, R23, R27, R41, R44, R77, R78, R91, R96, R97, R128, R144, R169, R170,
R181, R209): one lemma for each way an order can go. -/

namespace Sys2Proof.Machine

/-! ### MUTE_SET (R27) -/

section
variable (i : Nat) {args : List Byte} (s : State)

theorem takeMuteSet_refused (h : 1 < byteAt args 0) : takeMuteSet i args s = completeWith i .badArgument [] s := if_pos h

theorem takeMuteSet_taken (h : byteAt args 0 ≤ 1) :
    let u := changeMute (fun m => { m with order := byteAt args 0 == 1 }) s
    takeMuteSet i args s = completeOk i [word u.lane.mute.code] u := if_neg (by omega)

end

/-! ### SETLIST_MOVE (R78) -/

/-- A move whose form or step the order's checks refuse. -/
def BadMove (args : List Byte) : Prop :=
  1 < byteAt args 0 ∨ (byteAt args 0 = 0 ∧ (signedAt args 2 < -31 ∨ 31 < signedAt args 2))

/-- Where a move aims: at an entry, or a step from the cursor. -/
def moveAim (args : List Byte) (cursor : Nat) : Int :=
  if byteAt args 0 = 1 then signedAt args 2 else cursor + signedAt args 2

/-- Where a move lands: its aim, if it is in the list, or where a step wraps to. -/
def moveLands (args : List Byte) (l : SetList) (cursor : Nat) : Option Nat :=
  let aim := moveAim args cursor
  if 0 ≤ aim ∧ aim < l.count then some aim.toNat
  else if byteAt args 0 = 0 ∧ l.wrap = true then some (aim % l.count).toNat else none

theorem move_empty {l : SetList} (cursor : Nat) (absolute : Bool) (v : Int) (h : l.count = 0) :
    l.move cursor absolute v = .error .emptyEntry := if_pos h

theorem move_eq_lands {args : List Byte} {l : SetList} (cursor : Nat) (hm : ¬ BadMove args) (h : 0 < l.count) :
    l.move cursor (byteAt args 0 == 1) (signedAt args 2) =
      match moveLands args l cursor with
      | some n => .ok n
      | none => .error .badArgument := by
  have how : byteAt args 0 = 0 ∨ byteAt args 0 = 1 := by unfold BadMove at hm; omega
  have aim : (if (byteAt args 0 == 1) = true then signedAt args 2 else cursor + signedAt args 2) = moveAim args cursor := by
    simp [moveAim]
  have step : (byteAt args 0 == 1) = false ↔ byteAt args 0 = 0 := by rcases how with how | how <;> simp [how]
  unfold SetList.move moveLands
  dsimp only
  rw [if_neg h.ne', aim]
  by_cases hin : 0 ≤ moveAim args cursor ∧ moveAim args cursor < l.count
  · rw [if_pos hin, if_pos hin]
  · rw [if_neg hin, if_neg hin]
    by_cases hw : byteAt args 0 = 0 ∧ l.wrap = true
    · rw [if_pos hw, if_pos ⟨step.2 hw.1, hw.2⟩]
    · rw [if_neg hw, if_neg fun h => hw ⟨step.1 h.1, h.2⟩]

section
variable (i : Nat) {args : List Byte} {s : State}

theorem takeSetlistMove_bad (h : BadMove args) : takeSetlistMove i args s = completeWith i .badArgument [] s := by
  unfold takeSetlistMove
  simp only [outsideInt_iff]
  exact if_pos h

theorem takeSetlistMove_checked (h : ¬ BadMove args) : takeSetlistMove i args s =
    match s.scene.setList.move s.scene.cursor (byteAt args 0 == 1) (signedAt args 2) with
    | .error c => completeWith i c [] s
    | .ok n => completeOk i [word n, word (s.scene.setList.entries.getD n 0)] (moveCursor n s) := by
  unfold takeSetlistMove
  simp only [outsideInt_iff]
  exact if_neg h

theorem takeSetlistMove_empty (h : ¬ BadMove args) (h0 : s.scene.setList.count = 0) :
    takeSetlistMove i args s = completeWith i .emptyEntry [] s := by
  rw [takeSetlistMove_checked i h, move_empty _ _ _ h0]

theorem takeSetlistMove_nowhere (h : ¬ BadMove args) (h0 : 0 < s.scene.setList.count)
    (hl : moveLands args s.scene.setList s.scene.cursor = none) :
    takeSetlistMove i args s = completeWith i .badArgument [] s := by
  rw [takeSetlistMove_checked i h, move_eq_lands _ h h0, hl]

theorem takeSetlistMove_lands {c : Nat} (h : ¬ BadMove args) (h0 : 0 < s.scene.setList.count)
    (hl : moveLands args s.scene.setList s.scene.cursor = some c) :
    takeSetlistMove i args s = completeOk i [word c, word (s.scene.setList.entries.getD c 0)]
      (takeRequest (newRequest .go (s.scene.setList.entries.getD c 0) none (.setList c))
        { s with scene := { s.scene with cursor := c } }) := by
  rw [takeSetlistMove_checked i h, move_eq_lands _ h h0, hl]
  rfl

end

/-! ### IMPULSE_LOAD and IMPULSE_DROP (R41, R44) -/

theorem dropSet_eq (l : LineMemory) (id : Nat) : l.dropSet id = { l with
    map := l.map.map fun h => if h == .impulse id then .free else h,
    impulses := putAt 16 id ⟨.empty, 0, 0⟩ ImpulseEntry.empty l.impulses } := rfl

section
variable (i : Nat) {args : List Byte} {s : State}

/-- An IMPULSE_LOAD whose set or tap count is out of range. -/
def BadImpulse (args : List Byte) : Prop := 15 < byteAt args 0 ∨ wordAt args 2 < 64 ∨ 1920 < wordAt args 2

theorem takeImpulseLoad_bad (h : BadImpulse args) : takeImpulseLoad i args s = completeWith i .badArgument [] s := by
  unfold takeImpulseLoad
  simp only [outside_iff]
  exact if_pos h

theorem takeImpulseLoad_used (h : ¬ BadImpulse args) (hu : 0 < s.lines.usersOf (byteAt args 0)) :
    takeImpulseLoad i args s = completeWith i .inUse [word (s.lines.usersOf (byteAt args 0))] s := by
  unfold takeImpulseLoad
  simp only [outside_iff]
  exact (if_neg h).trans (if_pos hu)

theorem takeImpulseLoad_lacking (h : ¬ BadImpulse args) (hu : s.lines.usersOf (byteAt args 0) = 0)
    (hf : (s.lines.dropSet (byteAt args 0)).freeCount < (wordAt args 2 + 959) / 960) :
    takeImpulseLoad i args s = completeWith i .noLineMemory
      [word ((wordAt args 2 + 959) / 960), word (s.lines.dropSet (byteAt args 0)).freeCount]
      { s with lines := s.lines.dropSet (byteAt args 0) } := by
  unfold takeImpulseLoad
  simp only [outside_iff]
  exact (if_neg h).trans ((if_neg (by omega)).trans (if_pos hf))

theorem takeImpulseLoad_taken (h : ¬ BadImpulse args) (hu : s.lines.usersOf (byteAt args 0) = 0)
    (hf : (wordAt args 2 + 959) / 960 ≤ (s.lines.dropSet (byteAt args 0)).freeCount) :
    let id := byteAt args 0
    let free := s.lines.dropSet id
    takeImpulseLoad i args s = { s with lines := { free with
      map := (takeFree (.impulse id) free.map ((wordAt args 2 + 959) / 960) 0).1,
      impulses := putAt 16 id ⟨.loading, wordAt args 2, 0⟩ ImpulseEntry.empty free.impulses } } := by
  unfold takeImpulseLoad
  simp only [outside_iff]
  exact (if_neg h).trans ((if_neg (by omega)).trans (if_neg (by omega)))

theorem takeImpulseDrop_bad (h : 15 < byteAt args 0) : takeImpulseDrop i args s = completeWith i .badArgument [] s :=
  if_pos h

theorem takeImpulseDrop_used (h : byteAt args 0 ≤ 15) (hu : 0 < s.lines.usersOf (byteAt args 0)) :
    takeImpulseDrop i args s = completeWith i .inUse [word (s.lines.usersOf (byteAt args 0))] s :=
  (if_neg (by omega)).trans (if_pos hu)

theorem takeImpulseDrop_taken (h : byteAt args 0 ≤ 15) (hu : s.lines.usersOf (byteAt args 0) = 0) :
    takeImpulseDrop i args s = completeOk i [word (s.lines.blockList (.impulse (byteAt args 0))).length]
      { s with lines := s.lines.dropSet (byteAt args 0) } := (if_neg (by omega)).trans (if_neg (by omega))

end

/-! ### LINK_CONFIG and LINK_REJOIN (R169, R170) -/

section
variable (i : Nat) {args : List Byte} {s : State}

theorem takeLinkConfig_run (h : s.disp.mode = .run) : takeLinkConfig i args s = completeWith i .wrongMode [] s := if_pos h

theorem takeLinkConfig_faulty (h : s.disp.mode = .setup) {f : Nat} (hf : firstFault (linkConfigFaults args) = some f) :
    takeLinkConfig i args s = completeWith i .badArgument [word f] s := by
  rw [takeLinkConfig, if_neg (by simp [h]), hf]

theorem takeLinkConfig_taken (h : s.disp.mode = .setup) (hf : firstFault (linkConfigFaults args) = none) :
    let c := linkConfigOf args
    let begins := c.autoRejoin && !s.link.config.autoRejoin && s.link.state == .detached
    takeLinkConfig i args s = completeOk i [] { s with
      writes := s.writes ++ wordsAt 0x158 c.words,
      link := { s.link with config := c, addressSeen := false, rejoinMark := s.link.rejoinMark || begins,
                            rejoinCount := if begins then 0 else s.link.rejoinCount } } := by
  rw [takeLinkConfig, if_neg (by simp [h]), hf]
  rfl

theorem takeLinkRejoin_setup (h : s.disp.mode = .setup) : takeLinkRejoin i s = completeWith i .wrongMode [] s := if_pos h

theorem takeLinkRejoin_run (h : s.disp.mode = .run) :
    let u := if s.link.state = .detached ∧ s.link.rejoinMark = false
      then { s with link := { s.link with rejoinMark := true, rejoinCount := 0 } } else s
    takeLinkRejoin i s =
      completeOk i [word s.link.state.code, word s.link.tec, word s.link.rec_, word u.link.rejoinCount] u := by
  have hm : ¬ s.disp.mode = .setup := by simp [h]
  unfold takeLinkRejoin
  rw [if_neg hm]
  by_cases hb : s.link.state = .detached ∧ s.link.rejoinMark = false
  · simp only [if_pos hb, setLink]
  · simp only [if_neg hb]

end

/-! ### CONTROL_CONFIG (R128) -/

theorem line_configure (pins : BitVec 8) (n : Nat) (c : LineConfig) (x : Line) : x.configure pins n c =
    let stopped := { x with config := c, run := 0, settle := none, hold := none, rept := none }
    if c.mode = .off then { stopped with state := .off }
    else { stopped with state := .standby, level := pins.getLsbD n == c.activeHigh } := rfl

/-- The lines under a taken CONTROL_CONFIG. -/
def configuredLines (args : List Byte) (x : Scanner) : List Line :=
  x.lines.zipIdx.map fun y => y.1.configure x.pins y.2 (lineConfigOf (longAt args (4 * y.2)))

theorem configuredLines_get {args : List Byte} {x : Scanner} {n : Nat} {y : Line} (h : x.lines[n]? = some y) :
    (configuredLines args x)[n]? = some (y.configure x.pins n (lineConfigOf (longAt args (4 * n)))) := by
  simp [configuredLines, h]

/-- The state under a taken CONTROL_CONFIG, before it answers. -/
def controlConfigured (args : List Byte) (s : State) : State :=
  { s with
    pedals := putAt 2 1 ((s.pedal 1).configure (pedalConfigAt args 0x28)) Pedal.reset
      (putAt 2 0 ((s.pedal 0).configure (pedalConfigAt args 0x22)) Pedal.reset s.pedals),
    scanner := { s.scanner with lines := configuredLines args s.scanner, window := wordAt args 0x20 } }

theorem controlConfigured_pedal0 (args : List Byte) (s : State) :
    (controlConfigured args s).pedal 0 = (s.pedal 0).configure (pedalConfigAt args 0x22) :=
  (putAt_getD_other (by omega) (by omega) (by omega) _ _ _).trans (putAt_getD_self (by omega) _ _ _)

theorem controlConfigured_pedal1 (args : List Byte) (s : State) :
    (controlConfigured args s).pedal 1 = (s.pedal 1).configure (pedalConfigAt args 0x28) :=
  putAt_getD_self (by omega) _ _ _

section
variable (i : Nat) {args : List Byte} {s : State}

theorem takeControlConfig_run (h : s.disp.mode = .run) :
    takeControlConfig i args s = completeWith i .wrongMode [] s := if_pos h

theorem takeControlConfig_faulty (h : s.disp.mode = .setup) {f : Nat} (hf : firstFault (controlFaults args) = some f) :
    takeControlConfig i args s = completeWith i .badArgument [word f] s := by
  rw [takeControlConfig, if_neg (by simp [h]), hf]

theorem takeControlConfig_taken (h : s.disp.mode = .setup) (hf : firstFault (controlFaults args) = none) :
    let u := controlConfigured args s
    takeControlConfig i args s = completeOk i [] { u with writes := s.writes ++ wordsAt 0x128 u.controlWords } := by
  have second (t : State) : (setPedal 0 ((t.pedal 0).configure (pedalConfigAt args 0x22)) t).pedal 1 = t.pedal 1 :=
    putAt_getD_other (by omega) (by omega) (by omega) _ _ _
  rw [takeControlConfig, if_neg (by simp [h]), hf]
  dsimp only
  rw [second]
  rfl

end

/-! ### LAMP_CONFIG (R181) -/

/-- A LAMP_CONFIG whose lamps are not lamps of the unit. -/
def BadLamps (args : List Byte) : Prop :=
  11 < byteAt args 0 ∨ byteAt args 1 < 1 ∨ 6 < byteAt args 1 ∨ 12 < byteAt args 0 + byteAt args 1

/-- The checks of the lamp entries of a LAMP_CONFIG. -/
def lampsFaults (args : List Byte) : List (Nat × Bool) :=
  (List.range (byteAt args 1)).flatMap fun k => lampFaults args k (byteAt args 0 + k)

section
variable (i : Nat) {args : List Byte} {s : State}

theorem takeLampConfig_bad (h : BadLamps args) : takeLampConfig i args s = completeWith i .badArgument [] s := by
  unfold takeLampConfig
  simp only [outside_iff, or_assoc]
  exact if_pos h

theorem takeLampConfig_faulty (h : ¬ BadLamps args) {f : Nat} (hf : firstFault (lampsFaults args) = some f) :
    takeLampConfig i args s = completeWith i .badArgument [word f] s := by
  unfold lampsFaults at hf
  unfold takeLampConfig
  simp only [outside_iff, or_assoc, hf]
  exact if_neg h

theorem takeLampConfig_taken (h : ¬ BadLamps args) (hf : firstFault (lampsFaults args) = none) :
    takeLampConfig i args s = { s with lamps := { s.lamps with pending := some ⟨i, byteAt args 0,
      (List.range (byteAt args 1)).map fun k => lampConfigAt args k (byteAt args 0 + k)⟩ } } := by
  unfold lampsFaults at hf
  unfold takeLampConfig
  simp only [outside_iff, or_assoc, hf]
  exact if_neg h

end

/-! ### TEMPO_SET (R91) -/

theorem changeTempo_eq (v : Nat) (s : State) : changeTempo v s = if v = s.tempo.tempo then s
    else { s with tempo := { s.tempo with tempo := v }, lane := { s.lane with notedTempo := v, tempoNoted := true } } := rfl

theorem changeTempo_value (v : Nat) (s : State) : (changeTempo v s).tempo.tempo = v := by
  by_cases h : v = s.tempo.tempo
  · rw [changeTempo_eq, if_pos h, h]
  · rw [changeTempo_eq, if_neg h]

theorem changeTempo_source (v : Nat) (s : State) : (changeTempo v s).tempo.source = s.tempo.source := by
  by_cases h : v = s.tempo.tempo
  · rw [changeTempo_eq, if_pos h]
  · rw [changeTempo_eq, if_neg h]

/-- The source that a TEMPO_SET names. -/
def sourceOf (b : Nat) : TempoSource := if b = 1 then .link else .internal

theorem code_sourceOf {b : Nat} (h : b ≤ 1) : (sourceOf b).code = b := by
  interval_cases b <;> rfl

theorem setSource_tempo (t : TempoUnit) (src : TempoSource) : (t.setSource src).tempo = t.tempo := by
  unfold TempoUnit.setSource
  cases src <;> split <;> rfl

theorem setSource_source (t : TempoUnit) (src : TempoSource) : (t.setSource src).source = src := by
  unfold TempoUnit.setSource
  by_cases h : src = t.source
  · rw [if_pos h, h]
  · rw [if_neg h]
    cases src <;> rfl

/-- A source named anew restarts the link following; the same source leaves it. -/
theorem setSource_sourceOf {b : Nat} (hb : b ≤ 1) (t : TempoUnit) :
    { t.setSource (sourceOf b) with history := [], lastTap := none } =
      let same := { t with history := [], lastTap := none }
      if b = 1 ∧ t.source = .internal then
        { same with source := .link, prevBeat := none, watch := some 3000, linkLost := false }
      else if b = 0 ∧ t.source = .link then { same with source := .internal, watch := none, linkLost := false }
      else same := by
  have hb : b = 0 ∨ b = 1 := by omega
  rcases hb with rfl | rfl <;> cases ht : t.source <;> simp [TempoUnit.setSource, sourceOf, ht]

section
variable (i : Nat) {args : List Byte} {s : State}

theorem takeTempoSet_bad (h : 1 < byteAt args 2) : takeTempoSet i args s = completeWith i .badArgument [] s := if_pos h

theorem takeTempoSet_taken (h : byteAt args 2 ≤ 1) :
    let v := wordAt args 0
    let w := if v = 0 then s.tempo.tempo else clampNat 400 3000 v
    let u := changeTempo w s
    takeTempoSet i args s =
      complete i .ok { ResultFlags.none with clamped := v != 0 && w != v } [word w, word (byteAt args 2)]
        { u with tempo := { u.tempo.setSource (sourceOf (byteAt args 2)) with history := [], lastTap := none } } := by
  intro v w u
  have hw : ((u.tempo.setSource (sourceOf (byteAt args 2))).tempo) = w :=
    (setSource_tempo _ _).trans (changeTempo_value w s)
  have hs : (u.tempo.setSource (sourceOf (byteAt args 2))).source.code = byteAt args 2 := by
    rw [setSource_source, code_sourceOf h]
  refine (if_neg (by omega)).trans ?_
  show complete i .ok _ [word (u.tempo.setSource (sourceOf (byteAt args 2))).tempo,
    word (u.tempo.setSource (sourceOf (byteAt args 2))).source.code] _ = _
  rw [hw, hs]
  rfl

end

/-! ### TUNER_SET (R96, R97) -/

/-- The state with the settings of a TUNER_SET, before anything is switched. -/
def tunerSettled (n : TunerSettings) (s : State) : State :=
  { s with tuner := { s.tuner with settings := { n with on := s.tuner.settings.on } } }

/-- The settings that a measurement depends on are the same. -/
abbrev SameMeasure (o n : TunerSettings) : Prop :=
  o.sourceB = n.sourceB ∧ o.level = n.level ∧ o.wide = n.wide ∧ o.n = n.n

section
variable {n : TunerSettings} {s : State}

theorem applyTunerSettings_on (ho : s.tuner.settings.on = false) (hn : n.on = true) :
    applyTunerSettings n s = switchTunerOn (tunerSettled n s) := if_pos (by simp [ho, hn])

theorem applyTunerSettings_off (ho : s.tuner.settings.on = true) (hn : n.on = false) :
    applyTunerSettings n s = if s.tuner.settings.thru then switchTunerOff (tunerSettled n s)
      else muteTuner false (switchTunerOff (tunerSettled n s)) :=
  (if_neg (by simp [hn])).trans (if_pos (by simp [ho, hn]))

theorem applyTunerSettings_idle (ho : s.tuner.settings.on = false) (hn : n.on = false) :
    applyTunerSettings n s = tunerSettled n s := by
  unfold applyTunerSettings
  simp [ho, hn, tunerSettled, setTuner]

theorem measure_ne (o n : TunerSettings) :
    ((o.sourceB, o.level, o.wide, o.n) != (n.sourceB, n.level, n.wide, n.n)) = !decide (SameMeasure o n) := by
  rw [bne, beq_eq_decide]
  simp only [Prod.mk.injEq]

theorem applyTunerSettings_running (ho : s.tuner.settings.on = true)
    (hn : n.on = true) :
    let u := if SameMeasure s.tuner.settings n then tunerSettled n s else settleTuner (tunerSettled n s)
    applyTunerSettings n s = if s.tuner.settings.thru = n.thru then u else muteTuner (!n.thru) u := by
  unfold applyTunerSettings
  simp only [measure_ne, ho, hn]
  by_cases hm : SameMeasure s.tuner.settings n
  · by_cases ht : s.tuner.settings.thru = n.thru <;> simp [if_pos hm, decide_eq_true hm, ht, ho, tunerSettled, setTuner]
  · by_cases ht : s.tuner.settings.thru = n.thru <;> simp [if_neg hm, decide_eq_false hm, ht, ho, tunerSettled, setTuner]

end

section
variable (i : Nat) {args : List Byte} {s : State}

theorem takeTunerSet_faulty {f : Nat} (hf : firstFault (tunerFaults args) = some f) :
    takeTunerSet i args s = completeWith i .badArgument [word f] s := by
  rw [takeTunerSet, hf]

theorem takeTunerSet_taken (hf : firstFault (tunerFaults args) = none) {u : State}
    (hu : applyTunerSettings (tunerSettingsOf args) s = u) :
    takeTunerSet i args s = completeOk i [wordOfBool u.tuner.settings.on, word u.tuner.cell.status.code] u := by
  rw [takeTunerSet, hf, ← hu]

end

/-- Settles O21: each order goes to the function of its owner, and the lemmas above say for each way it can go what that
function does. -/
theorem ordersAreTakenByTheirOwners : Obligations.OrdersAreTakenByTheirOwners := by
  refine ⟨fun _ _ _ _ _ => rfl, fun _ => rfl, fun s i args => ?_⟩
  refine ⟨takeMuteSet_refused i s, takeMuteSet_taken i s, rfl, rfl, rfl, rfl, ?move, ?impulse, ?link, ?rejoin,
    takeControlConfig_run i, ?control, ?lamp, ?tempo, fun _ => takeTunerSet_faulty i, ?tuner⟩
  case move =>
    exact ⟨takeSetlistMove_bad i, takeSetlistMove_empty i, takeSetlistMove_nowhere i, fun _ => takeSetlistMove_lands i⟩
  case impulse =>
    exact ⟨takeImpulseLoad_bad i, takeImpulseLoad_used i, takeImpulseLoad_lacking i, takeImpulseLoad_taken i,
      takeImpulseDrop_bad i, takeImpulseDrop_used i, takeImpulseDrop_taken i⟩
  case link => exact ⟨takeLinkConfig_run i, fun h => ⟨fun _ => takeLinkConfig_faulty i h, takeLinkConfig_taken i h⟩⟩
  case rejoin => exact ⟨takeLinkRejoin_setup i, takeLinkRejoin_run i⟩
  case control =>
    exact fun h => ⟨fun _ => takeControlConfig_faulty i h, fun hf => ⟨controlConfigured args s,
      takeControlConfig_taken i h hf, rfl, controlConfigured_pedal0 args s, controlConfigured_pedal1 args s,
      fun n x hx => (configuredLines_get hx).trans (congrArg some (line_configure _ _ _ _))⟩⟩
  case lamp => exact ⟨takeLampConfig_bad i, fun h _ => takeLampConfig_faulty i h, takeLampConfig_taken i⟩
  case tempo =>
    refine ⟨takeTempoSet_bad i, fun h => (takeTempoSet_taken i h).trans ?_⟩
    rw [setSource_sourceOf h, changeTempo_source]
    rfl
  case tuner =>
    intro hf
    exact ⟨fun ho hn => takeTunerSet_taken i hf (applyTunerSettings_on ho hn),
      fun ho hn => takeTunerSet_taken i hf (applyTunerSettings_off ho hn),
      fun ho hn => takeTunerSet_taken i hf (applyTunerSettings_idle ho hn),
      fun ho hn => takeTunerSet_taken i hf (applyTunerSettings_running ho hn)⟩

end Sys2Proof.Machine
end

section
/-! Sitting 2: line memory and impulse sets (chapter 2). -/

namespace Sys2Proof.Machine

/-! ### The four totals of R32 -/

theorem countHolders_cons (p : Holder → Bool) (h : Holder) (m : List Holder) :
    countHolders p (h :: m) = (if p h then 1 else 0) + countHolders p m := by
  unfold countHolders; rw [List.filter_cons]; split <;> simp [Nat.add_comm]

/-- Every holder is counted by exactly one of the four totals. -/
theorem totals_eq_length (m : List Holder) :
    countHolders (· == .free) m + countHolders (Holder.ofBank .a) m + countHolders (Holder.ofBank .b) m +
      countHolders Holder.isImpulse m = m.length := by
  induction m with
  | nil => rfl
  | cons h m ih =>
    simp only [countHolders_cons, List.length_cons, ← ih]
    cases h with
    | free => simp [Holder.ofBank, Holder.isImpulse]; omega
    | stage k ln p => cases k <;> simp [Holder.ofBank, Holder.isImpulse] <;> omega
    | impulse id => simp [Holder.ofBank, Holder.isImpulse]; omega

/-! ### What a command does to the map's length -/

@[simp] theorem endBurst_lines (s : State) : (endBurst s).lines = s.lines := by
  obtain ⟨-, -, -, -, -, hl, -⟩ := endBurst_fields s
  exact hl

@[simp] theorem hostAccess_lines (acc : HostAccess) (s : State) : (hostAccess acc s).lines = s.lines := by
  cases acc <;> rfl

/-- What an effect does to the map's length, the command run with it does. -/
theorem plain_mapLength {f : State → State} {s t : State} (h : plain f s = .next t)
    (hf : (f s).lines.map.length = s.lines.map.length) : t.lines.map.length = s.lines.map.length := by
  cases hr : s.resetHeld with
  | true => rw [plain_of_held f hr] at h; cases h; rfl
  | false => rw [plain_of_free f hr] at h; cases h; exact hf

/-- A still effect keeps the map's length. -/
theorem mapLength_of_still {f : State → State} {s : State} (h : Still s (f s)) :
    (f s).lines.map.length = s.lines.map.length := h.symm.mapLength

@[simp] theorem finish_mapLength (s : State) : (finish s).lines.map.length = s.lines.map.length :=
  (still_apply finish_still s).mapLength

theorem whole_mapLength {f : State → State} {s t : State} (h : whole f s = .next t)
    (hf : (f s).lines.map.length = s.lines.map.length) : t.lines.map.length = s.lines.map.length :=
  plain_mapLength h ((finish_mapLength (f s)).trans hf)

/-- An event of its own at a boundary keeps the map's length when its effect does. -/
theorem atBoundary_mapLength {due : State → Bool} {f : State → State} (h : ∀ s, Still s (f s)) (s : State) :
    (atBoundary due f s).lines.map.length = s.lines.map.length := by
  unfold atBoundary; dsimp only; split
  · exact (h _).symm.mapLength.trans (openBoundary_mapLength s)
  · rfl

theorem frameBoundary_mapLength (i : BoundaryInput) (s : State) :
    (frameBoundary i s).lines.map.length = s.lines.map.length :=
  (frameBoundary_still i s).mapLength.trans (openBoundary_mapLength s)

/-- The end of a burst and a still event after it, or no burst to end. -/
theorem burstEnd_mapLength {f : State → State} {s : State} (h : Still (endBurst s) (f s) ∨ f s = s) :
    (f s).lines.map.length = s.lines.map.length := by
  rcases h with h | h
  · rw [← h.mapLength, endBurst_lines]
  · rw [h]

theorem hostMemory_mapLength (acc : HostAccess) (s : State) : (hostMemory acc s).lines.map.length = s.lines.map.length := by
  unfold hostMemory
  split
  · rw [hostAccess_lines]
  · split <;> rfl

theorem startBurst_mapLength (s : State) : (startBurst s).lines.map.length = s.lines.map.length := by
  have start := fun t => (still_apply startOldest_still t).mapLength
  unfold startBurst
  split
  · exact start s
  · rw [start, endBurst_lines]
  · rfl

theorem completeIdleRun_still (s t : State) : Still s (completeIdleRun t) ↔ Still s t := by
  unfold completeIdleRun; simp

/-- A hard reset frees the whole map: 512 blocks. -/
theorem hardReset_mapLength (s : State) : (resetBlocks false s).lines.map.length = 512 := by
  unfold resetBlocks
  rw [(still_apply derivePairs_still _).mapLength]
  exact List.length_replicate

/-- A soft reset frees blocks of the map as it stands (R47). -/
theorem softReset_mapLength (s : State) : (resetBlocks true s).lines.map.length = s.lines.map.length := by
  unfold resetBlocks
  rw [(still_apply derivePairs_still _).mapLength]
  simp [LineMemory.softReset]

theorem powerUp_mapLength (s : State) : (powerUp s).lines.map.length = 512 := by
  unfold powerUp
  rw [initBurst_lines]
  exact hardReset_mapLength _

theorem resetPart_mapLength {soft : Bool} {s : State} (h : s.lines.map.length = 512) :
    (resetPart soft s).lines.map.length = 512 := by
  unfold resetPart
  rw [initBurst_lines]
  cases soft with
  | false => exact hardReset_mapLength _
  | true => rw [softReset_mapLength, endBurst_lines, h]

/-- Every command keeps a map of 512 entries: a hard reset makes a new one, and any other command keeps the length. -/
theorem exec_mapLength {c : Instr} {s t : State} (h : exec c s = .next t) (h512 : s.lines.map.length = 512) :
    t.lines.map.length = 512 := by
  have kept (h : t.lines.map.length = s.lines.map.length) : t.lines.map.length = 512 := h.trans h512
  cases c
  case powerOn => exact Host.Outcome.next.inj h ▸ powerUp_mapLength s
  case resetLine => exact Host.Outcome.next.inj h ▸ resetPart_mapLength h512
  case softReset =>
    refine Host.Outcome.next.inj h ▸ ?_
    split
    · exact h512
    · exact resetPart_mapLength h512
  case resetLineAssert => exact kept (plain_mapLength (f := assertReset) h (congrArg (·.map.length) (endBurst_lines s)))
  case hostMemoryAccess access => exact kept (plain_mapLength h (hostMemory_mapLength access s))
  case burstStart => exact kept (plain_mapLength h (startBurst_mapLength s))
  case orderCapture | impulseChunk | fetchEnd | setlistCopyEnd | bindingCopyEnd =>
    refine kept (whole_mapLength h (burstEnd_mapLength ?_))
    simp only [endOrderCapture, endImpulseChunk, endFetch, endSetlistCopy, endBindingCopy]
    split
    · exact .inl (by simp)
    · exact .inr rfl
  case frameBoundary i => exact kept (whole_mapLength h (frameBoundary_mapLength i s))
  case gateHoldExpiry | accumulatorBeat | prepareDone | swap | gapFadeInStart | fadeOutEnd | fadeEnd | trailTimerExpiry |
      cutEnd | leanSilence =>
    exact kept (plain_mapLength h (atBoundary_mapLength (fun _ => by simp) s))
  case rejoin => exact kept (plain_mapLength h (mapLength_of_still (by split <;> simp [completeIdleRun_still])))
  case lineIdleRun => exact kept (plain_mapLength h (mapLength_of_still ((completeIdleRun_still s s).2 (by simp))))
  case periodStart | linkArbitrationLost | linkMessageSent | linkMessageReceived | linkError =>
    exact kept (whole_mapLength h (mapLength_of_still (by simp)))
  case badOperation => exact kept (plain_mapLength h (mapLength_of_still (by split <;> simp)))
  case converterSamplesStop => exact kept (plain_mapLength (f := fun s => { s with delivering := false }) h rfl)
  all_goals exact kept (plain_mapLength h (mapLength_of_still (by simp)))

/-- Settles O5: a step runs one command on the queue's rest, a command keeps the map's length, and each of the map's entries
counts in exactly one of the four totals. -/
theorem everyStepKeeps512Blocks : Obligations.EveryStepKeeps512Blocks := by
  intro s t h512 h
  have length : t.lines.map.length = 512 := by
    unfold step at h
    cases hp : s.pending with
    | nil => rw [hp] at h; exact Host.Outcome.next.inj h ▸ h512
    | cons c rest => rw [hp] at h; exact exec_mapLength h h512
  exact ⟨length, (totals_eq_length _).trans length⟩

end Sys2Proof.Machine
end

section
/-! Sitting 2, the line memory manager: block lists, a bank freed, and zeroing at a boundary (R32, R33, R37-R39). -/

namespace Sys2Proof.Machine

/-! ### Block lists (R33) -/

theorem mem_blockList (l : LineMemory) (h : Holder) (b : Nat) : b ∈ l.blockList h ↔ l.map[b]? = some h := by
  simp [LineMemory.blockList, List.mem_zipIdx_iff_getElem?]

/-- A block list is a part of the block numbers, which rise. -/
theorem blockList_rises (l : LineMemory) (h : Holder) : (l.blockList h).Pairwise (· < ·) := by
  have part : (l.blockList h).Sublist (l.map.zipIdx.map Prod.snd) := List.filter_sublist.map _
  rw [List.zipIdx_map_snd] at part
  exact List.Pairwise.sublist part List.pairwise_lt_range'

/-! ### A bank freed (R38, R39) -/

theorem ofBank_iff (k : BankId) (h : Holder) : Holder.ofBank k h = true ↔ ∃ ln p, h = .stage k ln p := by
  cases h <;> simp [Holder.ofBank]

theorem freeBank_map_get {l : LineMemory} {n : Nat} {h : Holder} (k : BankId) (hn : l.map[n]? = some h) :
    (l.freeBank k).map[n]? = some (if Holder.ofBank k h then .free else h) := by
  show (l.map.map _)[n]? = _
  rw [List.getElem?_map, hn]
  rfl

theorem freeBank_bankBlocks_self (l : LineMemory) (k : BankId) : (l.freeBank k).bankBlocks k = 0 := by
  unfold LineMemory.bankBlocks
  rw [freeBank_counts _ _ _ rfl]
  simp

/-- A total whose holders are not the bank's stays. -/
theorem freeBank_counts_other {q : Holder → Bool} (l : LineMemory) (k : BankId) (hq : q .free = false)
    (h : ∀ x, q x = true → Holder.ofBank k x = false) : countHolders q (l.freeBank k).map = countHolders q l.map := by
  rw [freeBank_counts _ _ _ hq]
  refine congrArg List.length (List.filter_congr fun x _ => ?_)
  cases hx : q x with
  | false => rfl
  | true => simp [h x hx]

theorem freeBank_bankBlocks_other (l : LineMemory) (k : BankId) :
    (l.freeBank k).bankBlocks (otherBank k) = l.bankBlocks (otherBank k) :=
  freeBank_counts_other l k rfl fun x hx => by
    obtain ⟨ln, p, rfl⟩ := (ofBank_iff _ _).1 hx
    cases k <;> rfl

theorem freeBank_impulseBlocks (l : LineMemory) (k : BankId) : (l.freeBank k).impulseBlocks = l.impulseBlocks :=
  freeBank_counts_other l k rfl fun x hx => by
    cases x with
    | impulse id => rfl
    | _ => cases hx

/-- The blocks returned are counted FREE. -/
theorem freeWhere_freeCount {p : Holder → Bool} (hp : p .free = false) (m : List Holder) :
    countHolders (· == .free) (freeWhere p m) = countHolders (· == .free) m + countHolders p m := by
  induction m with
  | nil => rfl
  | cons h m ih =>
    have cons : freeWhere p (h :: m) = (if p h then .free else h) :: freeWhere p m := rfl
    rw [cons, countHolders_cons, countHolders_cons, countHolders_cons, ih]
    cases hh : p h with
    | true =>
      have held : h ≠ .free := fun e => by simp [e, hp] at hh
      simp [held]; omega
    | false => simp; omega

theorem freeBank_freeCount (l : LineMemory) (k : BankId) : (l.freeBank k).freeCount = l.freeCount + l.bankBlocks k :=
  freeWhere_freeCount rfl l.map

/-! ### Zeroing at a boundary (R37) -/

/-- A sample whose index is not listed is 0. -/
theorem sampleGet_of_unlisted {m : List (Nat × Int)} {i : Nat} (h : ∀ x ∈ m, x.1 ≠ i) : sampleGet m i = 0 := by
  induction m with
  | nil => rfl
  | cons x m ih =>
    have hx : x.1 ≠ i := h x List.mem_cons_self
    unfold sampleGet
    rw [if_neg hx, ih fun y hy => h y (List.mem_cons_of_mem _ hy)]
    split <;> rfl

/-- Blocks zeroed one after the other: a sample listed before stays listed when it lies in none of them. -/
theorem zeroBlocks_eq_filter (queue : List (Nat × BankId)) (m : List (Nat × Int)) :
    queue.foldl (fun m z => zeroBlock z.1 m) m = m.filter fun x => queue.all fun z => x.1 / 960 != z.1 := by
  induction queue generalizing m with
  | nil => simp
  | cons z queue ih =>
    rw [List.foldl_cons, ih, zeroBlock, List.filter_filter]
    simp [Bool.and_comm]

theorem zeroFour_samples (l : LineMemory) :
    l.zeroFour.samples = l.samples.filter fun x => (l.zeroQueue.take 4).all fun z => x.1 / 960 != z.1 :=
  zeroBlocks_eq_filter _ _

theorem zeroFour_silent {l : LineMemory} {x : Nat × BankId} (hx : x ∈ l.zeroQueue.take 4) {o : Nat} (ho : o < 960) :
    sampleGet l.zeroFour.samples (960 * x.1 + o) = 0 := by
  refine sampleGet_of_unlisted fun y hy e => ?_
  rw [zeroFour_samples] at hy
  have outside := List.all_eq_true.1 (List.mem_filter.1 hy).2 x hx
  have inside : y.1 / 960 = x.1 := by omega
  simp [inside] at outside

/-- The banks answered: those of which a block goes and none stays queued. -/
theorem zeroFour_answers (l : LineMemory) : ∃ done, l.zeroFour.answers = l.answers ++ done ∧
    ∀ k, k ∈ done ↔ (∃ x ∈ l.zeroQueue.take 4, x.2 = k) ∧ ∀ x ∈ l.zeroQueue.drop 4, x.2 ≠ k := by
  refine ⟨_, rfl, fun k => ?_⟩
  have known : k ∈ [BankId.a, BankId.b] := by cases k <;> simp
  simp only [List.mem_filter, known, true_and, Bool.and_eq_true, List.any_eq_true, Bool.not_eq_true', List.any_eq_false,
    beq_iff_eq, ne_eq]

/-- Settles O36: each total and block list by its definition, a freed bank by its blocks, zeroing by the four blocks. -/
theorem banksAreZeroedAndFreed : Obligations.BanksAreZeroedAndFreed := by
  refine ⟨fun l k id h => ?totals, fun l k => ?freed, fun l => ?zeroed⟩
  case totals =>
    exact ⟨rfl, rfl, rfl, rfl, mem_blockList l h, blockList_rises l h⟩
  case freed =>
    refine ⟨freeBank_bankBlocks_self l k, freeBank_freeCount l k, freeBank_bankBlocks_other l k, freeBank_impulseBlocks l k,
      lineFreeBank_length l k, fun n h hn => ⟨fun stage => ?_, fun other => ?_⟩, rfl, rfl, rfl, rfl, rfl⟩
    · rw [freeBank_map_get k hn, if_pos ((ofBank_iff k h).2 stage)]
    · rw [freeBank_map_get k hn, if_neg fun hk => ?_]
      obtain ⟨ln, p, e⟩ := (ofBank_iff k h).1 hk
      exact other ln p e
  case zeroed =>
    exact ⟨rfl, zeroFour_map l, rfl, rfl, fun x hx o ho => zeroFour_silent hx ho, zeroFour_samples l, zeroFour_answers l⟩

end Sys2Proof.Machine
end

section
/-! Sitting 2, impulse chunks (R42, R43): the samples of line memory, a staged tap, and the end of a chunk's burst. -/

namespace Sys2Proof.Machine

/-! ### Samples of line memory (R31) -/

/-- Samples are listed at rising indices. -/
def SamplesRise (m : List (Nat × Int)) : Prop := m.Pairwise fun y z => y.1 < z.1

theorem mem_samplePut {m : List (Nat × Int)} {k : Nat} {x : Int} {y : Nat × Int} (h : y ∈ samplePut m k x) :
    y = (k, x) ∨ y ∈ m := by
  induction m with
  | nil =>
    unfold samplePut at h
    split at h <;> simp_all
  | cons z m ih =>
    unfold samplePut at h
    simp only [List.mem_cons]
    split at h
    · split at h
      · exact .inr (List.mem_cons.1 h)
      · exact (List.mem_cons.1 h).imp_right List.mem_cons.1
    · split at h
      · rename_i hk
        subst hk
        split at h
        · exact .inr (.inr h)
        · exact (List.mem_cons.1 h).imp_right .inr
      · rcases List.mem_cons.1 h with h | h
        · exact .inr (.inl h)
        · exact (ih h).imp_right .inr

theorem samplePut_rises {m : List (Nat × Int)} (k : Nat) (x : Int) (h : SamplesRise m) : SamplesRise (samplePut m k x) := by
  unfold SamplesRise at *
  induction m with
  | nil => unfold samplePut; split <;> simp
  | cons z m ih =>
    obtain ⟨hz, hm⟩ := List.pairwise_cons.1 h
    unfold samplePut
    (repeat' split)
    · exact h
    · refine List.pairwise_cons.2 ⟨fun y hy => ?_, h⟩
      rcases List.mem_cons.1 hy with rfl | hy
      · assumption
      · exact lt_trans (by assumption) (hz y hy)
    · exact hm
    · exact List.pairwise_cons.2 ⟨hz, hm⟩
    · refine List.pairwise_cons.2 ⟨fun y hy => ?_, ih hm⟩
      rcases mem_samplePut hy with rfl | hy
      · show z.1 < k; omega
      · exact hz y hy

/-- Below the first listed index every sample is 0. -/
theorem sampleGet_below {m : List (Nat × Int)} {k : Nat} (h : ∀ x ∈ m, k < x.1) : sampleGet m k = 0 :=
  sampleGet_of_unlisted fun x hx => (h x hx).ne'

/-- In a rising list the later indices are all above the first, so the test for an index passed decides nothing. -/
theorem sampleGet_cons {m : List (Nat × Int)} {k : Nat} {x : Int} (j : Nat) (h : SamplesRise ((k, x) :: m)) :
    sampleGet ((k, x) :: m) j = if j = k then x else sampleGet m j := by
  have above := (List.pairwise_cons.1 h).1
  rw [sampleGet]
  by_cases hj : j = k
  · rw [if_pos hj.symm, if_pos hj]
  · rw [if_neg (Ne.symm hj), if_neg hj]
    split
    · exact (sampleGet_below fun y hy => lt_trans (by assumption) (above y hy)).symm
    · rfl

theorem sampleGet_samplePut {m : List (Nat × Int)} (k j : Nat) (x : Int) (h : SamplesRise m) :
    sampleGet (samplePut m k x) j = if j = k then x else sampleGet m j := by
  have put := samplePut_rises k x h
  induction m with
  | nil =>
    by_cases hx : x = 0
    · simp [samplePut, sampleGet, hx]
    · simp only [samplePut, if_neg hx] at put ⊢
      exact sampleGet_cons j put
  | cons z m ih =>
    obtain ⟨i, y⟩ := z
    obtain ⟨above, hm⟩ := List.pairwise_cons.1 h
    rw [samplePut] at put ⊢
    by_cases hlt : k < i
    · rw [if_pos hlt] at put ⊢
      by_cases hx : x = 0
      · have zero : sampleGet ((i, y) :: m) k = 0 := sampleGet_below fun z hz =>
          (List.mem_cons.1 hz).elim (fun e => e ▸ hlt) fun hz => lt_trans hlt (above z hz)
        rw [if_pos hx]
        exact (ite_eq_right_iff.2 fun hj => by rw [hj, zero, hx]).symm
      · rw [if_neg hx] at put ⊢
        exact sampleGet_cons j put
    rw [if_neg hlt] at put ⊢
    rw [sampleGet_cons j h]
    by_cases hk : k = i
    · subst hk
      rw [if_pos rfl] at put ⊢
      by_cases hx : x = 0
      · have zero : sampleGet m k = 0 := sampleGet_below above
        rw [if_pos hx]
        by_cases hj : j = k
        · rw [if_pos hj, hj, zero, hx]
        · rw [if_neg hj, if_neg hj]
      · rw [if_neg hx] at put ⊢
        rw [sampleGet_cons j put]
        split <;> rfl
    · rw [if_neg hk] at put ⊢
      rw [sampleGet_cons j put, ih hm (List.pairwise_cons.1 put).2]
      by_cases hj : j = i
      · rw [if_pos hj, if_neg (by omega), if_pos hj]
      · rw [if_neg hj, if_neg hj]

/-! ### A staged tap (R215) -/

/-- The upper 24 bits of a signed 32-bit number are its 256th part, rounded down. -/
theorem fdiv_append_byte (x : BitVec 24) (y : Byte) : Int.fdiv (x ++ y : BitVec 32).toInt 256 = x.toInt := by
  have value : (x ++ y : BitVec 32).toInt = 256 * x.toInt + y.toNat := by
    simpa using BitVec.toInt_append (x := x) (y := y)
  have byte := y.isLt
  rw [value, Int.fdiv_eq_ediv_of_nonneg _ (by decide)]
  omega

theorem stagedTap_eq (m : Memory) (k : Nat) : stagedTap m k =
    Int.fdiv (m.readWord (0x2000 + 4 * k + 2) ++ m.readWord (0x2000 + 4 * k) : BitVec 32).toInt 256 := by
  have regroup (a b c d : Byte) : ((a ++ b : BitVec 16) ++ (c ++ d : BitVec 16) : BitVec 32) = (a ++ b ++ c : BitVec 24) ++ d :=
    (BitVec.append_assoc (x₁ := a ++ b) (x₂ := c) (x₃ := d)).symm
  rw [Memory.readWord, Memory.readWord, wordOfBytes, wordOfBytes, regroup, fdiv_append_byte]
  rfl

/-! ### A chunk copied (R42, R43) -/

/-- An entry put twice: the second replaces the first. -/
theorem putAt_putAt {α : Type} {n i : Nat} (hi : i < n) (x y d : α) (l : List α) :
    putAt n i x d (putAt n i y d l) = putAt n i x d l := by
  refine List.map_congr_left fun j hj => ?_
  by_cases h : j = i
  · rw [if_pos h, if_pos h]
  · rw [if_neg h, if_neg h, putAt_getD_other hi (List.mem_range.1 hj) h]

/-- Line memory with the next chunk of a set copied from a memory's staging area, and its entry replaced. -/
def LineMemory.withChunk (l : LineMemory) (m : Memory) (id : Nat) (e : ImpulseEntry) : LineMemory :=
  let first := 480 * (l.impulse id).chunks
  let taps := (List.range (min 480 ((l.impulse id).taps - first))).map fun j => first + j
  { l with samples := taps.foldl (fun x k => samplePut x (lineIndex (l.blockList (.impulse id)) k) (stagedTap m k)) l.samples,
           impulses := putAt 16 id e ImpulseEntry.empty l.impulses }

theorem copyChunk_eq_withChunk (l : LineMemory) (m : Memory) (id : Nat) : l.copyChunk m id =
    l.withChunk m id ⟨(l.impulse id).state, (l.impulse id).taps, (l.impulse id).chunks + 1⟩ := rfl

section
variable {id : Nat} (hid : id < 16)
include hid

theorem withChunk_impulse (l : LineMemory) (m : Memory) (e : ImpulseEntry) : (l.withChunk m id e).impulse id = e :=
  putAt_getD_self hid _ _ _

theorem setImpulse_withChunk (l : LineMemory) (m : Memory) (e e' : ImpulseEntry) :
    setImpulse id e (l.withChunk m id e') = l.withChunk m id e := by
  unfold setImpulse LineMemory.withChunk
  dsimp only
  rw [putAt_putAt hid]

end

section
variable (m : Memory) {id : Nat} {s : State}

/-- A chunk whose set is no longer LOADING is not used. -/
theorem impulseChunkEnd_unused (h : (s.lines.impulse id).state ≠ .loading) : impulseChunkEnd m id s = s := if_neg h

/-- A chunk with taps left after it counts. -/
theorem impulseChunkEnd_counts (hid : id < 16) (h : (s.lines.impulse id).state = .loading)
    (more : 480 * ((s.lines.impulse id).chunks + 1) < (s.lines.impulse id).taps) :
    let e := s.lines.impulse id
    impulseChunkEnd m id s = { s with lines := s.lines.withChunk m id { e with chunks := e.chunks + 1 } } := by
  unfold impulseChunkEnd
  rw [if_pos h, copyChunk_eq_withChunk]
  dsimp only
  rw [withChunk_impulse hid, if_pos more]
  rfl

/-- The last chunk makes the set RESIDENT and completes the RUNNING load. -/
theorem impulseChunkEnd_completes (hid : id < 16) (h : (s.lines.impulse id).state = .loading)
    (last : (s.lines.impulse id).taps ≤ 480 * ((s.lines.impulse id).chunks + 1)) :
    let taps := (s.lines.impulse id).taps
    let done := { s with lines := s.lines.withChunk m id ⟨.resident, taps, (s.lines.impulse id).chunks + 1⟩ }
    impulseChunkEnd m id s = (s.runningSlot .lineMemory).elim done fun i =>
      complete i .ok ResultFlags.none [word id, word taps, word ((taps + 959) / 960)] done := by
  unfold impulseChunkEnd
  rw [if_pos h, copyChunk_eq_withChunk]
  dsimp only
  rw [withChunk_impulse hid, if_neg (by simpa using last), setImpulse_withChunk hid]
  show (match s.runningSlot .lineMemory with | none => _ | some i => _) = _
  cases s.runningSlot .lineMemory <;> rfl

end

/-! ### The end of a chunk's burst -/

@[simp] theorem endBurst_slots (s : State) : (endBurst s).disp.slots = s.disp.slots := by
  unfold endBurst
  cases s.disp.port.hostWait with
  | none => rfl
  | some acc => cases acc <;> rfl

@[simp] theorem endBurst_runningSlot (s : State) (o : Owner) : (endBurst s).runningSlot o = s.runningSlot o := by
  unfold State.runningSlot State.slot
  rw [endBurst_slots]

theorem exec_impulseChunk_of_running {s : State} {id : Nat} (hs : s.resetHeld = false)
    (h : s.disp.port.running = some (.impulseChunk id)) :
    exec .impulseChunk s = .next (publish s (finish (impulseChunkEnd s.mem id (endBurst s)))) := by
  have effect : endImpulseChunk s = impulseChunkEnd s.mem id (endBurst s) := by rw [endImpulseChunk, h]
  rw [← effect]
  exact plain_of_free (fun s => finish (endImpulseChunk s)) hs

/-- Settles O37: the samples of line memory as a table, a staged tap by its bytes, and the end of a chunk's burst by
whether the set is LOADING and whether taps are left. -/
theorem impulseChunkCountsAndCompletes : Obligations.ImpulseChunkCountsAndCompletes := by
  refine ⟨fun m k j x h => ⟨sampleGet_samplePut k j x h, samplePut_rises k x h⟩, fun _ _ => rfl, stagedTap_eq,
    fun s id hs hid hrun => ?_⟩
  have hl := endBurst_lines s
  have hr := endBurst_runningSlot s .lineMemory
  rw [exec_impulseChunk_of_running hs hrun]
  refine ⟨fun unused => ?_, fun loading more => ?_, fun loading last => ?_⟩
  · rw [impulseChunkEnd_unused _ (by rwa [hl])]
  · rw [impulseChunkEnd_counts _ hid (by rwa [hl]) (by rwa [hl]), hl]
    rfl
  · rw [impulseChunkEnd_completes _ hid (by rwa [hl]) (by rwa [hl]), hl, hr]
    refine ⟨fun i hi => ?_, fun hn => ?_⟩
    · rw [hi]; rfl
    · rw [hn]; rfl

end Sys2Proof.Machine
end

section
/-! Sitting 2, allocation (R33, R35, R36, R56, R74): the blocks taken from a map, an allocate request, and what the scene
unit makes of its answer. -/

namespace Sys2Proof.Machine

/-! ### Blocks taken from a map (R36) -/

section
variable {h : Holder} {rest : List Holder} {n i : Nat}

theorem takeFree_takes (hn : 0 < n) : takeFree h (.free :: rest) n i =
    (h :: (takeFree h rest (n - 1) (i + 1)).1, i :: (takeFree h rest (n - 1) (i + 1)).2) := by
  rw [takeFree, if_pos ⟨rfl, hn⟩]

theorem takeFree_passes {x : Holder} (hx : ¬ (x = .free ∧ 0 < n)) : takeFree h (x :: rest) n i =
    (x :: (takeFree h rest n (i + 1)).1, (takeFree h rest n (i + 1)).2) := by
  rw [takeFree, if_neg hx]

end

/-- The blocks taken are the FREE ones with fewer than `n` FREE blocks before them. -/
theorem mem_takeFree {h : Holder} {m : List Holder} {n i b : Nat} : b ∈ (takeFree h m n i).2 ↔
    ∃ j, b = i + j ∧ m[j]? = some .free ∧ countHolders (· == .free) (m.take j) < n := by
  induction m generalizing n i with
  | nil => simp [takeFree]
  | cons x m ih =>
    have split_first : (∃ j, b = i + j ∧ (x :: m)[j]? = some .free ∧ countHolders (· == .free) ((x :: m).take j) < n) ↔
        (b = i ∧ x = .free ∧ 0 < n) ∨ ∃ j, b = i + 1 + j ∧ m[j]? = some .free ∧
          (if x == .free then 1 else 0) + countHolders (· == .free) (m.take j) < n := by
      constructor
      · rintro ⟨j, hb, hf, hc⟩
        cases j with
        | zero => exact .inl ⟨hb, by simpa using hf, hc⟩
        | succ j => exact .inr ⟨j, by omega, by simpa using hf, by simpa [countHolders_cons] using hc⟩
      · rintro (⟨hb, hf, hn⟩ | ⟨j, hb, hf, hc⟩)
        · exact ⟨0, hb, by simp [hf], hn⟩
        · exact ⟨j + 1, by omega, by simpa using hf, by simpa [countHolders_cons] using hc⟩
    rw [split_first]
    by_cases hx : x = .free ∧ 0 < n
    · obtain ⟨rfl, hn⟩ := hx
      rw [takeFree_takes hn, List.mem_cons, ih]
      simp only [hn, and_true, beq_self_eq_true, if_true, Nat.lt_sub_iff_add_lt']
    · rw [takeFree_passes hx, ih]
      have not_first : ¬ (b = i ∧ x = .free ∧ 0 < n) := fun hb => hx hb.2
      simp only [not_first, false_or]
      by_cases hf : x = .free
      · have none_left : n = 0 := by by_contra hn; exact hx ⟨hf, by omega⟩
        simp [none_left]
      · simp [hf]

theorem mem_takeFree_whole {h : Holder} {m : List Holder} {n b : Nat} :
    b ∈ (takeFree h m n 0).2 ↔ m[b]? = some .free ∧ countHolders (· == .free) (m.take b) < n := by
  simp [mem_takeFree]

theorem getElem?_eq_some_iff_getD {α : Type} {m : List α} {b : Nat} {x : α} (d : α) :
    m[b]? = some x ↔ b < m.length ∧ m.getD b d = x := by
  rw [List.getElem?_eq_some_iff]
  exact ⟨fun ⟨hb, hx⟩ => ⟨hb, (List.getD_eq_getElem _ _ hb).trans hx⟩,
    fun ⟨hb, hx⟩ => ⟨hb, (List.getD_eq_getElem _ _ hb).symm.trans hx⟩⟩

theorem takeFree_above {h : Holder} {m : List Holder} {n i b : Nat} (hb : b ∈ (takeFree h m n i).2) : i ≤ b := by
  obtain ⟨j, rfl, -⟩ := mem_takeFree.1 hb
  omega

theorem takeFree_rises (h : Holder) (m : List Holder) (n i : Nat) : (takeFree h m n i).2.Pairwise (· < ·) := by
  induction m generalizing n i with
  | nil => simp [takeFree]
  | cons x m ih =>
    by_cases hx : x = .free ∧ 0 < n
    · obtain ⟨rfl, hn⟩ := hx
      rw [takeFree_takes hn]
      exact List.pairwise_cons.2 ⟨fun b hb => takeFree_above hb, ih _ _⟩
    · rw [takeFree_passes hx]
      exact ih _ _

/-- A block taken is the holder's, and every other stays. -/
theorem takeFree_get (h : Holder) (m : List Holder) (n i j : Nat) :
    (takeFree h m n i).1[j]? = m[j]?.map fun x => if i + j ∈ (takeFree h m n i).2 then h else x := by
  induction m generalizing n i j with
  | nil => simp [takeFree]
  | cons x m ih =>
    have before : ∀ n, i ∉ (takeFree h m n (i + 1)).2 := fun n hi => by have := takeFree_above hi; omega
    by_cases hx : x = .free ∧ 0 < n
    · obtain ⟨rfl, hn⟩ := hx
      rw [takeFree_takes hn]
      cases j with
      | zero => simp
      | succ j => simp [ih, show i + 1 + j = i + (j + 1) by omega]
    · rw [takeFree_passes hx]
      cases j with
      | zero => simp [before]
      | succ j => simp [ih, show i + 1 + j = i + (j + 1) by omega]

theorem takeFree_getD (h : Holder) {m : List Holder} (n : Nat) {b : Nat} (hb : b < m.length) :
    (takeFree h m n 0).1.getD b .free = if b ∈ (takeFree h m n 0).2 then h else m.getD b .free := by
  rw [List.getD_eq_getElem?_getD, List.getD_eq_getElem?_getD, takeFree_get, List.getElem?_eq_getElem hb, Nat.zero_add]
  rfl

/-- As many FREE blocks go as are taken. -/
theorem takeFree_freeCount {h : Holder} {m : List Holder} {n : Nat} (i : Nat) (hh : h ≠ .free)
    (hn : n ≤ countHolders (· == .free) m) :
    countHolders (· == .free) (takeFree h m n i).1 + n = countHolders (· == .free) m := by
  induction m generalizing n i with
  | nil => simpa [takeFree, countHolders] using hn
  | cons x m ih =>
    rw [countHolders_cons] at hn
    by_cases hx : x = .free ∧ 0 < n
    · obtain ⟨rfl, hpos⟩ := hx
      have rest := ih (n := n - 1) (i + 1) (by simp at hn; omega)
      rw [takeFree_takes hpos, countHolders_cons, countHolders_cons, ← rest]
      simp [hh]
      omega
    · have rest := ih (n := n) (i + 1) (by
        by_cases hf : x = .free
        · have : n = 0 := by by_contra hn; exact hx ⟨hf, by omega⟩
          omega
        · simpa [hf] using hn)
      rw [takeFree_passes hx, countHolders_cons, countHolders_cons, ← rest]
      omega

/-! ### The needs of a record (R33, R35) -/

theorem StageRecord.need_eq (ln : LaneId) (x : StageRecord) : x.need ln = match x.kind with
    | .delay => some ⟨ln, x.position, .blocks (((x.params.getD 0 0).toNat + 19) / 20)⟩
    | .verb => some ⟨ln, x.position, .blocks 40⟩
    | .cab => some ⟨ln, x.position, .cab (x.params.getD 0 0).toNat (x.params.getD 1 0).toNat⟩
    | _ => none := by
  unfold StageRecord.need
  cases x.kind <;> rfl

theorem Need.missing_iff (l : LineMemory) (n : Need) :
    n.missing l = true ↔ ∃ id taps, n.kind = .cab id taps ∧ (l.impulse id).state ≠ .resident := by
  unfold Need.missing
  cases n.kind <;> simp

/-! ### One need served (R36) -/

section
variable (k : BankId) (l : LineMemory) {n : Need}

theorem serve_blocks {c : Nat} (h : n.kind = .blocks c) :
    let taken := takeFree (.stage k n.lane n.position) l.map c 0
    l.serve k n = { l with map := taken.1, zeroQueue := l.zeroQueue ++ taken.2.map fun b => (b, k) } := by
  rw [LineMemory.serve, h]

theorem serve_cab {id taps : Nat} (h : n.kind = .cab id taps) :
    l.serve k n = { l with users := l.users ++ [⟨k, n.lane, n.position, id⟩] } := by
  rw [LineMemory.serve, h]

theorem cabAnswer_blocks {c : Nat} (h : n.kind = .blocks c) : n.cabAnswer l = none := by
  rw [Need.cabAnswer, h]

theorem cabAnswer_cab {id taps : Nat} (h : n.kind = .cab id taps) : n.cabAnswer l =
    some ⟨n.lane, n.position, min taps (l.impulse id).taps, decide ((l.impulse id).taps < taps)⟩ := by
  rw [Need.cabAnswer, h]

/-- A need served takes its block count from the FREE blocks. -/
theorem serve_freeCount (h : n.blockCount ≤ l.freeCount) : (l.serve k n).freeCount + n.blockCount = l.freeCount := by
  unfold Need.blockCount at h ⊢
  cases hk : n.kind with
  | blocks c =>
    rw [hk] at h
    rw [serve_blocks k l hk]
    exact takeFree_freeCount 0 (by simp) h
  | cab id taps =>
    rw [serve_cab k l hk]
    rfl

end

theorem serveAll_freeCount (k : BankId) (l : LineMemory) (needs : List Need)
    (h : (needs.map Need.blockCount).sum ≤ l.freeCount) :
    (needs.foldl (LineMemory.serve k) l).freeCount + (needs.map Need.blockCount).sum = l.freeCount := by
  induction needs generalizing l with
  | nil => rfl
  | cons n needs ih =>
    rw [List.map_cons, List.sum_cons] at h ⊢
    have served := serve_freeCount k l (n := n) (by omega)
    have rest := ih (l.serve k n) (by omega)
    rw [List.foldl_cons]
    omega

/-! ### An allocate request (R35, R36) -/

section
variable (l : LineMemory) (k : BankId) {needs : List Need}

/-- The first CAB need whose set is not RESIDENT is answered. -/
theorem allocate_missing {before after : List Need} {n : Need} {id taps : Nat} (hn : needs = before ++ n :: after)
    (hk : n.kind = .cab id taps) (hm : ((l.freeBank k).impulse id).state ≠ .resident)
    (hb : ∀ x ∈ before, ∀ id' taps', x.kind = .cab id' taps' → ((l.freeBank k).impulse id').state = .resident) :
    l.allocate k needs = (l.freeBank k, .missingImpulse n.lane n.position id) := by
  have found : needs.find? (Need.missing (l.freeBank k)) = some n := by
    refine List.find?_eq_some_iff_append.2 ⟨(Need.missing_iff _ n).2 ⟨id, taps, hk, hm⟩, before, after, hn, fun x hx => ?_⟩
    rw [Bool.not_eq_true', Bool.eq_false_iff, ne_eq, Need.missing_iff]
    rintro ⟨id', taps', hx', hs⟩
    exact hs (hb x hx id' taps' hx')
  simp only [LineMemory.allocate, found, hk]

variable (hr : ∀ x ∈ needs, ∀ id taps, x.kind = .cab id taps → ((l.freeBank k).impulse id).state = .resident)
include hr

theorem find_missing_of_resident : needs.find? (Need.missing (l.freeBank k)) = none := by
  refine List.find?_eq_none.2 fun x hx => ?_
  rw [Need.missing_iff]
  rintro ⟨id, taps, hk, hs⟩
  exact hs (hr x hx id taps hk)

theorem allocate_lacking (h : (l.freeBank k).freeCount < (needs.map Need.blockCount).sum) :
    l.allocate k needs =
      (l.freeBank k, .noLineMemory (needs.map Need.blockCount).sum (l.freeBank k).freeCount) := by
  simp only [LineMemory.allocate, find_missing_of_resident l k hr, if_pos h]

theorem allocate_served (h : (needs.map Need.blockCount).sum ≤ (l.freeBank k).freeCount) :
    l.allocate k needs = (needs.foldl (LineMemory.serve k) (l.freeBank k),
      .ok (needs.filterMap (Need.cabAnswer (l.freeBank k))) ((needs.map Need.blockCount).sum == 0)) := by
  simp only [LineMemory.allocate, find_missing_of_resident l k hr, if_neg (Nat.not_lt.2 h)]

end

/-! ### What the scene unit makes of the answer (R56, R74) -/

theorem liveBlocks_eq (s : State) : s.liveBlocks = s.liveBank.elim 0 s.lines.bankBlocks := by
  unfold State.liveBlocks
  cases s.liveBank <;> rfl

section
variable {s : State} {rec' : SceneRecord} {r : Request} {l : LineMemory} (hrec : s.scene.record = some rec')
  (hlatch : s.scene.latch = some r)
include hrec hlatch

theorem allocateLoad_ok {cabs : List CabAnswer} {tookNone : Bool}
    (h : s.lines.allocate s.loadBank rec'.needs = (l, .ok cabs tookNone)) :
    let waiting := { s with lines := l, scene := { s.scene with state := .zeroing, cabs := cabs } }
    allocateLoad s = if tookNone then sendFill waiting else waiting := by
  unfold allocateLoad
  rw [hrec, hlatch]
  dsimp only
  rw [h]
  rfl

theorem allocateLoad_missing {ln : LaneId} {p id : Nat}
    (h : s.lines.allocate s.loadBank rec'.needs = (l, .missingImpulse ln p id)) :
    allocateLoad s = failLoad .missingImpulse [word (laneNumber ln), word p, word id] { s with lines := l } := by
  unfold allocateLoad
  rw [hrec, hlatch]
  dsimp only
  rw [h]
  rfl

/-- Too few FREE blocks: a lean switch for a GO that the LIVE bank's blocks would serve, or else a failed load. -/
theorem allocateLoad_lacking {needed free : Nat}
    (h : s.lines.allocate s.loadBank rec'.needs = (l, .noLineMemory needed free)) :
    allocateLoad s =
      if r.kind = .go ∧ r.origin ≠ .preload ∧ s.scene.leanLoad = false ∧
          needed ≤ free + s.liveBank.elim 0 s.lines.bankBlocks then
        startLean r rec'.profile { s with lines := l }
      else failLoad .noLineMemory [word needed, word free] { s with lines := l } := by
  rw [← liveBlocks_eq]
  unfold allocateLoad
  rw [hrec, hlatch]
  dsimp only
  rw [h]
  rfl

end

/-- Settles O35: the needs of a record, the blocks taken from a map, an allocate request by the first CAB need that is
missing and by its total, and the scene unit by the answer. -/
theorem allocationTakesLowestFreeBlocks : Obligations.AllocationTakesLowestFreeBlocks := by
  refine ⟨fun r => ?needs, fun _ => rfl, ⟨rfl, rfl⟩, fun h m n hh => ⟨fun b => ?member, takeFree_rises h m n 0,
    takeFree_length h m n 0, fun b hb => ?entry⟩, fun l k needs => ⟨fun before after n id taps => ?missing, fun hr => ?served⟩,
    fun l k n => ⟨fun c hc => ⟨serve_blocks k l hc, cabAnswer_blocks l hc⟩,
      fun id taps hc => ⟨serve_cab k l hc, cabAnswer_cab l hc⟩⟩, fun s rec' r hrec hlatch => ?scene⟩
  case needs =>
    simp only [SceneRecord.needs, LaneRecord.needs, funext (StageRecord.need_eq _)] <;> rfl
  case member => rw [mem_takeFree_whole, getElem?_eq_some_iff_getD h, and_assoc]; rfl
  case entry => exact takeFree_getD h n hb
  case missing => exact allocate_missing l k
  case served =>
    refine ⟨allocate_lacking l k hr, fun h => ⟨allocate_served l k hr h, ?_⟩⟩
    rw [allocate_served l k hr h]
    exact serveAll_freeCount k _ needs h
  case scene =>
    refine ⟨fun cabs ha => allocateLoad_ok hrec hlatch (Prod.ext rfl ha),
      fun cabs ha => allocateLoad_ok hrec hlatch (Prod.ext rfl ha),
      fun ln q id ha => allocateLoad_missing hrec hlatch (Prod.ext rfl ha), fun needed free ha => ?_⟩
    have answer := allocateLoad_lacking hrec hlatch (Prod.ext rfl ha)
    exact ⟨fun lean => answer.trans (if_pos lean), fun hard => answer.trans (if_neg hard)⟩

end Sys2Proof.Machine
end

section
/-! Sitting 3: scene changes (chapter 3). The roles of the banks, the completions of requests, the events that fall at a
boundary, and the fade's end. -/

namespace Sys2Proof.Machine

/-! ### Banks by name and by role (R50, R51) -/

section
variable {α : Type} (p : PerBank α) (x y : α)

@[simp] theorem PerBank.get_set_self (k : BankId) : (p.set k x).get k = x := by cases k <;> rfl

theorem PerBank.get_set_other {j k : BankId} (h : j ≠ k) : (p.set k x).get j = p.get j := by
  cases j <;> cases k <;> simp_all [PerBank.get, PerBank.set]

@[simp] theorem PerBank.set_set (k : BankId) : (p.set k x).set k y = p.set k y := by cases k <;> rfl

end

theorem otherBank_ne (k : BankId) : otherBank k ≠ k := by cases k <;> decide

section
variable {s : State} {k : BankId}

theorem bankCtl_setBankCtl_self (x : BankControl) : (setBankCtl k x s).bankCtl k = x := PerBank.get_set_self ..

theorem bankCtl_setBankCtl_other {j : BankId} (x : BankControl) (h : j ≠ k) :
    (setBankCtl k x s).bankCtl j = s.bankCtl j := PerBank.get_set_other _ _ h

theorem bankCtl_of_liveBank (h : s.liveBank = some k) : (s.bankCtl k).state = .live := by
  unfold State.liveBank at h
  split at h
  · next ha => cases h; exact ha
  · split at h
    · next hb => cases h; exact hb
    · cases h

theorem bankCtl_of_noneLive (h : s.liveBank = none) (j : BankId) : (s.bankCtl j).state ≠ .live := by
  unfold State.liveBank at h
  split at h
  · cases h
  · split at h
    · cases h
    · cases j <;> assumption

theorem loadBank_eq (s : State) : s.loadBank = match s.liveBank, s.scene.lastLive with
    | some k, _ => otherBank k
    | none, some k => otherBank k
    | none, none => .a := by
  unfold State.loadBank
  cases s.liveBank with
  | some _ => rfl
  | none => cases s.scene.lastLive <;> rfl

theorem loadBank_of_liveBank (h : s.liveBank = some k) : s.loadBank = otherBank k := by rw [loadBank_eq, h]

/-- A bank that is not LIVE and does not become so leaves the LIVE bank what it is. -/
theorem liveBank_setBankCtl {x : BankControl} (h : (s.bankCtl k).state ≠ .live) (hx : x.state ≠ .live) :
    (setBankCtl k x s).liveBank = s.liveBank := by
  cases k with
  | a => exact (if_neg hx).trans (if_neg h).symm
  | b =>
    exact congrArg (fun o => if s.scene.banks.a.state = .live then some BankId.a else o)
      ((if_neg hx).trans (if_neg h).symm)

theorem loadBank_setBankCtl {x : BankControl} (h : (s.bankCtl k).state ≠ .live) (hx : x.state ≠ .live) :
    (setBankCtl k x s).loadBank = s.loadBank := by
  rw [loadBank_eq, loadBank_eq, liveBank_setBankCtl h hx]
  rfl

end

/-! ### Completions of requests (R53, R59, R64) -/

@[simp] theorem completeSlot_scene (i : Option Nat) (code : ResultCode) (flags : ResultFlags) (words : List Word)
    (s : State) : (completeSlot i code flags words s).scene = s.scene := by
  cases i with
  | none => rfl
  | some i => exact complete_scene ..

theorem Request.slot_of_origin {r : Request} {i : Nat} (h : r.origin = .slot i) : r.slot = some i := by
  rw [Request.slot, h]

theorem Request.slot_of_other {r : Request} (h : ∀ i, r.origin ≠ .slot i) : r.slot = none := by
  unfold Request.slot
  split
  · next i hi => exact absurd hi (h i)
  · rfl

/-! ### Events that fall at a boundary -/

/-- An event of the scene unit acts on the boundary that arrives with it or stands, when it is due there. -/
theorem plain_atBoundary_of_due {s : State} {due : State → Bool} (f : State → State) (hs : s.resetHeld = false)
    (h : due (openBoundary s) = true) : plain (atBoundary due f) s = .next (publish s (f (openBoundary s))) := by
  rw [plain_of_free _ hs, atBoundary]
  exact congrArg (fun t => Host.Outcome.next (publish s t)) (if_pos h)

/-- One that is not due leaves the part as it is (log 1). -/
theorem plain_atBoundary_of_not_due {s : State} {due : State → Bool} (f : State → State) (hs : s.resetHeld = false)
    (h : due (openBoundary s) = false) : plain (atBoundary due f) s = .next (publish s s) := by
  rw [plain_of_free _ hs, atBoundary]
  exact congrArg (fun t => Host.Outcome.next (publish s t)) (if_neg (by simp [h]))

/-! ### The fade's end (R70, R72) -/

theorem Fade.endAt_eq (f : Fade) :
    f.endAt = if f.oldBank = none ∨ f.mode = .blend then f.swapAt + f.f else f.swapAt + 2 * f.f + f.g := by
  unfold Fade.endAt
  cases f.oldBank with
  | none => rfl
  | some k => cases f.mode <;> rfl

theorem fadeOutDue_iff (s : State) : s.fadeOutDue = true ↔ ∃ f k, s.scene.fade = some f ∧ f.oldBank = some k ∧
    (s.bankCtl k).state = .outgoing ∧ f.swapAt + f.f ≤ s.frames := by
  unfold State.fadeOutDue
  cases s.scene.fade with
  | none => simp
  | some f => cases hk : f.oldBank <;> simp [hk]

theorem fadeEndDue_iff (s : State) : s.fadeEndDue = true ↔
    ∃ f, s.scene.fade = some f ∧ s.scene.state = .fading ∧ f.endAt ≤ s.frames := by
  unfold State.fadeEndDue
  cases s.scene.fade <;> simp

theorem Fade.endOwner_slot {f : Fade} {i : Nat} (choose : State → State) (s : State) (h : f.owner.origin = .slot i) :
    f.endOwner choose s =
      choose (complete i .ok f.flags [word f.owner.scene, bankWord f.newBank, word f.mode.code] s) := by
  rw [Fade.endOwner, h]

theorem Fade.endOwner_setList {f : Fade} {i : Nat} (choose : State → State) (s : State)
    (h : f.owner.origin = .setList i) : f.endOwner choose s = { s with scene := { s.scene with
      preloadMark := s.scene.preloadMark || s.scene.setList.preload } } := by
  rw [Fade.endOwner, h]
  rfl

theorem Fade.endOwner_other {f : Fade} (choose : State → State) (s : State) (h : ∀ i, f.owner.origin ≠ .slot i)
    (hl : ∀ i, f.owner.origin ≠ .setList i) : f.endOwner choose s = s := by
  unfold Fade.endOwner
  split
  · next i hi => exact absurd hi (h i)
  · next i hi => exact absurd hi (hl i)
  · rfl

section
variable {s : State} {f : Fade} (choose : State → State) (hf : s.scene.fade = some f)
include hf

theorem fadeEnd_of_empty_latch (h : (f.endOwner choose s).scene.latch = none) : fadeEnd choose s =
    { f.endOwner choose s with scene := { (f.endOwner choose s).scene with state := .idle, fade := none } } := by
  unfold fadeEnd
  rw [hf]
  dsimp only [setScene]
  rw [h]

theorem fadeEnd_of_latch {r : Request} (h : (f.endOwner choose s).scene.latch = some r) : fadeEnd choose s =
    takeRequest r { f.endOwner choose s with scene := { (f.endOwner choose s).scene with
      state := .idle, fade := none, latch := none } } := by
  unfold fadeEnd
  rw [hf]
  dsimp only [setScene]
  rw [h]
  rfl

end

theorem exec_fadeEnd_of_due {s : State} (hs : s.resetHeld = false) (h : (openBoundary s).fadeEndDue = true) :
    exec .fadeEnd s = .next (publish s (finish (fadeEnd chooseScene
      (force State.fadeOutDue fadeOutEnd (openBoundary s))))) :=
  plain_atBoundary_of_due _ hs h

/-- Settles O43: the owner by its origin, then the latch as the owner's end leaves it. -/
theorem fadeEndCompletesOwner : Obligations.FadeEndCompletesOwner := by
  refine ⟨fun _ => rfl, Fade.endAt_eq, fadeOutDue_iff, fun s f hs hfade hstate hend hkept => ?_⟩
  have run := exec_fadeEnd_of_due hs ((fadeEndDue_iff _).2 ⟨f, hfade, hstate, hend⟩)
  refine ⟨f.endOwner chooseScene _, fun i => Fade.endOwner_slot _ _, fun i => Fade.endOwner_setList _ _,
    Fade.endOwner_other _ _, fun hl => ?_, fun r hl => ?_⟩
  · rw [run]
    exact congrArg (fun t => Host.Outcome.next (publish s (finish t))) (fadeEnd_of_empty_latch chooseScene hkept hl)
  · rw [run]
    exact congrArg (fun t => Host.Outcome.next (publish s (finish t))) (fadeEnd_of_latch chooseScene hkept hl)

end Sys2Proof.Machine
end

section
/-! Sitting 3: the fade-out's end, trails and cuts (R70, R71, R73), and what the free of a bank leaves to its trails (R38). -/

namespace Sys2Proof.Machine

/-! ### When they are due -/

theorem gapFadeInDue_iff (s : State) : s.gapFadeInDue = true ↔
    ∃ f, s.scene.fade = some f ∧ f.heldBack = true ∧ f.swapAt + f.f + f.g ≤ s.frames := by
  unfold State.gapFadeInDue
  cases s.scene.fade <;> simp

theorem trailDue_iff (s : State) (k : BankId) : s.trailDue k = true ↔
    (s.bankCtl k).state = .trailing ∧ (s.bankCtl k).trailEnd ≤ s.frames := by simp [State.trailDue]

theorem cutDue_iff (s : State) (k : BankId) : s.cutDue k = true ↔
    (s.bankCtl k).state = .cutting ∧ (s.bankCtl k).cutFrom + 16 ≤ s.frames := by simp [State.cutDue]

/-! ### A bank emptied or cut (R38, R71, R73) -/

theorem emptyBank_eq (k : BankId) (release : Bool) (s : State) : emptyBank k release s = { s with
    lines := s.lines.freeBank k, scene := { s.scene with banks := s.scene.banks.set k BankControl.reset },
    lane := if release then { s.lane with bankRequests := s.lane.bankRequests ++ [.release k] } else s.lane } := by
  cases release <;> rfl

@[simp] theorem emptyBank_latch (k : BankId) (release : Bool) (s : State) :
    (emptyBank k release s).scene.latch = s.scene.latch := by rw [emptyBank_eq]

@[simp] theorem emptyBank_sceneState (k : BankId) (release : Bool) (s : State) :
    (emptyBank k release s).scene.state = s.scene.state := by rw [emptyBank_eq]

theorem loadBank_emptyBank {s : State} {k : BankId} (release : Bool) (h : (s.bankCtl k).state ≠ .live) :
    (emptyBank k release s).loadBank = s.loadBank := by
  have freed : (setBankCtl k BankControl.reset (freeBank k s)).loadBank = s.loadBank :=
    loadBank_setBankCtl (s := freeBank k s) h (by decide)
  rw [← freed]
  cases release <;> rfl

/-- At a boundary that stands, a cut's first frame is the one that begins (R73; log 20). -/
theorem startCut_of_opened {s : State} (k : BankId) (h : s.opened = true) : startCut k s = { s with scene := { s.scene with
    banks := s.scene.banks.set k { s.bankCtl k with state := .cutting, cutFrom := s.frames } } } := by
  rw [startCut, if_pos h]
  rfl

/-! ### The fade-out's end (R71) -/

section
variable {s : State} {f : Fade} {k : BankId} (hf : s.scene.fade = some f) (hk : f.oldBank = some k)
include hf

theorem gapFadeIn_of_fade :
    gapFadeIn s = { s with scene := { s.scene with fade := some { f with heldBack := false } } } := by
  rw [gapFadeIn, hf]
  rfl

include hk

theorem fadeOutEnd_of_trails (h : f.trailsKept = true) : fadeOutEnd s = { s with
    lines := s.lines.freeUntrailed k (s.lane.banks.get k).trailOf,
    scene := { s.scene with banks := (s.scene.banks.set k
      { s.bankCtl k with state := .trailing, trailEnd := s.frames + (s.bankCtl k).tailHold }) },
    lane := { s.lane with banks := s.lane.banks.set k { s.lane.banks.get k with gain := 1000 } } } := by
  unfold fadeOutEnd
  rw [hf]
  dsimp only
  rw [hk]
  exact if_pos h

theorem fadeOutEnd_of_no_trails (h : f.trailsKept = false) : fadeOutEnd s = emptyBank k true s := by
  unfold fadeOutEnd
  rw [hf]
  dsimp only
  rw [hk]
  exact if_neg (by simp [h])

end

/-! ### The free of the blocks without the trail flag (R38) -/

theorem trailOf_eq_false_iff (bank : Bank) (ln : LaneId) (q : Nat) :
    bank.trailOf ln q = false ↔ ∀ x, bank.stageAt ln q = some x → x.trail = false := by
  change (match bank.stageAt ln q with | none => false | some x => x.trail) = false ↔ _
  cases bank.stageAt ln q <;> simp

/-- A holder whose blocks go when a bank's trails are kept: a stage of the bank without the trail flag. -/
def Holder.untrailed (k : BankId) (trail : LaneId → Nat → Bool) : Holder → Bool
  | .stage k' ln q => k' == k && !trail ln q
  | _ => false

theorem Holder.untrailed_iff (k : BankId) (bank : Bank) (h : Holder) : h.untrailed k bank.trailOf = true ↔
    ∃ ln q, h = .stage k ln q ∧ ∀ x, bank.stageAt ln q = some x → x.trail = false := by
  simp only [← trailOf_eq_false_iff]
  cases h with
  | free => simp [Holder.untrailed]
  | impulse id => simp [Holder.untrailed]
  | stage k' ln q =>
    simp only [Holder.untrailed, Bool.and_eq_true, beq_iff_eq, Bool.not_eq_true', Holder.stage.injEq]
    constructor
    · rintro ⟨rfl, h⟩
      exact ⟨ln, q, ⟨rfl, rfl, rfl⟩, h⟩
    · rintro ⟨_, _, ⟨rfl, rfl, rfl⟩, h⟩
      exact ⟨rfl, h⟩

theorem freeUntrailed_eq (l : LineMemory) (k : BankId) (trail : LaneId → Nat → Bool) : l.freeUntrailed k trail = { l with
    map := freeWhere (Holder.untrailed k trail) l.map, users := l.users.filter fun u => u.bank != k,
    zeroQueue := l.zeroQueue.filter fun x => !(l.map.getD x.1 .free).untrailed k trail } := rfl

theorem freeWhere_get {m : List Holder} {n : Nat} {h : Holder} (p : Holder → Bool) (hn : m[n]? = some h) :
    (freeWhere p m)[n]? = some (if p h then .free else h) := by
  rw [freeWhere, List.getElem?_map, hn]
  rfl

/-! ### The cut's end (R73) -/

/-- A bank whose cut has ended, for the load that waits for it. -/
def claimBank (k : BankId) (scene : Nat) (s : State) : State :=
  setBankCtl k { BankControl.reset with state := .loading, scene := some scene } (emptyBank k true s)

theorem claimBank_eq (k : BankId) (scene : Nat) (s : State) : claimBank k scene s = { s with
    lines := s.lines.freeBank k,
    scene := { s.scene with
      banks := (s.scene.banks.set k { BankControl.reset with state := .loading, scene := some scene }) },
    lane := { s.lane with bankRequests := s.lane.bankRequests ++ [.release k] } } := by
  simp only [claimBank, setBankCtl, setScene, emptyBank_eq, PerBank.set_set, if_true]

section
variable {s : State} {k : BankId} (hc : (s.bankCtl k).state ≠ .live)
include hc

/-- No load waits for the bank. -/
theorem cutEnd_of_unclaimed (h : s.scene.latch = none ∨ k ≠ s.loadBank ∨
    (s.scene.state ≠ .fetching ∧ s.scene.state ≠ .allocating)) : cutEnd k s = emptyBank k true s := by
  have hload := loadBank_emptyBank true hc
  unfold cutEnd
  simp only [emptyBank_latch, emptyBank_sceneState, hload]
  split
  · rfl
  · next r hr =>
    refine if_neg ?_
    rintro ⟨hk, hst⟩
    rcases h with h | h | ⟨hf, ha⟩
    · rw [hr] at h
      cases h
    · exact h hk
    · exact hst.elim hf ha

/-- A load in FETCHING or ALLOCATING waits for the bank. -/
theorem cutEnd_of_claimed {r : Request} (hr : s.scene.latch = some r) (hk : k = s.loadBank)
    (h : s.scene.state = .fetching ∨ s.scene.state = .allocating) :
    cutEnd k s =
      if s.scene.state = .allocating then allocateLoad (claimBank k r.scene s) else claimBank k r.scene s := by
  unfold cutEnd
  simp only [emptyBank_latch, hr]
  rw [if_pos ⟨hk.trans (loadBank_emptyBank true hc).symm, by rwa [emptyBank_sceneState]⟩]
  rfl

end

section
variable {s : State} (hs : s.resetHeld = false)
include hs

theorem exec_gapFadeInStart_of_due (h : (openBoundary s).gapFadeInDue = true) :
    exec .gapFadeInStart s = .next (publish s (gapFadeIn (openBoundary s))) := plain_atBoundary_of_due _ hs h

theorem exec_fadeOutEnd_of_due (h : (openBoundary s).fadeOutDue = true) :
    exec .fadeOutEnd s = .next (publish s (finish (fadeOutEnd (openBoundary s)))) := plain_atBoundary_of_due _ hs h

theorem exec_trailTimerExpiry_of_due {k : BankId} (h : (openBoundary s).trailDue k = true) :
    exec (.trailTimerExpiry k) s = .next (publish s (startCut k (openBoundary s))) :=
  plain_atBoundary_of_due (due := fun s => s.trailDue k) _ hs h

theorem exec_cutEnd_of_due {k : BankId} (h : (openBoundary s).cutDue k = true) :
    exec (.cutEnd k) s = .next (publish s (finish (cutEnd k (openBoundary s)))) :=
  plain_atBoundary_of_due (due := fun s => s.cutDue k) _ hs h

end

/-- Settles O42: each event by what makes it due, the fade-out by whether the trails are kept, the cut's end by whether a
load waits for the bank, and the free block by block. -/
theorem fadeOutEndsAndTrailIsCut : Obligations.FadeOutEndsAndTrailIsCut := by
  refine ⟨fun s f hs hfade => ⟨fun held hdue => ?gap, fun k hk out hdue => ?fadeOut⟩, fun l k bank => ?freed,
    fun s k hs => ⟨fun hst hdue => ?trail, fun hst hdue => ?cut⟩⟩
  case gap =>
    rw [exec_gapFadeInStart_of_due hs ((gapFadeInDue_iff _).2 ⟨f, hfade, held, hdue⟩), gapFadeIn_of_fade hfade]
  case fadeOut =>
    rw [exec_fadeOutEnd_of_due hs ((fadeOutDue_iff _).2 ⟨f, k, hfade, hk, out, hdue⟩)]
    refine ⟨fun kept => ?_, fun gone => ?_⟩
    · rw [fadeOutEnd_of_trails hfade hk kept]
    · rw [fadeOutEnd_of_no_trails hfade hk gone, emptyBank_eq]
      rfl
  case freed =>
    rw [freeUntrailed_eq]
    refine ⟨fun n h hn => ⟨fun gone => ?_, fun stays => ?_⟩, by simp [freeWhere], rfl, List.filter_sublist,
      fun x hx => ?_, rfl, rfl, rfl⟩
    · exact (freeWhere_get _ hn).trans (congrArg some (if_pos ((Holder.untrailed_iff k bank h).2 gone)))
    · exact (freeWhere_get _ hn).trans (congrArg some (if_neg (mt (Holder.untrailed_iff k bank h).1 stays)))
    · exact Iff.trans (by simp [hx]) (not_congr (Holder.untrailed_iff k bank _))
  case trail =>
    rw [exec_trailTimerExpiry_of_due hs ((trailDue_iff _ _).2 ⟨hst, hdue⟩), startCut_of_opened k (openBoundary_opened s)]
  case cut =>
    have notLive : ((openBoundary s).bankCtl k).state ≠ .live := by rw [hst]; decide
    rw [exec_cutEnd_of_due hs ((cutDue_iff _ _).2 ⟨hst, hdue⟩)]
    refine ⟨fun unclaimed => ?_, fun r hr hk => ⟨fun fetching => ?_, fun allocating => ?_⟩⟩
    · rw [cutEnd_of_unclaimed notLive unclaimed, emptyBank_eq]
      rfl
    · rw [cutEnd_of_claimed notLive hr hk (.inl fetching), if_neg (by rw [fetching]; decide), claimBank_eq]
    · rw [cutEnd_of_claimed notLive hr hk (.inr allocating), if_pos allocating, claimBank_eq]

end Sys2Proof.Machine
end

section
/-! Sitting 3: the bound pairs (R120), the copies of the set list and of the binding table (R77, R144), and the end of a lean
fade-out (R75). -/

namespace Sys2Proof.Machine

/-! ### The bound pairs (R120) -/

theorem chordPair_eq_some (o : Option Entry) (q : Nat × Nat) : chordPair o = some q ↔
    ∃ e x y, o = some e ∧ e.trigger = .chord x y ∧ x ≠ y ∧ q = (min x y, max x y) := by
  constructor
  · intro h
    unfold chordPair at h
    split at h
    · cases h
    · next e =>
      split at h
      · next x y ht =>
        split at h
        · cases h
        · next ne =>
          cases h
          exact ⟨e, x, y, rfl, ht, ne, rfl⟩
      · cases h
  · rintro ⟨e, x, y, rfl, ht, ne, rfl⟩
    simp [chordPair, ht, ne]

/-- The pairs that a list of entries binds. -/
def boundPairs (l : List (Option Entry)) : List (Nat × Nat) := (l.filterMap chordPair).dedup

theorem mem_boundPairs (l : List (Option Entry)) (q : Nat × Nat) : q ∈ boundPairs l ↔
    ∃ e x y, some e ∈ l ∧ e.trigger = .chord x y ∧ x ≠ y ∧ q = (min x y, max x y) := by
  simp only [boundPairs, List.mem_dedup, List.mem_filterMap, chordPair_eq_some]
  constructor
  · rintro ⟨_, ho, e, x, y, rfl, h⟩
    exact ⟨e, x, y, ho, h⟩
  · rintro ⟨e, x, y, he, h⟩
    exact ⟨_, he, e, x, y, rfl, h⟩

theorem boundPairs_nodup (l : List (Option Entry)) : (boundPairs l).Nodup := List.nodup_dedup _

theorem pairsNow_eq (s : State) : s.pairsNow = boundPairs (s.localEntries ++ s.bind.global) := rfl

theorem localEntries_of_no_view {s : State} (h : s.bind.view = none) : s.localEntries = [] := by
  rw [State.localEntries, h]

theorem localEntries_of_view {s : State} {k : BankId} (h : s.bind.view = some k) :
    s.localEntries = (s.lane.banks.get k).bindings := by
  rw [State.localEntries, h]

/-! ### What the end of a burst leaves (R187) -/

@[simp] theorem endBurst_lane (s : State) : (endBurst s).lane = s.lane := by
  unfold endBurst
  cases s.disp.port.hostWait with
  | none => rfl
  | some acc => cases acc <;> rfl

@[simp] theorem endBurst_bind (s : State) : (endBurst s).bind = s.bind := by
  unfold endBurst
  cases s.disp.port.hostWait with
  | none => rfl
  | some acc => cases acc <;> rfl

@[simp] theorem endBurst_scanner (s : State) : (endBurst s).scanner = s.scanner := by
  unfold endBurst
  cases s.disp.port.hostWait with
  | none => rfl
  | some acc => cases acc <;> rfl

/-- The spans of an entry depend on the LIVE bank alone. -/
theorem resolveSpan_congr {s t : State} (hscene : t.scene = s.scene) (hlane : t.lane = s.lane) :
    t.resolveSpan = s.resolveSpan := by
  unfold State.resolveSpan State.findStage State.liveBank
  rw [hscene, hlane]

/-! ### The set-list copy (R77) -/

/-- The set list as the copy's 68 bytes give it. -/
def setListAt (l : List Byte) : SetList :=
  ⟨byteAt l 0, (l.getD 1 0).getLsbD 0, (l.getD 1 0).getLsbD 1, (List.range (byteAt l 0)).map fun n => wordAt l (4 + 2 * n)⟩

theorem bitsOf_byteAt_one (l : List Byte) (i n : Nat) : (bitsOf (byteAt l i) n 1 == 1) = (l.getD i 0).getLsbD n := by
  rw [bitsOf, byteAt, BitVec.getLsbD, Nat.testBit_eq_decide_div_mod_eq]
  rfl

section
variable {m : Memory} (i : Nat) (s : State)

theorem setListCopied_bad
    (h : 32 < (setListAt (m.bytes 0x1500 68)).count ∨ ∃ e ∈ (setListAt (m.bytes 0x1500 68)).entries, 63 < e) :
    setListCopied m i s = complete i .badArgument ResultFlags.none [] s := by
  refine if_pos (h.imp_right fun bad => ?_)
  obtain ⟨e, hm, large⟩ := bad
  exact List.any_eq_true.2 ⟨e, hm, decide_eq_true large⟩

theorem setListCopied_good (hc : (setListAt (m.bytes 0x1500 68)).count ≤ 32)
    (he : ∀ e ∈ (setListAt (m.bytes 0x1500 68)).entries, e ≤ 63) : setListCopied m i s =
      complete i .ok ResultFlags.none [word (setListAt (m.bytes 0x1500 68)).count] { s with scene := { s.scene with
        setList := setListAt (m.bytes 0x1500 68), cursor := 0, preloadMark := false } } := by
  unfold setListCopied
  dsimp only
  rw [if_neg, bitsOf_byteAt_one, bitsOf_byteAt_one]
  · rfl
  · rintro (bad | bad)
    · exact absurd hc (Nat.not_le.2 bad)
    · obtain ⟨e, hm, h⟩ := List.any_eq_true.1 bad
      exact absurd (he e hm) (Nat.not_le.2 (of_decide_eq_true h))

end

theorem exec_setlistCopyEnd_of_running {s : State} {i : Nat} (hs : s.resetHeld = false)
    (h : s.disp.port.running = some (.setlistCopy i)) :
    exec .setlistCopyEnd s = .next (publish s (finish (setListCopied s.mem i (endBurst s)))) := by
  have effect : endSetlistCopy s = setListCopied s.mem i (endBurst s) := by rw [endSetlistCopy, h]
  rw [← effect]
  exact plain_of_free (fun s => finish (endSetlistCopy s)) hs

/-! ### The binding copy (R144) -/

/-- The global table as the copy's 768 bytes give it. -/
def tableAt (l : List Byte) : List (Option Entry) := (List.range 48).map fun n => entryAt l (16 * n)

/-- The part with a new global table. -/
def withTable (g : List (Option Entry)) (s : State) : State :=
  derivePairs { s with bind := { s.bind with global := g, globalSpans := g.map s.resolveSpan } }

section
variable {m : Memory} (i : Nat) (s : State)

theorem bindingCopied_bad {n : Nat} (hn : n < 48)
    (h : (firstFault (entryFaults (m.bytes 0x1200 768) (16 * n))).isSome = true)
    (first : ∀ j < n, (firstFault (entryFaults (m.bytes 0x1200 768) (16 * j))).isSome = false) :
    bindingCopied m i s = complete i .badArgument ResultFlags.none [word n] s := by
  have found : ((List.range 48).find? fun e => (firstFault (entryFaults (m.bytes 0x1200 768) (16 * e))).isSome) = some n := by
    rw [List.find?_range_eq_some]
    exact ⟨h, List.mem_range.2 hn, fun j hj => by simp [first j hj]⟩
  unfold bindingCopied
  dsimp only
  rw [found]
  rfl

theorem bindingCopied_good
    (h : ∀ n < 48, (firstFault (entryFaults (m.bytes 0x1200 768) (16 * n))).isSome = false) :
    bindingCopied m i s = complete i .ok ResultFlags.none
      [word ((tableAt (m.bytes 0x1200 768)).filter Option.isSome).length] (withTable (tableAt (m.bytes 0x1200 768)) s) := by
  have found : ((List.range 48).find? fun e => (firstFault (entryFaults (m.bytes 0x1200 768) (16 * e))).isSome) = none := by
    simpa using h
  unfold bindingCopied
  dsimp only
  rw [found]
  rfl

end

theorem exec_bindingCopyEnd_of_running {s : State} {i : Nat} (hs : s.resetHeld = false)
    (h : s.disp.port.running = some (.bindingCopy i)) :
    exec .bindingCopyEnd s = .next (publish s (finish (bindingCopied s.mem i (endBurst s)))) := by
  have effect : endBindingCopy s = bindingCopied s.mem i (endBurst s) := by rw [endBindingCopy, h]
  rw [← effect]
  exact plain_of_free (fun s => finish (endBindingCopy s)) hs

/-- Settles O54: each copy by whether an entry fails its check, and the pairs by the entries in view. -/
theorem copiesReplaceOrRefuse : Obligations.CopiesReplaceOrRefuse := by
  refine ⟨fun s i hs hrun => ⟨fun bad => ?_, fun hc he => ?_⟩, fun s i hs hrun => ⟨fun n hn bad first => ?_, fun good => ?_⟩,
    fun s => ⟨rfl, boundPairs_nodup _, localEntries_of_no_view, fun k => localEntries_of_view, fun q => ?_⟩⟩
  · rw [exec_setlistCopyEnd_of_running hs hrun, setListCopied_bad i _ bad]
  · rw [exec_setlistCopyEnd_of_running hs hrun, setListCopied_good i _ hc he]
    rfl
  · rw [exec_bindingCopyEnd_of_running hs hrun, bindingCopied_bad i _ hn bad first]
  · refine ⟨withTable (tableAt (s.mem.bytes 0x1200 768)) (endBurst s), ?_, ?_, rfl, ?_⟩
    · rw [exec_bindingCopyEnd_of_running hs hrun, bindingCopied_good i _ good]
      rfl
    · have spans := resolveSpan_congr (endBurst_scene s) (endBurst_lane s)
      simp only [withTable, derivePairs, endBurst_bind, spans]
      rfl
    · rw [← endBurst_scanner s]
      rfl
  · simp only [pairsNow_eq, mem_boundPairs, List.mem_append]

/-! ### The end of a lean fade-out (R75) -/

theorem noneLive_eq (s : State) : noneLive s = { s with
    bind := { s.bind with view := none, localSpans := [], globalSpans := s.bind.global.map fun _ => none },
    scanner := { s.scanner with pairs := boundPairs s.bind.global } } := rfl

/-- The part with its LIVE bank emptied for a lean switch: no bank in view. -/
def silenced (k : BankId) (s : State) : State :=
  noneLive (setScene { (emptyBank k true s).scene with lean := none } (emptyBank k true s))

theorem silenced_eq (k : BankId) (s : State) : silenced k s = { s with
    lines := s.lines.freeBank k,
    scene := { s.scene with banks := s.scene.banks.set k BankControl.reset, lean := none },
    lane := { s.lane with bankRequests := s.lane.bankRequests ++ [.release k] },
    bind := { s.bind with view := none, localSpans := [], globalSpans := s.bind.global.map fun _ => none },
    scanner := { s.scanner with pairs := boundPairs s.bind.global } } := by
  simp only [silenced, noneLive_eq, setScene, emptyBank_eq, if_true]

@[simp] theorem silenced_latch (k : BankId) (s : State) : (silenced k s).scene.latch = s.scene.latch := by
  rw [silenced_eq]

theorem leanDue_iff (s : State) : s.leanDue = true ↔
    ∃ l, s.scene.lean = some l ∧ s.scene.state = .leanEmptying ∧ l.first + l.f ≤ s.frames := by
  unfold State.leanDue
  cases s.scene.lean <;> simp

section
variable {s : State} {l : LeanFade} {k : BankId} (hl : s.scene.lean = some l) (hk : s.liveBank = some k)
include hl hk

theorem leanSilence_of_empty_latch (hr : s.scene.latch = none) :
    leanSilence s = setSceneState .idle (silenced k s) := by
  have latch : (silenced k s).scene.latch = none := by rw [silenced_latch, hr]
  simp only [silenced] at latch
  unfold leanSilence
  simp only [hl, hk, latch]
  rfl

theorem leanSilence_of_latch {r : Request} (hr : s.scene.latch = some r) :
    let waiting := setScene { (silenced k s).scene with
      leanLoad := r.kind == .go, latch := some { r with lean := r.kind == .go } } (silenced k s)
    leanSilence s = if l.replaced then beginFetch r.scene waiting else enterAllocating waiting := by
  have latch : (silenced k s).scene.latch = some r := by rw [silenced_latch, hr]
  simp only [silenced] at latch
  unfold leanSilence
  simp only [hl, hk, latch]
  rfl

end

theorem exec_leanSilence_of_due {s : State} (hs : s.resetHeld = false) (h : (openBoundary s).leanDue = true) :
    exec .leanSilence s = .next (publish s (finish (leanSilence (openBoundary s)))) := plain_atBoundary_of_due _ hs h

/-- Settles O44: by the latch, and a request there by whether it was replaced meanwhile. -/
theorem leanSilenceEmptiesLiveBank : Obligations.LeanSilenceEmptiesLiveBank := by
  intro s l k hs b hst hl hdue hk
  have run := exec_leanSilence_of_due hs ((leanDue_iff _).2 ⟨l, hl, hst, hdue⟩)
  refine ⟨boundPairs b.bind.global, boundPairs_nodup _, mem_boundPairs _, fun hr => ?_, fun r hr => ⟨fun hn => ?_, fun hn => ?_⟩⟩
  · rw [run, leanSilence_of_empty_latch hl hk hr, silenced_eq]
    rfl
  · rw [run, leanSilence_of_latch hl hk hr, if_pos hn, silenced_eq]
    rfl
  · rw [run, leanSilence_of_latch hl hk hr, if_neg (by simp [hn]), silenced_eq]
    rfl

end Sys2Proof.Machine
end

section
/-! Sitting 3: a load from its fetch to READY (R49, R57), and the load that fails (R59). -/

namespace Sys2Proof.Machine

/-! ### The report of a failed load (R211) -/

theorem fourWords_length (l : List Word) : (fourWords l).length = 4 := by simp [fourWords]

/-- A report with six words of detail is filled up with six more. -/
theorem Report.words_of_six (r : Report) (h : r.detail.length = 6) : r.words =
    [bytePair r.kind r.flags, word r.source, lowWord r.time, highWord r.time] ++ (r.detail ++ List.replicate 6 0) := by
  rw [Report.words, List.take_append, h, List.take_of_length_le (by omega)]
  rfl

theorem sceneFailedReport_words (r : Request) (code : ResultCode) (words : List Word) (time : Long) :
    (sceneFailedReport r code words time).words =
      [bytePair 3 0, word r.origin.source, lowWord time, highWord time, bytePair r.scene code.code,
        bytePair r.kind.code 0] ++ fourWords words ++ List.replicate 6 0 := by
  rw [Report.words_of_six _ (by simp [sceneFailedReport, fourWords_length])]
  simp [sceneFailedReport]

/-! ### The checks of a fetch (R49) -/

theorem readWord_toNat (m : Memory) (a : Nat) : (m.readWord a).toNat = (m.read a).toNat + 256 * (m.read (a + 1)).toNat := by
  rw [Memory.readWord, wordOfBytes, BitVec.toNat_append, ← Nat.shiftLeft_add_eq_or_of_lt (m.read a).isLt,
    Nat.shiftLeft_eq]
  omega

/-- The first word of two bytes or more from an address on. -/
theorem wordAt_bytes (m : Memory) (a : Nat) {n : Nat} (h : 2 ≤ n) : wordAt (m.bytes a n) 0 = (m.readWord a).toNat := by
  have get : ∀ i < n, byteAt (m.bytes a n) i = (m.read (a + i)).toNat := fun i hi => by
    simp [byteAt, Memory.bytes, List.getD_eq_getElem?_getD, hi]
  rw [wordAt, get 0 (by omega), get 1 (by omega), readWord_toNat]
  rfl

/-- What a record that passes the checks has passed. -/
theorem fetchCheck_ok {m : Memory} {scene : Nat} {r : SceneRecord} (h : fetchCheck m scene = .ok r) :
    r.cost ≤ 1960 ∧ 48 ≤ recordLength m scene ∧
      (m.readWord (recordOffset m scene)).toNat = recordLength m scene := by
  by_cases h0 : recordLength m scene = 0
  · rw [fetchCheck_empty h0] at h
    cases h
  by_cases hb : BadExtent m (recordOffset m scene) (recordLength m scene)
  · rw [fetchCheck_extent h0 hb] at h
    cases h
  rw [fetchCheck_walk h0 hb] at h
  simp only [BadExtent, not_or, not_lt, not_not] at hb
  obtain ⟨-, -, -, long, named⟩ := hb
  rw [wordAt_bytes m _ (by omega)] at named
  refine ⟨?_, long, named⟩
  split at h
  · cases h
  · split at h
    · cases h
    · next fits =>
      cases h
      exact Nat.not_lt.1 fits

/-! ### A load that fails (R59) -/

/-- The part when a load for a request fails, before its origin is told. -/
def withoutLoad (r : Request) (s : State) : State := { s with scene := { s.scene with
  banks := if (s.bankCtl s.loadBank).state = .loading then s.scene.banks.set s.loadBank BankControl.reset
    else s.scene.banks,
  state := .idle, latch := none, record := none, cabs := [], fillSent := false, leanLoad := false,
  preloadMark := if r.origin = .preload then false else s.scene.preloadMark } }

/-- The load bank of a failed load is EMPTY, or still CUTTING. -/
theorem emptied_loadBank (s : State) :
    (if (s.bankCtl s.loadBank).state = .loading then setBankCtl s.loadBank BankControl.reset s else s) =
      { s with scene := { s.scene with banks :=
        if (s.bankCtl s.loadBank).state = .loading then s.scene.banks.set s.loadBank BankControl.reset
        else s.scene.banks } } := by
  split <;> rfl

section
variable {s : State} {r : Request} (code : ResultCode) (words : List Word) (hr : s.scene.latch = some r)
include hr

theorem failLoad_of_slot {i : Nat} (h : r.origin = .slot i) : failLoad code words s =
    completeSlot r.attached code ResultFlags.none words (complete i code ResultFlags.none words (withoutLoad r s)) := by
  unfold failLoad withoutLoad
  simp only [emptied_loadBank, hr, h]
  rfl

theorem failLoad_of_other (h : ∀ i, r.origin ≠ .slot i) : failLoad code words s =
    completeSlot r.attached code ResultFlags.none words
      (appendReport (sceneFailedReport r code words s.frameCounter) (withoutLoad r s)) := by
  unfold failLoad withoutLoad
  simp only [emptied_loadBank, hr]
  cases ho : r.origin with
  | slot i => exact absurd ho (h i)
  | binding e => rfl
  | setList n => rfl
  | preload => rfl

theorem failLoad_scene : (failLoad code words s).scene = (withoutLoad r s).scene := by
  by_cases h : ∃ i, r.origin = .slot i
  · obtain ⟨i, h⟩ := h
    rw [failLoad_of_slot code words hr h, completeSlot_scene, complete_scene]
  · rw [failLoad_of_other code words hr (by simpa using h), completeSlot_scene, appendReport_scene]

end

/-! ### The fetch's end (R49) -/

section
variable {m : Memory} {scene serial : Nat} {s : State}

theorem fetchEnd_of_stale (h : s.scene.state ≠ .fetching ∨ s.scene.serial ≠ serial) :
    fetchEnd m scene serial s = s := by
  refine if_neg ?_
  rintro ⟨hst, hn⟩
  exact h.elim (absurd hst) (absurd hn)

section
variable (hst : s.scene.state = .fetching) (hn : s.scene.serial = serial)
include hst hn

theorem fetchEnd_of_error {c : ResultCode} {w : List Word} (h : fetchCheck m scene = .error (c, w)) :
    fetchEnd m scene serial s = failLoad c w s := by
  rw [fetchEnd, if_pos ⟨hst, hn⟩, h]

theorem fetchEnd_of_record {r : SceneRecord} (h : fetchCheck m scene = .ok r) :
    fetchEnd m scene serial s = enterAllocating { s with scene := { s.scene with record := some r } } := by
  rw [fetchEnd, if_pos ⟨hst, hn⟩, h]
  rfl

end

theorem exec_fetchEnd_of_running (hs : s.resetHeld = false)
    (h : s.disp.port.running = some (.sceneFetch scene serial)) :
    exec .fetchEnd s = .next (publish s (finish (fetchEnd s.mem scene serial (endBurst s)))) := by
  have effect : endFetch s = fetchEnd s.mem scene serial (endBurst s) := by rw [endFetch, h]
  rw [← effect]
  exact plain_of_free (fun s => finish (endFetch s)) hs

end

/-! ### Fill and prepare (R57) -/

theorem enterAllocating_eq (s : State) :
    let u := { s with scene := { s.scene with state := .allocating } }
    enterAllocating s = if (s.bankCtl s.loadBank).state = .loading then allocateLoad u else u := rfl

theorem sendFill_of_record {s : State} {r : SceneRecord} (h : s.scene.record = some r) : sendFill s = { s with
    lane := { s.lane with
      bankRequests := s.lane.bankRequests ++ [.fill s.loadBank r s.scene.cabs, .prepare s.loadBank] },
    scene := { s.scene with
      banks := (s.scene.banks.set s.loadBank { s.bankCtl s.loadBank with profile := r.profile, tailHold := r.tailHold }),
      state := .preparing, preparingAt := s.frames, fillSent := true, record := none, cabs := [] } } := by
  have sent : s.lane.bankRequests ++ [.fill s.loadBank r s.scene.cabs] ++ [.prepare s.loadBank] =
      s.lane.bankRequests ++ [.fill s.loadBank r s.scene.cabs, .prepare s.loadBank] := List.append_assoc ..
  rw [← sent]
  unfold sendFill
  rw [h]
  rfl

section
variable {s : State} {k : BankId} {rest : List BankId} (h : s.lines.answers = k :: rest)
include h

theorem zeroedAnswer_of_other (ho : s.scene.state ≠ .zeroing ∨ k ≠ s.loadBank) :
    zeroedAnswer s = { s with lines := { s.lines with answers := rest } } := by
  unfold zeroedAnswer
  rw [h]
  refine if_neg ?_
  rintro ⟨hst, hk⟩
  exact ho.elim (absurd hst) (absurd hk)

theorem zeroedAnswer_of_awaited (hst : s.scene.state = .zeroing) (hk : k = s.loadBank) :
    zeroedAnswer s = sendFill { s with lines := { s.lines with answers := rest } } := by
  unfold zeroedAnswer
  rw [h]
  exact if_pos ⟨hst, hk⟩

theorem exec_zeroedAnswer_of_answer (hs : s.resetHeld = false) :
    exec .zeroedAnswer s = .next (publish s (finish (zeroedAnswer s))) := by
  have due : s.answerDue = true := by rw [State.answerDue, h]; rfl
  rw [exec_settledCommand rfl, plain_of_free _ hs]
  exact congrArg (fun t => Host.Outcome.next (publish s t)) (force_of_due zeroedAnswer due)

end

/-! ### The load bank becomes READY (R57) -/

theorem prepareDue_iff (s : State) :
    s.prepareDue = true ↔ s.scene.state = .preparing ∧ s.scene.preparingAt + 2 ≤ s.frames := by
  simp [State.prepareDue]

section
variable {s : State} {r : Request} (hr : s.scene.latch = some r)
include hr

theorem prepareDone_of_load (hk : r.kind = .load) : prepareDone s =
    completeSlot r.slot .ok { ResultFlags.none with trailCut := r.trailCut } [word r.scene, bankWord s.loadBank]
      { s with scene := { s.scene with
        banks := (s.scene.banks.set s.loadBank { s.bankCtl s.loadBank with state := .ready }),
        state := .idle, latch := none } } := by
  unfold prepareDone
  rw [hr]
  dsimp only
  rw [hk]
  rfl

theorem prepareDone_of_go (hk : r.kind = .go) : prepareDone s =
    completeSlot r.attached .ok { ResultFlags.none with trailCut := r.trailCut } [word r.scene, bankWord s.loadBank]
      { s with scene := { s.scene with
        banks := (s.scene.banks.set s.loadBank { s.bankCtl s.loadBank with state := .ready }),
        state := .armed, latch := some { r with attached := none }, quantMark := false, armedAt := s.frames } } := by
  unfold prepareDone
  rw [hr]
  dsimp only
  rw [hk]
  rfl

end

section
variable {s : State} (hs : s.resetHeld = false)
include hs

theorem exec_prepareDone_of_due (h : (openBoundary s).prepareDue = true) :
    exec .prepareDone s = .next (publish s (finish (prepareDone (openBoundary s)))) := plain_atBoundary_of_due _ hs h

theorem exec_prepareDone_of_not_due (h : (openBoundary s).prepareDue = false) :
    exec .prepareDone s = .next (publish s s) := plain_atBoundary_of_not_due _ hs h

end

/-- Settles O39: the fetch by its serial and its checks, a failed load by its origin, a zeroed answer by its bank, and the
end of the preparation by the request's kind. -/
theorem loadIsFetchedFilledAndPrepared : Obligations.LoadIsFetchedFilledAndPrepared := by
  refine ⟨fun _ _ _ _ _ => ⟨rfl, rfl⟩, enterAllocating_eq, fun _ _ => sendFill_of_record,
    ⟨rfl, rfl, sceneFailedReport_words⟩, ⟨fun s scene serial hs hrun => ?fetch, fun s r code words hr => ?failed⟩,
    fun s k rest hs h => ?zeroed, fun s r hs => ?prepared⟩
  case fetch =>
    have kept := endBurst_scene s
    rw [exec_fetchEnd_of_running hs hrun]
    refine ⟨fun stale => ?_, fun hst hn => ⟨fun c w he => ?_, fun r hok => ?_⟩, fetchCheck_empty, fun outside => ?_,
      fun r => fetchCheck_ok⟩
    · rw [fetchEnd_of_stale (by rwa [kept])]
    · rw [fetchEnd_of_error (by rwa [kept]) (by rwa [kept]) he]
    · rw [fetchEnd_of_record (by rwa [kept]) (by rwa [kept]) hok, kept]
    · refine fetchCheck_extent (show recordLength s.mem scene ≠ 0 from ?_) ?_
      · unfold recordLength
        omega
      · unfold BadExtent recordOffset recordLength
        omega
  case failed =>
    exact ⟨failLoad_scene code words hr, fun i => failLoad_of_slot code words hr, failLoad_of_other code words hr⟩
  case zeroed =>
    rw [exec_zeroedAnswer_of_answer h hs]
    refine ⟨fun other => ?_, fun r hst hk hrec => ?_⟩
    · rw [zeroedAnswer_of_other h other]
    · subst hk
      have filled := sendFill_of_record (s := { s with lines := { s.lines with answers := rest } }) hrec
      rw [zeroedAnswer_of_awaited h hst rfl, filled]
      rfl
  case prepared =>
    refine ⟨fun hst hdue hr hk => ?_, fun hst hdue hr hk => ?_, fun early => ?_⟩
    · rw [exec_prepareDone_of_due hs ((prepareDue_iff _).2 ⟨hst, hdue⟩), prepareDone_of_load hr hk]
    · rw [exec_prepareDone_of_due hs ((prepareDue_iff _).2 ⟨hst, hdue⟩), prepareDone_of_go hr hk]
    · refine exec_prepareDone_of_not_due hs (Bool.eq_false_iff.2 fun due => ?_)
      obtain ⟨hst, hdue⟩ := (prepareDue_iff _).1 due
      exact early.elim (absurd hst) (Nat.not_lt.2 hdue)

end Sys2Proof.Machine
end

section
/-! Sitting 3: a scene request by the state of the scene unit (R54, R55, R58, R60-R62, R75, R79), and the scene orders (R64,
R65). -/

namespace Sys2Proof.Machine

/-! ### Fetch, cut and abandon (R55, R58, R73) -/

theorem beginFetch_eq (n : Nat) (s : State) :
    beginFetch n s = askBurst (.sceneFetch n (s.scene.serial + 1)) { s with scene := { s.scene with
      banks := if (s.bankCtl s.loadBank).state = .cutting then s.scene.banks
        else s.scene.banks.set s.loadBank { BankControl.reset with state := .loading, scene := some n },
      state := .fetching, serial := s.scene.serial + 1, record := none, cabs := [], fillSent := false } } := by
  unfold beginFetch
  dsimp only
  split <;> rfl

theorem startCut_eq (k : BankId) (s : State) : startCut k s = { s with scene := { s.scene with
    banks := (s.scene.banks.set k { s.bankCtl k with
      state := .cutting, cutFrom := if s.opened then s.frames else s.frames + 1 }) } } := rfl

/-- The load bank of an abandoned load. -/
def abandonedBank (s : State) : State :=
  let state := (s.bankCtl s.loadBank).state
  if state = .loading then emptyBank s.loadBank s.scene.fillSent s
  else if state = .ready then emptyBank s.loadBank true s else s

theorem abandonLoad_eq (s : State) : abandonLoad s = { abandonedBank s with scene :=
    { (abandonedBank s).scene with record := none, cabs := [], fillSent := false } } := by
  unfold abandonLoad abandonedBank
  dsimp only
  split
  · next loading => rw [if_pos loading]; rfl
  · next ready => rw [if_neg (by rw [ready]; decide), if_pos ready]; rfl
  · next loading ready => rw [if_neg loading, if_neg ready]; rfl

/-! ### A request taken as in IDLE (R54, R55) -/

theorem doneAtOnce_iff (s : State) (r : Request) : s.doneAtOnce r = true ↔
    r.kind = .go ∧ r.reswap = false ∧ s.activeScene = some r.scene := by
  simp [State.doneAtOnce, and_assoc]

/-- The scene unit in IDLE with an empty latch, for a request. -/
def idleFor (r : Request) (s : State) : State := setScene { s.scene with
  state := .idle, latch := none, leanLoad := s.scene.leanLoad && r.lean } s

section
variable {s : State} {r : Request}

theorem takeInIdle_of_atOnce (h : s.doneAtOnce r = true) : takeInIdle r s =
    completeSlot r.attached .superseded ResultFlags.none [] (completeSlot r.slot .ok ResultFlags.none
      [word r.scene, bankWord (s.liveBank.getD .a), 0xFFFF] (idleFor r s)) := if_pos h

section
variable (h : ¬ s.doneAtOnce r = true)
include h

theorem takeInIdle_of_held_go (hc : (s.bankCtl s.loadBank).state = .ready)
    (hn : (s.bankCtl s.loadBank).scene = some r.scene) (hk : r.kind = .go) :
    takeInIdle r s = enterArmed (setLatch (some r) (idleFor r s)) := by
  refine (if_neg h).trans ?_
  split
  · refine (if_pos hn).trans ?_
    rw [hk]
    rfl
  · next e => cases hc.symm.trans e
  · next e _ => exact absurd hc e

theorem takeInIdle_of_held_load (hc : (s.bankCtl s.loadBank).state = .ready)
    (hn : (s.bankCtl s.loadBank).scene = some r.scene) (hk : r.kind = .load) :
    takeInIdle r s = completeLoad r.slot r s.loadBank (idleFor r s) := by
  refine (if_neg h).trans ?_
  split
  · refine (if_pos hn).trans ?_
    rw [hk]
    rfl
  · next e => cases hc.symm.trans e
  · next e _ => exact absurd hc e

theorem takeInIdle_of_other_ready (hc : (s.bankCtl s.loadBank).state = .ready)
    (hn : (s.bankCtl s.loadBank).scene ≠ some r.scene) :
    takeInIdle r s = beginFetch r.scene (setLatch (some r) (emptyBank s.loadBank true (idleFor r s))) := by
  refine (if_neg h).trans ?_
  split
  · exact if_neg hn
  · next e => cases hc.symm.trans e
  · next e _ => exact absurd hc e

theorem takeInIdle_of_trailing (hc : (s.bankCtl s.loadBank).state = .trailing) : takeInIdle r s =
    beginFetch r.scene (setLatch (some { r with trailCut := true }) (startCut s.loadBank (idleFor r s))) := by
  refine (if_neg h).trans ?_
  split
  · next e => cases hc.symm.trans e
  · rfl
  · next _ e => exact absurd hc e

theorem takeInIdle_of_vacant (hr : (s.bankCtl s.loadBank).state ≠ .ready)
    (ht : (s.bankCtl s.loadBank).state ≠ .trailing) :
    takeInIdle r s = beginFetch r.scene (setLatch (some r) (idleFor r s)) := by
  refine (if_neg h).trans ?_
  split
  · next e => exact absurd e hr
  · next e => exact absurd e ht
  · rfl

end

end

/-! ### A request by the state of the scene unit (R54, R79) -/

/-- Any request but a preload clears the preload mark. -/
def unmarked (r : Request) (s : State) : State :=
  if r.origin = .preload then s else setScene { s.scene with preloadMark := false } s

theorem unmarked_state (r : Request) (s : State) : (unmarked r s).scene.state = s.scene.state := by
  unfold unmarked
  split <;> rfl

theorem unmarked_latch (r : Request) (s : State) : (unmarked r s).scene.latch = s.scene.latch := by
  unfold unmarked
  split <;> rfl

section
variable {s : State} (r : Request)

theorem takeRequest_idle (h : s.scene.state = .idle) : takeRequest r s = takeInIdle r (unmarked r s) := by
  have state := (unmarked_state r s).trans h
  unfold unmarked at *
  simp only [takeRequest, state]

theorem takeRequest_fading (h : s.scene.state = .fading) : takeRequest r s = takeIntoLatch r (unmarked r s) := by
  have state := (unmarked_state r s).trans h
  unfold unmarked at *
  simp only [takeRequest, state]

theorem takeRequest_leanEmptying (h : s.scene.state = .leanEmptying) :
    let v := takeIntoLatch r (unmarked r s)
    takeRequest r s = { v with scene := { v.scene with
      lean := v.scene.lean.map fun x => { x with replaced := true } } } := by
  have state := (unmarked_state r s).trans h
  unfold unmarked at *
  simp only [takeRequest, state]
  rfl

variable {old : Request} (ho : s.scene.latch = some old)
include ho

theorem takeRequest_armed (h : s.scene.state = .armed) : takeRequest r s = takeWhileArmed r old (unmarked r s) := by
  have state := (unmarked_state r s).trans h
  have latch := (unmarked_latch r s).trans ho
  unfold unmarked at *
  simp only [takeRequest, state, latch]

theorem takeRequest_loading (h : s.scene.state = .fetching ∨ s.scene.state = .allocating ∨ s.scene.state = .zeroing ∨
    s.scene.state = .preparing) : takeRequest r s = takeWhileLoading r old (unmarked r s) := by
  have state := unmarked_state r s
  have latch := (unmarked_latch r s).trans ho
  unfold unmarked at *
  rcases h with h | h | h | h <;> simp only [takeRequest, state.trans h, latch]

end

/-! ### A request over another (R53, R60-R62, R75) -/

section
variable {new old : Request} (s : State)

theorem Request.over_go (h : new.kind = .go) : new.over old = { new with
    trailCut := old.trailCut, lean := old.lean && new.kind == .go, attached := old.attached } := by
  rw [Request.over, if_pos h]

theorem Request.over_load (h : new.kind = .load) : new.over old = { new with
    trailCut := old.trailCut, lean := old.lean && new.kind == .go, attached := none } := by
  rw [Request.over, if_neg (by simp [h])]

/-- An attached load carries over to a GO of the same scene. -/
theorem endReplaced_carries (hk : new.kind = .go) (hn : new.scene = old.scene) :
    endReplaced new old s = completeSlot old.slot .superseded ResultFlags.none [] s := if_pos ⟨hk, hn⟩

theorem endReplaced_ends (h : new.kind = .load ∨ new.scene ≠ old.scene) : endReplaced new old s = supersede old s := by
  refine if_neg ?_
  rintro ⟨hk, hn⟩
  rcases h with h | h
  · rw [hk] at h
    cases h
  · exact h hn

theorem takeWhileLoading_other (h : new.scene ≠ old.scene) : takeWhileLoading new old s = replaceWork new old s :=
  if_neg h

theorem takeWhileArmed_other (h : new.scene ≠ old.scene) : takeWhileArmed new old s = replaceWork new old s := if_neg h

section
variable (h : new.scene = old.scene)
include h

theorem takeWhileLoading_go_over_load (ho : old.kind = .load) (hk : new.kind = .go) :
    takeWhileLoading new old s = setLatch (some { new.over old with attached := old.slot }) s := by
  simp only [takeWhileLoading, if_pos h, ho, hk]

theorem takeWhileLoading_load_joins_go (ho : old.kind = .go) (hk : new.kind = .load) {i : Nat}
    (hi : new.origin = .slot i) : takeWhileLoading new old s = setLatch (some { old with attached := some i })
      (completeSlot old.attached .superseded ResultFlags.none [] s) := by
  simp only [takeWhileLoading, if_pos h, ho, hk, Request.slot_of_origin hi]

theorem takeWhileLoading_load_under_go (ho : old.kind = .go) (hk : new.kind = .load)
    (hi : ∀ i, new.origin ≠ .slot i) : takeWhileLoading new old s = s := by
  simp only [takeWhileLoading, if_pos h, ho, hk, Request.slot_of_other hi]

theorem takeWhileLoading_same_kind (hk : new.kind = old.kind) :
    takeWhileLoading new old s = setLatch (some (new.over old)) (endReplaced new old s) := by
  cases ho : old.kind <;> simp only [takeWhileLoading, if_pos h, ho, hk]

theorem takeWhileArmed_go (hk : new.kind = .go) :
    let v := endReplaced new old s
    takeWhileArmed new old s = { v with scene := { v.scene with
      latch := some (new.over old), quantMark := false } } := by
  simp only [takeWhileArmed, if_pos h, hk]
  rfl

theorem takeWhileArmed_load (hk : new.kind = .load) :
    takeWhileArmed new old s = completeLoad new.slot old s.loadBank s := by
  simp only [takeWhileArmed, if_pos h, hk]

end

section
variable {s}

theorem takeIntoLatch_empty (hl : s.scene.latch = none) : takeIntoLatch new s =
    setLatch (some { new with lean := s.scene.state == .leanEmptying && new.kind == .go }) s := by
  simp only [takeIntoLatch, hl]

theorem takeIntoLatch_carries (hl : s.scene.latch = some old) (hk : new.kind = .go) (hn : new.scene = old.scene) :
    takeIntoLatch new s = setLatch (some { new with
        lean := s.scene.state == .leanEmptying && new.kind == .go, attached := old.attached })
      (completeSlot old.slot .superseded ResultFlags.none [] s) := by
  simp only [takeIntoLatch, hl, endReplaced_carries s hk hn, if_pos (And.intro hk hn)]

theorem takeIntoLatch_ends (hl : s.scene.latch = some old) (h : new.kind = .load ∨ new.scene ≠ old.scene) :
    takeIntoLatch new s = setLatch (some { new with
      lean := s.scene.state == .leanEmptying && new.kind == .go, attached := none }) (supersede old s) := by
  have ends : ¬ (new.kind = .go ∧ new.scene = old.scene) := by
    rintro ⟨hk, hn⟩
    rcases h with h | h
    · rw [hk] at h
      cases h
    · exact h hn
  simp only [takeIntoLatch, hl, endReplaced_ends s h, if_neg ends]

end

end

/-! ### The orders that make a request (R64, R65, R66) -/

theorem firstFault_isSome_iff (l : List (Nat × Bool)) : (firstFault l).isSome = true ↔ ∃ x ∈ l, x.2 = true := by
  rw [firstFault, Option.isSome_map, List.find?_isSome]

/-- A fade override whose marks or fields lie outside their ranges. -/
def BadOverride (args : List Byte) : Prop :=
  1 < byteAt args 1 ∨ (byteAt args 1 = 1 ∧ (2 < byteAt args 2 ∨ 2 < byteAt args 3 ∨ wordAt args 4 < 1 ∨
    250 < wordAt args 4 ∨ 250 < wordAt args 6))

theorem overrideFaults_iff (args : List Byte) :
    (firstFault (overrideFaults args)).isSome = true ↔ BadOverride args := by
  rw [firstFault_isSome_iff, BadOverride, overrideFaults]
  by_cases h : byteAt args 1 = 1
  · rw [if_pos h]
    simp [profileFaults, h, or_assoc]
  · rw [if_neg h]
    simp [h]

section
variable (i : Nat) {args : List Byte} (s : State)

theorem takeSceneGo_bad (h : 63 < byteAt args 0 ∨ BadOverride args) :
    takeSceneGo i args s = completeWith i .badArgument [] s :=
  if_pos (h.imp_right (overrideFaults_iff args).2)

theorem takeSceneGo_good (h : byteAt args 0 ≤ 63) (hp : ¬ BadOverride args) : takeSceneGo i args s =
    takeRequest (newRequest .go (byteAt args 0) (overrideAt args) (.slot i)) s := by
  refine if_neg ?_
  rintro (high | bad)
  · omega
  · exact hp ((overrideFaults_iff args).1 bad)

theorem takeSceneLoad_bad (h : 63 < byteAt args 0) : takeSceneLoad i args s = completeWith i .badArgument [] s := if_pos h

theorem takeSceneLoad_good (h : byteAt args 0 ≤ 63) :
    takeSceneLoad i args s = takeRequest (newRequest .load (byteAt args 0) none (.slot i)) s := if_neg (Nat.not_lt.2 h)

theorem takeSceneSwap_bad (h : BadOverride args) : takeSceneSwap i args s = completeWith i .badArgument [] s :=
  if_pos ((overrideFaults_iff args).2 h)

/-- The load bank is READY and no load or fade is in work (R65). -/
def SwapReady (s : State) : Prop :=
  (s.bankCtl s.loadBank).state = .ready ∧ (s.scene.state = .idle ∨ s.scene.state = .armed)

variable {s} (hp : ¬ BadOverride args)
include hp

theorem takeSceneSwap_ready (h : SwapReady s) : takeSceneSwap i args s =
    takeRequest { newRequest .go ((s.bankCtl s.loadBank).scene.getD 0) (overrideAt args) (.slot i) with reswap := true }
      s :=
  (if_neg (mt (overrideFaults_iff args).1 hp)).trans (if_pos h)

theorem takeSceneSwap_not_ready (h : ¬ SwapReady s) : takeSceneSwap i args s = completeWith i .notReady [] s :=
  (if_neg (mt (overrideFaults_iff args).1 hp)).trans (if_neg h)

end

/-- Settles O40: a request by the state it finds, over another by scene and kinds, and each order by its checks. -/
theorem requestsActBySceneState : Obligations.RequestsActBySceneState := by
  refine ⟨fun s => ⟨fun _ => rfl, ⟨rfl, rfl⟩, fun _ => bankCtl_of_liveBank, bankCtl_of_noneLive, loadBank_eq s, rfl⟩,
    fun _ _ _ _ => rfl, fun r s => ?byState, fun r s => ?inIdle, beginFetch_eq,
    fun k s => ⟨startCut_eq k s, fun release => emptyBank_eq k release s⟩, abandonLoad_eq, fun new old s => ?replaced,
    fun s i args => ?orders⟩
  case byState =>
    exact ⟨takeRequest_idle r, takeRequest_fading r, fun h => ⟨_, rfl, takeRequest_leanEmptying r h⟩,
      fun old ho => ⟨takeRequest_armed r ho, takeRequest_loading r ho⟩⟩
  case inIdle =>
    refine ⟨fun atOnce => takeInIdle_of_atOnce ((doneAtOnce_iff s r).2 atOnce), fun later => ?_⟩
    have h := mt (doneAtOnce_iff s r).1 later
    exact ⟨fun hc hn => ⟨takeInIdle_of_held_go h hc hn, takeInIdle_of_held_load h hc hn⟩, takeInIdle_of_other_ready h,
      takeInIdle_of_trailing h, takeInIdle_of_vacant h⟩
  case replaced =>
    refine ⟨fun h => ⟨takeWhileLoading_other s h, takeWhileArmed_other s h⟩, fun h => ⟨fun ho hk => ?_,
      fun ho hk i => takeWhileLoading_load_joins_go s h ho hk, takeWhileLoading_load_under_go s h, fun ho hk => ?_,
      fun ho hk => ?_, fun hk => ⟨endReplaced new old s, endReplaced_carries s hk h, ?_⟩, takeWhileArmed_load s h⟩,
      takeIntoLatch_empty, fun hl => ⟨takeIntoLatch_carries hl, takeIntoLatch_ends hl⟩⟩
    · rw [takeWhileLoading_go_over_load s h ho hk, Request.over_go hk]
      rfl
    · rw [takeWhileLoading_same_kind s h (hk.trans ho.symm), Request.over_go hk, endReplaced_carries s hk h]
      rfl
    · rw [takeWhileLoading_same_kind s h (hk.trans ho.symm), Request.over_load hk, endReplaced_ends s (.inl hk)]
      rfl
    · rw [takeWhileArmed_go s h hk, Request.over_go hk]
  case orders =>
    exact ⟨takeSceneGo_bad i s, takeSceneGo_good i s, takeSceneLoad_bad i s, takeSceneLoad_good i s,
      takeSceneSwap_bad i s, takeSceneSwap_ready i, takeSceneSwap_not_ready i⟩

end Sys2Proof.Machine
end

section
/-! Sitting 3: the swap (R67-R69): when it is due, the fade it starts, the roles it gives, and what its notices leave. -/

namespace Sys2Proof.Machine

/-! ### What the notices of a swap leave -/

/-- What neither the follow of a pedal, nor a notice queued, nor a report, nor the tuner's auto-off changes, beside what is
`Still` in every event. -/
def State.besideNotices (s : State) :
    SceneUnit × LineMemory × TempoUnit × List Pedal × LampDriver × PerBank Bank × Option BankId :=
  (s.scene, s.lines, s.tempo, s.pedals, s.lamps, s.lane.banks, s.bind.view)

/-- What each of a row of events keeps, the row keeps. -/
theorem forEach_keeps {α : Type} (g : State → α) {f : Nat → State → State} (h : ∀ i s, g (f i s) = g s) (n : Nat)
    (s : State) : g (forEach n f s) = g s := by
  unfold forEach
  induction List.range n generalizing s with
  | nil => rfl
  | cons i rest ih => exact (ih (f i s)).trans (h i s)

@[simp] theorem appendReport_besideNotices (r : Report) (s : State) :
    (appendReport r s).besideNotices = s.besideNotices := by
  rw [appendReport_only]
  rfl

@[simp] theorem answerFiring_besideNotices (f : Firing) (x : Answer) (s : State) :
    (answerFiring f x s).besideNotices = s.besideNotices := by
  unfold answerFiring
  split
  · exact appendReport_besideNotices _ s
  · rfl

@[simp] theorem sendStage_besideNotices (f : Firing) (r : LaneRequest) (lane p : Nat) (v : Int) (s : State) :
    (sendStage f r lane p v s).besideNotices = s.besideNotices := by
  unfold sendStage
  split
  · exact answerFiring_besideNotices f _ s
  · rfl

theorem firePedal_besideNotices (f : Firing) (lane p index v : Nat) (s : State) :
    (firePedal f lane p index v s).besideNotices = s.besideNotices := by
  unfold firePedal
  split
  · exact answerFiring_besideNotices f _ s
  · exact sendStage_besideNotices f _ lane p _ s

/-- The follow fires nothing but a PARAM_FROM_PEDAL entry (R143). -/
theorem followPedal_besideNotices (p : Nat) (s : State) : (followPedal p s).besideNotices = s.besideNotices := by
  unfold followPedal
  dsimp only
  split
  · split
    · rfl
    · next y _ =>
      split
      · next action =>
        split
        · unfold fireEntry fireAction
          simp only [action]
          exact firePedal_besideNotices ..
        · rfl
      · rfl
  · rfl

theorem bindSceneLive_besideNotices (k : BankId) (s : State) : (bindSceneLive k s).besideNotices =
    { s with bind := { s.bind with view := some k } }.besideNotices := by
  unfold bindSceneLive
  rw [followPedal_besideNotices, followPedal_besideNotices]
  rfl

theorem tunerAutoOff_besideNotices (s : State) : (tunerAutoOff s).besideNotices = s.besideNotices := by
  unfold tunerAutoOff
  split
  · unfold switchTunerOff
    dsimp only
    split <;> rfl
  · rfl

theorem sceneLive_besideNotices (k : BankId) (s : State) : (sceneLive k s).besideNotices =
    { s with bind := { s.bind with view := some k } }.besideNotices :=
  (tunerAutoOff_besideNotices _).trans (bindSceneLive_besideNotices k s)

theorem fillHold_besideNotices (h : Nat) (c : Candidate) (s : State) :
    (fillHold h c s).besideNotices = s.besideNotices := by
  unfold fillHold
  cases c <;> dsimp only <;> split <;> rfl

theorem fillHolds_besideNotices (s : State) : (fillHolds s).besideNotices = s.besideNotices := by
  unfold fillHolds
  split
  · rfl
  · refine forEach_keeps State.besideNotices (fun h t => ?_) 3 s
    split
    · split
      · rfl
      · exact fillHold_besideNotices ..
    · rfl

theorem offerNotice_besideNotices (m : Message) (s : State) : (offerNotice m s).besideNotices = s.besideNotices := by
  unfold offerNotice
  split
  · rw [fillHolds_besideNotices]
    rfl
  · rfl

theorem queueNotices_besideNotices (l : List Message) (s : State) :
    (queueNotices l s).1.besideNotices = s.besideNotices := by
  induction l generalizing s with
  | nil => rfl
  | cons m rest ih => exact (ih _).trans (offerNotice_besideNotices m s)

/-! ### When a swap is due, and the fade it starts (R67, R68) -/

section
variable {s : State} {r : Request}

theorem swapDue_iff (hr : s.scene.latch = some r) : s.swapDue = true ↔
    s.scene.state = .armed ∧ s.scene.armedAt < s.frames ∧ (s.scene.quantMark = true ∨ r.lean = true ∨
      (r.override.getD (s.bankCtl s.loadBank).profile).quantize = .none) := by
  unfold State.swapDue
  rw [hr]
  cases hl : r.lean <;> simp [Request.quantize, Request.profile, hl, and_assoc]

theorem swapFade_shared (s : State) (r : Request) :
    let p := r.override.getD (s.bankCtl s.loadBank).profile
    let f := s.swapFade r
    f.newBank = s.loadBank ∧ f.oldBank = s.liveBank ∧ f.swapAt = s.frames ∧ f.owner = r ∧
      f.f = (if p.mode = .cut then 1 else p.f) ∧ f.g = (if p.mode = .cut then 0 else p.g) := by
  unfold State.swapFade
  cases s.liveBank <;> exact ⟨rfl, rfl, rfl, rfl, rfl, rfl⟩

theorem swapFade_alone (h : s.liveBank = none) :
    let f := s.swapFade r
    f.mode = (r.override.getD (s.bankCtl s.loadBank).profile).mode ∧ f.trailsKept = false ∧ f.trailDropped = false ∧
      f.downgraded = false ∧ f.heldBack = false := by
  unfold State.swapFade
  rw [h]
  exact ⟨rfl, rfl, rfl, rfl, rfl⟩

theorem swapFade_over {old : BankId} (h : s.liveBank = some old) :
    let f := s.swapFade r
    let p := r.override.getD (s.bankCtl s.loadBank).profile
    let c := s.lane.banks.get old
    let newCost := (s.lane.banks.get s.loadBank).cost
    let rings := (c.lanes.one.hasTrail = true ∨ c.lanes.two.hasTrail = true) ∧ 0 < (s.bankCtl old).tailHold ∧
      r.lean = false
    f.mode = (if p.mode = .blend ∧ 1960 < c.cost + newCost then .gap else p.mode) ∧
      (f.heldBack = true ↔ f.mode ≠ .blend) ∧
      (f.downgraded = true ↔ p.mode = .blend ∧ 1960 < c.cost + newCost) ∧
      (f.trailsKept = true ↔ rings ∧ newCost + c.trailCost ≤ 1960) ∧
      (f.trailDropped = true ↔ rings ∧ 1960 < newCost + c.trailCost) := by
  unfold State.swapFade
  rw [h]
  simp [Request.profile, and_assoc]

/-! ### The roles after a swap (R69) -/

theorem swapBanks_eq (f : Fade) (s : State) : swapBanks f s = { s with scene := { s.scene with
    banks := (swapBanks f s).scene.banks, state := .fading, latch := none, lastLive := some f.newBank, fade := some f,
    quantMark := false, fillSent := false, leanLoad := false } } := by
  unfold swapBanks
  cases f.oldBank <;> rfl

theorem swapBanks_alone {f : Fade} (h : f.oldBank = none) : (swapBanks f s).scene.banks =
    s.scene.banks.set f.newBank { s.bankCtl f.newBank with state := .live } := by
  unfold swapBanks
  rw [h]
  rfl

theorem swapBanks_over {f : Fade} {old : BankId} (h : f.oldBank = some old) (hn : f.newBank ≠ old) :
    (swapBanks f s).scene.banks = (s.scene.banks.set old { s.bankCtl old with state := .outgoing }).set f.newBank
      { s.bankCtl f.newBank with state := .live } := by
  have kept := bankCtl_setBankCtl_other (s := s) { s.bankCtl old with state := .outgoing } hn
  unfold swapBanks
  rw [h]
  dsimp only
  rw [kept]
  rfl

/-- The banks once a request's fade has begun: the new one is never the LIVE one. -/
theorem swapFade_banks (s : State) (r : Request) :
    let next := { s.bankCtl s.loadBank with state := .live }
    let banks := (swapBanks (s.swapFade r) s).scene.banks
    (s.liveBank = none → banks = s.scene.banks.set s.loadBank next) ∧
      ∀ old, s.liveBank = some old → s.loadBank ≠ old ∧
        banks = (s.scene.banks.set old { s.bankCtl old with state := .outgoing }).set s.loadBank next := by
  obtain ⟨hnew, hold, -⟩ := swapFade_shared s r
  refine ⟨fun h => ?_, fun old h => ?_⟩
  · rw [swapBanks_alone (hold.trans h), hnew]
  · have apart : s.loadBank ≠ old := by
      rw [loadBank_of_liveBank h]
      exact otherBank_ne old
    rw [swapBanks_over (hold.trans h) (by rwa [hnew]), hnew]
    exact ⟨apart, rfl⟩

theorem swapFade_new_live (s : State) (r : Request) :
    (swapBanks (s.swapFade r) s).bankCtl s.loadBank = { s.bankCtl s.loadBank with state := .live } := by
  obtain ⟨alone, faded⟩ := swapFade_banks s r
  unfold State.bankCtl
  cases h : s.liveBank with
  | none =>
    rw [alone h]
    exact PerBank.get_set_self ..
  | some old =>
    rw [(faded old h).2]
    exact PerBank.get_set_self ..

theorem swapFade_other_kept (r : Request) (h : s.liveBank = none) :
    (swapBanks (s.swapFade r) s).bankCtl (otherBank s.loadBank) = s.bankCtl (otherBank s.loadBank) := by
  obtain ⟨alone, -⟩ := swapFade_banks s r
  unfold State.bankCtl
  rw [alone h]
  exact PerBank.get_set_other _ _ (otherBank_ne _)

theorem swapFade_old_outgoing (r : Request) {old : BankId} (h : s.liveBank = some old) :
    (swapBanks (s.swapFade r) s).bankCtl old = { s.bankCtl old with state := .outgoing } := by
  obtain ⟨-, faded⟩ := swapFade_banks s r
  obtain ⟨apart, banks⟩ := faded old h
  unfold State.bankCtl
  rw [banks, PerBank.get_set_other _ _ apart.symm]
  exact PerBank.get_set_self ..

/-! ### The swap (R69) -/

theorem sceneLive_banks (k : BankId) (s : State) : (sceneLive k s).lane.banks = s.lane.banks := by
  have live := sceneLive_besideNotices k s
  simp only [State.besideNotices, Prod.mk.injEq] at live
  obtain ⟨-, -, -, -, -, banks, -⟩ := live
  exact banks

theorem swap_of_latch (hr : s.scene.latch = some r) :
    let v := sceneLive s.loadBank (swapBanks (s.swapFade r) s)
    let q := queueNotices (s.lane.banks.get s.loadBank).notices v
    swap s = appendReport (sceneLiveReport (s.swapFade r) q.2 s.frameCounter) q.1 := by
  intro v q
  obtain ⟨hnew, -⟩ := swapFade_shared s r
  have banks : v.lane.banks = s.lane.banks := by
    rw [sceneLive_banks, swapBanks_eq]
  have still : Still s q.1 := by simp [q, v]
  have time : q.1.frameCounter = s.frameCounter := congrArg (BitVec.ofNat 32) still.frames.symm
  unfold swap
  rw [hr]
  dsimp only
  rw [hnew, show (sceneLive s.loadBank (swapBanks (s.swapFade r) s)).lane.banks = s.lane.banks from banks]
  exact congrArg (fun t => appendReport (sceneLiveReport (s.swapFade r) q.2 t) q.1) time

theorem exec_swap_of_due (hs : s.resetHeld = false) (h : (openBoundary s).swapDue = true) :
    exec .swap s = .next (publish s (finish (swap (openBoundary s)))) := plain_atBoundary_of_due _ hs h

end

theorem tunerAutoOff_switches {s : State} (h : s.tuner.settings.on = true ∧ s.tuner.settings.autoOff = true) :
    tunerAutoOff s = switchTunerOff s := if_pos (by simpa using h)

theorem tunerAutoOff_leaves {s : State} (h : s.tuner.settings.on = false ∨ s.tuner.settings.autoOff = false) :
    tunerAutoOff s = s := by
  refine if_neg ?_
  rcases h with h | h <;> simp [h]

/-- Settles O41: the fade by whether a bank was LIVE, the roles bank by bank, and what the notices leave. -/
theorem swapMakesBankLive : Obligations.SwapMakesBankLive := by
  refine ⟨?swap, fun _ _ _ => ⟨rfl, rfl⟩,
    fun s => ⟨tunerAutoOff_switches, tunerAutoOff_leaves⟩, ⟨rfl, rfl, rfl⟩, fun _ _ _ => rfl⟩
  intro s r hs b new p hst harmed hr hq
  obtain ⟨hnew, hold, hat, howner, hf, hg⟩ := swapFade_shared b r
  have roles := swapBanks_eq (b.swapFade r) b
  refine ⟨b.swapFade r, swapBanks (b.swapFade r) b, ?_⟩
  intro v q u
  have still : Still b u := by simp [u, q, v]
  have beside : u.besideNotices = { swapBanks (b.swapFade r) b with
      bind := { (swapBanks (b.swapFade r) b).bind with view := some new } }.besideNotices :=
    (appendReport_besideNotices _ _).trans
      ((queueNotices_besideNotices _ _).trans (sceneLive_besideNotices new (swapBanks (b.swapFade r) b)))
  simp only [State.besideNotices, Prod.mk.injEq] at beside
  obtain ⟨hscene, hlines, htempo, hpedals, hlamps, -, hview⟩ := beside
  rw [roles] at hlines htempo hpedals hlamps
  refine ⟨?run, ?roles, swapFade_new_live b r, swapFade_other_kept r, hscene, hview, hnew, hold, hat, howner, hf, hg, hlines,
    htempo, hpedals, hlamps, still.mem.symm, fun old h => ⟨swapFade_old_outgoing r h, swapFade_over h⟩, swapFade_alone⟩
  case run =>
    rw [exec_swap_of_due hs ((swapDue_iff hr).2 ⟨hst, harmed, hq⟩), swap_of_latch hr]
    rfl
  case roles => rwa [hnew] at roles

end Sys2Proof.Machine
end

section
/-! Sitting 4: the tempo unit (chapter 4). A beat and whom it reaches, the accumulator's addition, and the link watch. -/

namespace Sys2Proof.Machine

/-! ### A beat (R67, R84) -/

theorem markQuantize_of_latch {b : Beat} {s : State} {r : Request} (h : s.scene.latch = some r) :
    let q := r.quantize (s.bankCtl s.loadBank).profile
    markQuantize b s = if s.scene.state = .armed ∧ (q = .beat ∨ (q = .bar ∧ b.position = 0)) then
      { s with scene := { s.scene with quantMark := true } } else s := by
  intro q
  unfold markQuantize
  rw [h]
  refine if_congr (and_congr_right fun _ => ?_) rfl rfl
  change (match q with | .none => false | .beat => true | .bar => b.position == 0) = true ↔ _
  cases q <;> simp

theorem markQuantize_of_empty_latch {b : Beat} {s : State} (h : s.scene.latch = none) : markQuantize b s = s := by
  unfold markQuantize
  rw [h]

theorem markQuantize_only (b : Beat) (s : State) : markQuantize b s =
    { s with scene := { s.scene with quantMark := (markQuantize b s).scene.quantMark } } := by
  cases h : s.scene.latch with
  | none => rw [markQuantize_of_empty_latch h]
  | some r => rw [markQuantize_of_latch h]; split <;> rfl

/-- A beat marks an ARMED request that waits for one, or for a bar when the beat opens it; a mark set before stays. -/
theorem markQuantize_mark_iff (b : Beat) (s : State) : (markQuantize b s).scene.quantMark = true ↔
    s.scene.quantMark = true ∨ ∃ r, s.scene.latch = some r ∧ s.scene.state = .armed ∧
      let q := r.quantize (s.bankCtl s.loadBank).profile
      (q = .beat ∨ (q = .bar ∧ b.position = 0)) := by
  cases h : s.scene.latch with
  | none => simp [markQuantize_of_empty_latch h]
  | some r =>
    rw [markQuantize_of_latch h]
    split <;> next waits => simp [waits]

theorem produceBeat_eq (cause : BeatCause) (s : State) :
    let b : Beat := ⟨cause, s.tempo.bar, s.frameCounter⟩
    let t := { s.tempo with bar := (s.tempo.bar + 1) % 4, lastBeat := some b }
    produceBeat cause s = { s with
      tempo := t, lane := { s.lane with beats := s.lane.beats + 1 },
      lamps := { s.lamps with window := 100, windowOpen := true },
      scene := { s.scene with quantMark := (markQuantize b (setTempoUnit t s)).scene.quantMark } } := by
  intro b t
  calc produceBeat cause s
    _ = openBeatWindow (countBeat (markQuantize b (setTempoUnit t s))) := rfl
    _ = _ := by rw [markQuantize_only]; rfl

@[simp] theorem produceBeat_tempo (cause : BeatCause) (s : State) : (produceBeat cause s).tempo =
    { s.tempo with bar := (s.tempo.bar + 1) % 4, lastBeat := some ⟨cause, s.tempo.bar, s.frameCounter⟩ } := by
  rw [produceBeat_eq]

@[simp] theorem produceBeat_frameCounter (cause : BeatCause) (s : State) :
    (produceBeat cause s).frameCounter = s.frameCounter := by
  rw [produceBeat_eq]
  rfl

/-! ### The addition of a boundary (R83) -/

theorem beatDue_iff (s : State) :
    s.beatDue = true ↔ s.tempo.addDue = true ∧ 600000 ≤ s.tempo.phase + s.tempo.tempo := by
  simp [State.beatDue]

section
variable {s : State}

theorem takeAddition_of_beat (h : s.beatDue = true) : takeAddition s = produceBeat .accumulator
    { s with tempo := { s.tempo with phase := s.tempo.phase + s.tempo.tempo - 600000, addDue := false } } := if_pos h

theorem takeAddition_of_short (due : s.tempo.addDue = true) (short : s.tempo.phase + s.tempo.tempo < 600000) :
    takeAddition s =
      { s with tempo := { s.tempo with phase := s.tempo.phase + s.tempo.tempo, addDue := false } } := by
  have noBeat : ¬ s.beatDue = true := fun h => absurd ((beatDue_iff s).1 h).2 (by omega)
  exact (if_neg noBeat).trans (if_pos due)

theorem takeAddition_of_taken (h : s.tempo.addDue = false) : takeAddition s = s := by
  have noBeat : ¬ s.beatDue = true := by simp [beatDue_iff, h]
  exact (if_neg noBeat).trans (if_neg (by simp [h]))

@[simp] theorem askImpulseChunk_tempo (s : State) : (askImpulseChunk s).tempo = s.tempo := by
  cases h : s.lines.loadingSet with
  | none => rw [askImpulseChunk_of_none h]
  | some id => rw [askImpulseChunk_of_some h, askBurst_only]

theorem openBoundary_addDue (h : s.opened = false) : (openBoundary s).tempo.addDue = true := by
  rw [openBoundary_of_closed h]
  dsimp only
  rw [askImpulseChunk_tempo]

theorem exec_accumulatorBeat (s : State) :
    exec .accumulatorBeat s = plain (atBoundary State.beatDue takeAddition) s := rfl

/-! ### The link watch (R90) -/

theorem exec_linkWatchExpiry (s : State) : exec .linkWatchExpiry s = plain linkWatchExpiry s := rfl

theorem linkWatchExpiry_of_runOut (h : s.tempo.watch = some 0) :
    linkWatchExpiry s = { s with tempo := { s.tempo with watch := none, linkLost := true } } := if_pos h

theorem linkWatchExpiry_of_running (h : s.tempo.watch ≠ some 0) : linkWatchExpiry s = s := if_neg h

end

/-- Settles O45: the beat's mark, the addition by whether it is due and gives a beat, and the watch by whether it ran out. -/
theorem accumulatorBeatAndWatch : Obligations.AccumulatorBeatAndWatch := by
  refine ⟨fun cause s => ⟨_, produceBeat_eq cause s, markQuantize_mark_iff _ _⟩,
    fun s => ⟨takeAddition_of_taken, takeAddition_of_short,
      fun due full => takeAddition_of_beat ((beatDue_iff s).2 ⟨due, full⟩)⟩,
    fun s hs => ⟨openBoundary_addDue, fun gives => ?_, fun short => ?_⟩, fun s hs => ⟨fun out => ?_, fun running => ?_⟩⟩
  · rw [exec_accumulatorBeat]
    exact plain_atBoundary_of_due takeAddition hs ((beatDue_iff _).2 gives)
  · rw [exec_accumulatorBeat]
    exact plain_atBoundary_of_not_due takeAddition hs (Bool.eq_false_iff.2 fun h => short ((beatDue_iff _).1 h))
  · rw [exec_linkWatchExpiry, plain_of_free _ hs, linkWatchExpiry_of_runOut out]
  · rw [exec_linkWatchExpiry, plain_of_free _ hs, linkWatchExpiry_of_running running]

end Sys2Proof.Machine
end

section
/-! Sitting 4: taps and link beats (R85-R89, R92). Both set the tempo, make a beat, and then report a tempo that changed. -/

namespace Sys2Proof.Machine

theorem roundDiv_bounds (a : Nat) {b : Nat} (hb : 0 < b) :
    2 * b * roundDiv a b ≤ 2 * a + b ∧ 2 * a + b < 2 * b * (roundDiv a b + 1) :=
  ⟨Nat.mul_div_le _ _, Nat.lt_mul_div_succ _ (by omega)⟩

/-! ### A tempo that changed (R85, R92) -/

/-- The lane engine notes a tempo `w` set over `old`, where it is another (R85). -/
def LaneEngine.noteChange (old w : Nat) (l : LaneEngine) : LaneEngine :=
  if w = old then l else { l with notedTempo := w, tempoNoted := true }

/-- A tempo `w` set over `old` is reported, where it is another (R92). -/
def reportChange (old w : Nat) (r : Report) (s : State) : State := if w = old then s else appendReport r s

@[simp] theorem reportChange_tempo (old w : Nat) (r : Report) (s : State) :
    (reportChange old w r s).tempo = s.tempo := by
  unfold reportChange
  split
  · rfl
  · rw [appendReport_only]

theorem changeTempo_noteChange (w : Nat) (s : State) : changeTempo w s =
    { s with tempo := { s.tempo with tempo := w }, lane := s.lane.noteChange s.tempo.tempo w } := by
  rw [changeTempo_eq]
  unfold LaneEngine.noteChange
  split
  · next same => rw [same]
  · rfl

theorem changeTempo_same (s : State) : changeTempo s.tempo.tempo s = s := if_pos rfl

/-! ### The tap history (R82, R86) -/

theorem interval_eq_zero_iff (later earlier : Long) : interval later earlier = 0 ↔ earlier = later := by
  unfold interval
  bv_omega

section
variable {t : TempoUnit} {now last : Long}

theorem tapHistory_repeat (h : t.lastTap = some now) : tapHistory t now = none := by
  unfold tapHistory
  rw [h]
  exact if_pos ((interval_eq_zero_iff _ _).2 rfl)

theorem tapHistory_first (h : t.lastTap = none) : tapHistory t now = some [] := by
  unfold tapHistory
  rw [h]

theorem tapHistory_within (h : t.lastTap = some last) (other : t.lastTap ≠ some now) (hd : interval now last ≤ 2000) :
    tapHistory t now = some ((interval now last :: t.history).take 3) := by
  have apart : interval now last ≠ 0 := fun e => other (h.trans (congrArg some ((interval_eq_zero_iff _ _).1 e)))
  unfold tapHistory
  rw [h]
  exact (if_neg apart).trans (if_pos hd)

theorem tapHistory_after (h : t.lastTap = some last) (hd : 2000 < interval now last) : tapHistory t now = some [] := by
  unfold tapHistory
  rw [h]
  exact (if_neg (by omega)).trans (if_neg (by omega))

/-- Every tap but a repeat leaves a history. -/
theorem tapHistory_other (other : t.lastTap ≠ some now) : ∃ h, tapHistory t now = some h := by
  cases e : t.lastTap with
  | none => exact ⟨_, tapHistory_first e⟩
  | some last =>
    by_cases hd : interval now last ≤ 2000
    · exact ⟨_, tapHistory_within e other hd⟩
    · exact ⟨_, tapHistory_after e (by omega)⟩

end

/-! ### A tap (R86, R87, R92) -/

/-- The tempo after a tap: that of the history, or the tempo before where the tap starts a series. -/
def tempoAfterTap (before : Nat) (history : List Nat) : Nat := if history = [] then before else tapTempo history

theorem tempoAfterTap_of_series (before : Nat) {history : List Nat} (h : history ≠ []) :
    tempoAfterTap before history = tapTempo history := if_neg h

theorem changeTempo_tempoAfterTap (history : List Nat) (s : State) :
    changeTempo (tempoAfterTap s.tempo.tempo history) s =
      if history = [] then s else changeTempo (tapTempo history) s := by
  unfold tempoAfterTap
  split
  · exact changeTempo_same s
  · rfl

section
variable (ref : EntryRef) {s : State}

theorem takeTap_repeat (h : s.tempo.lastTap = some s.frameCounter) : takeTap ref s = s := by
  unfold takeTap
  rw [tapHistory_repeat h]

/-- A tap with the history it leaves: the tempo set, the phase and the beat, then the report of a tempo that changed. -/
theorem takeTap_of_history {h : List Nat} (hh : tapHistory s.tempo s.frameCounter = some h) :
    let w := tempoAfterTap s.tempo.tempo h
    takeTap ref s = reportChange s.tempo.tempo w
      (tempoReport (sourceEntry ref) s.tempo.tempo w 0 h.length h.sum s.frameCounter) (produceBeat .tap { s with
        lane := s.lane.noteChange s.tempo.tempo w,
        tempo := { s.tempo with tempo := w, history := h, lastTap := some s.frameCounter, phase := 0 } }) := by
  intro w
  let v := setTempoUnit { s.tempo with lastTap := some s.frameCounter, history := h } s
  have tempoSet : (if h = [] then v else changeTempo (tapTempo h) v) = { v with
      tempo := { v.tempo with tempo := w }, lane := v.lane.noteChange v.tempo.tempo w } :=
    (changeTempo_tempoAfterTap h v).symm.trans (changeTempo_noteChange w v)
  unfold takeTap
  rw [hh]
  dsimp only
  rw [tempoSet]
  simp only [produceBeat_tempo, produceBeat_frameCounter]
  rfl

theorem takeTap_tempo {h : List Nat} (hh : tapHistory s.tempo s.frameCounter = some h) : (takeTap ref s).tempo =
    { s.tempo with
      tempo := tempoAfterTap s.tempo.tempo h, history := h, lastTap := some s.frameCounter, phase := 0,
      bar := (s.tempo.bar + 1) % 4, lastBeat := some ⟨.tap, s.tempo.bar, s.frameCounter⟩ } := by
  rw [takeTap_of_history ref hh, reportChange_tempo, produceBeat_tempo]
  rfl

theorem takeTap_within {last : Long} (h : s.tempo.lastTap = some last) (other : s.tempo.lastTap ≠ some s.frameCounter)
    (hd : interval s.frameCounter last ≤ 2000) :
    let t := (takeTap ref s).tempo
    t.history = (interval s.frameCounter last :: s.tempo.history).take 3 ∧ t.tempo = tapTempo t.history := by
  intro t
  have unit := takeTap_tempo ref (tapHistory_within h other hd)
  have ht : t.history = (interval s.frameCounter last :: s.tempo.history).take 3 := congrArg TempoUnit.history unit
  refine ⟨ht, ?_⟩
  have series : (interval s.frameCounter last :: s.tempo.history).take 3 ≠ [] := by simp
  rw [ht]
  exact (congrArg TempoUnit.tempo unit).trans (tempoAfterTap_of_series s.tempo.tempo series)

theorem takeTap_starts (h : tapHistory s.tempo s.frameCounter = some []) :
    (takeTap ref s).tempo.history = [] ∧ (takeTap ref s).tempo.tempo = s.tempo.tempo := by
  rw [takeTap_tempo ref h]
  exact ⟨rfl, rfl⟩

end

/-! ### A link beat (R89) -/

/-- The tempo after a link beat at the interval `d` from the one before, if there was one. -/
def tempoAfterLinkBeat (before : Nat) (d : Option Nat) : Nat :=
  d.elim before fun d => if 200 ≤ d ∧ d ≤ 1500 then roundDiv 600000 d else before

theorem changeTempo_tempoAfterLinkBeat (d : Nat) (s : State) :
    changeTempo (tempoAfterLinkBeat s.tempo.tempo (some d)) s =
      if 200 ≤ d ∧ d ≤ 1500 then changeTempo (roundDiv 600000 d) s else s := by
  unfold tempoAfterLinkBeat
  dsimp only [Option.elim]
  split
  · rfl
  · exact changeTempo_same s

/-- What a link beat does once it has set the tempo: it restarts the phase and the watch, makes its beat, and a tempo other
than `before` is reported. -/
def linkBeatOver (before d : Nat) (v : State) : State :=
  let u := produceBeat .link (setTempoUnit
    { v.tempo with prevBeat := some v.frameCounter, phase := 0, watch := some 3000, linkLost := false } v)
  reportChange before u.tempo.tempo (tempoReport 0 before u.tempo.tempo 1 1 d u.frameCounter) u

section
variable {s : State}

theorem takeLinkBeat_internal (h : s.tempo.source = .internal) : takeLinkBeat s = s := if_neg (by simp [h])

theorem takeLinkBeat_over (h : s.tempo.source = .link) :
    let d := s.tempo.prevBeat.map (interval s.frameCounter)
    takeLinkBeat s =
      linkBeatOver s.tempo.tempo (d.getD 0) (changeTempo (tempoAfterLinkBeat s.tempo.tempo d) s) := by
  unfold takeLinkBeat
  rw [if_pos h]
  cases s.tempo.prevBeat with
  | none => exact congrArg (linkBeatOver s.tempo.tempo 0) (changeTempo_same s).symm
  | some p => exact congrArg (linkBeatOver s.tempo.tempo _) (changeTempo_tempoAfterLinkBeat _ s).symm

theorem takeLinkBeat_link (h : s.tempo.source = .link) :
    let d := s.tempo.prevBeat.map (interval s.frameCounter)
    let w := tempoAfterLinkBeat s.tempo.tempo d
    takeLinkBeat s = reportChange s.tempo.tempo w
      (tempoReport 0 s.tempo.tempo w 1 1 (d.getD 0) s.frameCounter) (produceBeat .link { s with
        lane := s.lane.noteChange s.tempo.tempo w,
        tempo := { s.tempo with
          tempo := w, prevBeat := some s.frameCounter, phase := 0, watch := some 3000, linkLost := false } }) := by
  intro d w
  rw [takeLinkBeat_over h, changeTempo_noteChange]
  unfold linkBeatOver
  simp only [produceBeat_tempo, produceBeat_frameCounter]
  rfl

theorem takeLinkBeat_tempo (h : s.tempo.source = .link) : (takeLinkBeat s).tempo =
    { s.tempo with
      tempo := tempoAfterLinkBeat s.tempo.tempo (s.tempo.prevBeat.map (interval s.frameCounter)),
      prevBeat := some s.frameCounter, phase := 0, watch := some 3000, linkLost := false,
      bar := (s.tempo.bar + 1) % 4, lastBeat := some ⟨.link, s.tempo.bar, s.frameCounter⟩ } := by
  rw [takeLinkBeat_link h, reportChange_tempo, produceBeat_tempo]
  rfl

end

/-! ### The TAP action (R88) -/

section
variable {f : Firing} {s : State} (tap : f.action = .tap)
include tap

theorem fireAction_tap_internal (h : s.tempo.source = .internal) :
    fireAction f s = answerFiring f (.done 0 0 0) (takeTap f.ref s) := by
  unfold fireAction
  simp only [tap, h]

theorem fireAction_tap_link (h : s.tempo.source = .link) :
    fireAction f s = answerFiring f (.failed .wrongMode 0 0 0) s := by
  unfold fireAction
  simp only [tap, h]

end

/-- Settles O46: a tap by the history it leaves, a link beat by the source, and the report's words. -/
theorem tapsAndLinkBeatsSetTempo : Obligations.TapsAndLinkBeatsSetTempo := by
  refine ⟨fun a b => roundDiv_bounds a,
    fun s f tap => ⟨fireAction_tap_internal tap, fireAction_tap_link tap⟩, fun _ _ _ _ _ _ _ => rfl, ?_⟩
  intro s noted told
  refine ⟨fun ref => ⟨takeTap_repeat ref, fun other => ?tap⟩, takeLinkBeat_internal, fun link => ?link⟩
  case tap =>
    obtain ⟨h, hh⟩ := tapHistory_other other
    have unit := takeTap_tempo ref hh
    refine ⟨?run, ?_, ?_, ?_, ?_, fun last hl => ⟨takeTap_within ref hl other, fun hd => ?late⟩, fun hl => ?first⟩
    case run =>
      rw [unit]
      exact takeTap_of_history ref hh
    case late => exact takeTap_starts ref (tapHistory_after hl hd)
    case first => exact takeTap_starts ref (tapHistory_first hl)
    all_goals rw [unit]
  case link =>
    have unit := takeLinkBeat_tempo link
    refine ⟨?run, ?_, ?_, ?_, ?_, ?_, ?_, fun p hp => ?next, fun hp => ?first⟩
    case run =>
      rw [unit]
      exact takeLinkBeat_link link
    case next | first =>
      rw [unit, hp]
      rfl
    all_goals rw [unit]

end Sys2Proof.Machine
end

section
/-! Sitting 5: what the checks of the configuration orders refuse (R96, R128, R169, R181, R209), and a pedal under a new
configuration (R128). -/

namespace Sys2Proof.Machine

/-! ### The field that is named (R209) -/

theorem firstFault_eq_none_iff (l : List (Nat × Bool)) : firstFault l = none ↔ ∀ x ∈ l, x.2 = false := by
  simp [firstFault]

theorem firstFault_eq_some_iff (l : List (Nat × Bool)) (f : Nat) : firstFault l = some f ↔
    ∃ before after, l = before ++ (f, true) :: after ∧ ∀ x ∈ before, x.2 = false := by
  simp only [firstFault, Option.map_eq_some_iff, List.find?_eq_some_iff_append]
  constructor
  · rintro ⟨⟨k, v⟩, ⟨hv, before, after, hl, none⟩, hk⟩
    obtain rfl : v = true := hv
    obtain rfl : k = f := hk
    exact ⟨before, after, hl, fun x hx => by simpa using none x hx⟩
  · rintro ⟨before, after, hl, none⟩
    exact ⟨(f, true), ⟨rfl, before, after, hl, fun x hx => by simp [none x hx]⟩, rfl⟩

/-! ### TUNER_SET (R96) -/

/-- The field at offset `k` of TUNER_SET's arguments is at fault. -/
def TunerFault (l : List Byte) (k : Nat) : Prop :=
  (k ∈ [0, 1, 2, 4, 9] ∧ 1 < byteAt l k) ∨ (k = 3 ∧ (byteAt l 3 < 1 ∨ 7 < byteAt l 3)) ∨
  (k = 5 ∧ byteAt l 5 ∉ [1, 2, 4, 8]) ∨ (k = 6 ∧ (wordAt l 6 < 4200 ∨ 4600 < wordAt l 6)) ∨
  (k = 8 ∧ (byteAt l 8 < 1 ∨ 10 < byteAt l 8))

theorem tunerFaults_named (l : List Byte) : ∀ x ∈ tunerFaults l, x.2 = true ↔ TunerFault l x.1 := by
  simp [tunerFaults, TunerFault, and_assoc]

/-! ### LINK_CONFIG (R169) -/

/-- The field at offset `k` of LINK_CONFIG's arguments is at fault: a filter's destination, below 0x28, or a field behind
the filters. -/
def LinkConfigFault (l : List Byte) (k : Nat) : Prop :=
  (k < 0x28 ∧ byteAt l k / 2 % 4 = 3) ∨ (k = 0x28 ∧ wordAt l 0x28 ∉ [125, 250, 500]) ∨
  (k = 0x2A ∧ 1023 < wordAt l 0x2A ∧ wordAt l 0x2A ≠ 0xFFFF) ∨ (k = 0x2C ∧ 63 < byteAt l 0x2C) ∨
  (k ∈ [0x2D, 0x2E] ∧ 1 < byteAt l k)

theorem linkConfigFault_of_filter (l : List Byte) {k : Nat} (h : k < 0x28) :
    LinkConfigFault l k ↔ byteAt l k / 2 % 4 = 3 := by
  have behind : ∀ j, 0x28 ≤ j → k ≠ j := by omega
  simp [LinkConfigFault, h, behind]

theorem linkConfigFaults_named (l : List Byte) : ∀ x ∈ linkConfigFaults l, x.2 = true ↔ LinkConfigFault l x.1 := by
  refine List.forall_mem_append.2 ⟨fun x hx => ?filters, ?fields⟩
  case filters =>
    obtain ⟨f, hf, rfl⟩ := List.mem_map.1 hx
    have hf := List.mem_range.1 hf
    rw [linkConfigFault_of_filter l (by omega)]
    simp [bitsOf]
  case fields => simp [LinkConfigFault, and_assoc]

/-! ### CONTROL_CONFIG (R128) -/

theorem lineMode_ofCode_eq_repeating_iff (n : Nat) : LineMode.ofCode n = .repeating ↔ 3 ≤ n := by
  match n with
  | 0 | 1 | 2 => exact iff_of_false (by decide) (by decide)
  | n + 3 => exact iff_of_true rfl (Nat.le_add_left 3 n)

/-- A line's entry is at fault: no debounce time, a repeat interval or a hold time out of its range, a hold time that is
no whole ten, or a REPEATING line with none. -/
def LineFault (e : Nat) : Prop :=
  let repeats := e / 2 ^ 9 % 2 ^ 10
  let holds := e / 2 ^ 19 % 2 ^ 12
  e / 2 ^ 4 % 2 ^ 5 = 0 ∨ repeats < 50 ∨ 1000 < repeats ∨ (holds ≠ 0 ∧ (holds < 200 ∨ 2550 < holds)) ∨ holds % 10 ≠ 0 ∨
    (e % 4 = 3 ∧ holds = 0)

theorem lineConfigFaulty_iff (e : Nat) : lineConfigFaulty e = true ↔ LineFault e := by
  have mode : 3 ≤ e % 4 ↔ e % 4 = 3 := by omega
  simp [lineConfigFaulty, lineConfigOf, LineFault, bitsOf, lineMode_ofCode_eq_repeating_iff, mode, or_assoc]

/-- The field at offset `k` of CONTROL_CONFIG's arguments is at fault: a line's entry, below 0x20, the chord window, or a
field of a pedal's entry. -/
def ControlFault (l : List Byte) (k : Nat) : Prop :=
  (k < 0x20 ∧ LineFault (longAt l k)) ∨ (k = 0x20 ∧ (wordAt l 0x20 < 20 ∨ 100 < wordAt l 0x20)) ∨
  (k ∈ [0x22, 0x28] ∧ (wordAt l k / 2 ^ 8 % 2 ^ 6 < 1 ∨ 50 < wordAt l k / 2 ^ 8 % 2 ^ 6)) ∨
  (k ∈ [0x24, 0x2A] ∧ 1020 < wordAt l k) ∨ (k ∈ [0x26, 0x2C] ∧ (1020 < wordAt l k ∨ wordAt l k = wordAt l (k - 2)))

theorem controlFault_of_line (l : List Byte) {k : Nat} (h : k < 0x20) : ControlFault l k ↔ LineFault (longAt l k) := by
  have behind : ∀ j, 0x20 ≤ j → k ≠ j := by omega
  simp [ControlFault, h, behind]

theorem controlFaults_named (l : List Byte) : ∀ x ∈ controlFaults l, x.2 = true ↔ ControlFault l x.1 := by
  simp only [controlFaults, List.forall_mem_append]
  refine ⟨⟨⟨fun x hx => ?lines, ?window⟩, ?pedal0⟩, ?pedal1⟩
  case lines =>
    obtain ⟨n, hn, rfl⟩ := List.mem_map.1 hx
    have hn := List.mem_range.1 hn
    rw [lineConfigFaulty_iff, controlFault_of_line l (by omega)]
  case window => simp [ControlFault]
  case pedal0 => simp [pedalConfigFaults, ControlFault, bitsOf]
  case pedal1 => simp [pedalConfigFaults, ControlFault, bitsOf]

/-! ### LAMP_CONFIG (R181) -/

/-- The field at offset `k` of LAMP_CONFIG's arguments is at fault, in the entry at `o` of lamp `n`. -/
def LampFault (l : List Byte) (o n k : Nat) : Prop :=
  let a := byteAt l (o + 1)
  let on := wordAt l (o + 2)
  (k = o ∧ 10 < byteAt l o) ∨
  (k = o + 1 ∧ ((byteAt l o = 2 ∧ (a / 16 % 4 ∉ [1, 2] ∨ 11 < a % 16)) ∨ (byteAt l o = 3 ∧ 63 < a) ∨
    (byteAt l o = 4 ∧ 31 < a))) ∨
  (k = o + 2 ∧ (on / 2 ^ 12 % 4 = 3 ∨ (on / 2 ^ 14 % 2 = 1 ∧ n % 2 = 1)))

theorem lampFaults_named (l : List Byte) (k n : Nat) :
    ∀ x ∈ lampFaults l k n, x.2 = true ↔ LampFault l (2 + 6 * k) n x.1 := by
  unfold lampFaults LampFault
  generalize 2 + 6 * k = o
  simp [bitsOf, outside_lane, -outside_iff, or_assoc]

/-! ### A pedal under a new configuration (R128) -/

section
variable {c : PedalConfig} {x : Pedal}

theorem Pedal.configure_disables (hc : c.enable = false) (hx : x.config.enable = true) :
    x.configure c = { x with config := c, state := .disabled, raw := 0, value := 0 } := by
  simp [Pedal.configure, hc, hx]

theorem Pedal.configure_stays_disabled (hc : c.enable = false) (hx : x.config.enable = false) :
    x.configure c = { x with config := c } := by
  simp [Pedal.configure, hc, hx]

theorem Pedal.configure_settles (hc : c.enable = true)
    (h : x.config.enable = false ∨ x.config.internalRef ≠ c.internalRef) :
    x.configure c = { x with config := c, state := .settling, discard := 4, high := 0, low := 0 } := by
  have anew : (!x.config.enable || x.config.internalRef != c.internalRef) = true := by simpa using h
  simp [Pedal.configure, hc, anew, Pedal.beginSettle]

theorem Pedal.configure_goes_on (hc : c.enable = true) (hx : x.config.enable = true)
    (hr : x.config.internalRef = c.internalRef) : x.configure c = { x with config := c } := by
  simp [Pedal.configure, hc, hx, hr]

end

/-- Settles O22: each order's list of faults, field by field, and a pedal by whether it was and is enabled. -/
theorem faultyFieldsAreNamed : Obligations.FaultyFieldsAreNamed :=
  ⟨fun l => ⟨firstFault_eq_none_iff l, firstFault_eq_some_iff l⟩,
    fun l => ⟨⟨rfl, tunerFaults_named l⟩, ⟨rfl, linkConfigFaults_named l⟩, ⟨rfl, controlFaults_named l⟩,
      fun k n => ⟨rfl, lampFaults_named l k n⟩⟩,
    fun _ _ => ⟨Pedal.configure_disables, Pedal.configure_stays_disabled, Pedal.configure_settles,
      Pedal.configure_goes_on⟩⟩

end Sys2Proof.Machine
end

section
/-! Sitting 5: the tuner (chapter 5). Its cell and who writes it, crossings and periods, readings and silence, and the
indication. -/

namespace Sys2Proof.Machine

/-! ### The cell's words (R213) -/

theorem signedByteCode_eq (x : Option Int) : signedByteCode x = x.elim 0x80 fun v => (v % 256).toNat := by
  cases x with
  | none => rfl
  | some v => simp [signedByteCode]

theorem lowWord_ofNat (n : Nat) : lowWord (BitVec.ofNat 32 n) = word n := by
  apply BitVec.eq_of_toNat_eq
  simp only [lowWord, word, BitVec.toNat_setWidth, BitVec.toNat_ofNat]
  omega

theorem highWord_ofNat (n : Nat) : highWord (BitVec.ofNat 32 n) = word (n / 65536) := by
  apply BitVec.eq_of_toNat_eq
  simp only [highWord, word, BitVec.toNat_setWidth, BitVec.toNat_ushiftRight, BitVec.toNat_ofNat, Nat.shiftRight_eq_div_pow]
  omega

theorem TunerCell.words_eq (c : TunerCell) :
    let f := c.frequency.getD 0xFFFFFFFF
    let signed := fun (x : Option Int) => x.elim 0x80 fun v => (v % 256).toNat
    c.words = [bytePair c.status.code (signed c.note), bytePair (signed c.cents) c.n, word f, word (f / 65536),
      word c.tickSum, word (c.tickSum / 65536), c.counter] := by
  intro f signed
  simp only [TunerCell.words, signedByteCode_eq, lowWord_ofNat, highWord_ofNat]
  cases h : c.frequency with
  | none => simp only [f, h]; rfl
  | some v => simp only [f, h, lowWord_ofNat, highWord_ofNat]; rfl

/-! ### A written reading (R108) -/

/-- The part with the tuner `t` and its cell written as `c`: the cell's words, and attention TUNER. -/
def State.showing (s : State) (t : Tuner) (c : TunerCell) : State := { s with
  writes := s.writes ++ wordsAt 0x100 c.words, tuner := { t with cell := c },
  disp := { s.disp with attention := { s.disp.attention with tuner := true } } }

/-- The cell that tells a status of the tuner `t` with nothing measured. -/
def Tuner.bare (status : CellStatus) (t : Tuner) : TunerCell :=
  ⟨status, none, none, none, 0, t.settings.n, t.cell.counter + 1⟩

theorem writeCell_eq (status : CellStatus) (note cents : Option Int) (frequency : Option Nat) (sum : Nat) (s : State) :
    writeCell status note cents frequency sum s =
      s.showing s.tuner ⟨status, note, cents, frequency, sum, s.tuner.settings.n, s.tuner.cell.counter + 1⟩ := rfl

theorem writeBare_eq (status : CellStatus) (s : State) : writeBare status s = s.showing s.tuner (s.tuner.bare status) := rfl

theorem natOfBool_le_one (b : Bool) : natOfBool b ≤ 1 := by cases b <;> decide

theorem attn_tuner (s : State) : s.attn.getLsbD 1 = s.disp.attention.tuner := by
  have reports := natOfBool_le_one s.reportsFlag
  unfold State.attn
  rw [BitVec.getLsbD_ofNat, Nat.testBit_eq_decide_div_mod_eq]
  cases s.disp.attention.tuner with
  | false =>
    have zero : natOfBool false = 0 := rfl
    exact decide_eq_false (by omega)
  | true =>
    have one : natOfBool true = 1 := rfl
    exact decide_eq_true (by omega)

theorem publish_showing_attn (s : State) (t : Tuner) (c : TunerCell) :
    (publish s (s.showing t c)).attn.getLsbD 1 = true := attn_tuner _

/-- Words laid out from `a` on, cut at the place of one of them. -/
theorem wordsAt_cut {l : List Word} {k : Nat} {w : Word} (h : l[k]? = some w) (a : Nat) :
    wordsAt a l = wordsAt a (l.take k) ++ (a + 2 * k, w) :: wordsAt (a + 2 * (k + 1)) (l.drop (k + 1)) := by
  induction l generalizing k a with
  | nil => cases h
  | cons x l ih =>
    cases k with
    | zero =>
      cases h
      rfl
    | succ k =>
      have next : a + 2 + 2 * k = a + 2 * (k + 1) := by omega
      have rest : a + 2 + 2 * (k + 1) = a + 2 * (k + 1 + 1) := by omega
      simp only [wordsAt, List.take_succ_cons, List.drop_succ_cons, List.cons_append]
      rw [ih h (a + 2), next, rest]

/-- The cell stands in exchange memory after the event: its words lie apart from each other and from the status words. -/
theorem publish_showing_readWord {s : State} (h : s.mem.wf = true) (t : Tuner) (c : TunerCell) {k : Nat} (hk : k < 7) :
    (publish s (s.showing t c)).mem.readWord (0x100 + 2 * k) = c.words.getD k 0 := by
  have stands : c.words[k]? = some (c.words.getD k 0) := by
    have hk : k < c.words.length := hk
    rw [List.getD_eq_getElem _ _ hk, List.getElem?_eq_getElem hk]
  have writes : (s.showing t c).writes = (s.writes ++ wordsAt 0x100 (c.words.take k)) ++
      (0x100 + 2 * k, c.words.getD k 0) :: wordsAt (0x100 + 2 * (k + 1)) (c.words.drop (k + 1)) := by
    rw [List.append_assoc, ← wordsAt_cut stands]
    rfl
  refine publish_readWord (t := s.showing t c) h _ _ _ _ writes ?_ ?_ (fun x hx => ?later) fun x hx => ?status
  case later =>
    obtain ⟨n, w, -, rfl⟩ := mem_wordsAt_get hx
    exact .inl (by dsimp only; omega)
  case status => exact statusWords_apart ((changedWords_sublist _ _).subset hx) (.inr (by omega))
  all_goals
    unfold partByte
    rw [decide_eq_true (by omega)]
    rfl

/-! ### Settling and switching (R97, R98, R107) -/

section
variable {s : State}

/-- The tuner as a settle leaves it, but for the cell. -/
def Tuner.settled (t : Tuner) : Tuner := { t.clearMeasure with discard := true, silence := some 200 }

/-- The tuner switched off, but for the cell. -/
def Tuner.switchedOff (t : Tuner) : Tuner :=
  { t.clearMeasure with settings := { t.settings with on := false }, discard := false, silence := none }

theorem settleTuner_of_settling (h : s.tuner.cell.status = .settling) :
    settleTuner s = setTuner s.tuner.settled s := if_pos h

theorem settleTuner_of_other (h : s.tuner.cell.status ≠ .settling) :
    settleTuner s = s.showing s.tuner.settled (s.tuner.bare .settling) := if_neg h

theorem settleTuner_settings : (settleTuner s).tuner.settings = s.tuner.settings := by
  by_cases h : s.tuner.cell.status = .settling
  · rw [settleTuner_of_settling h]
    rfl
  · rw [settleTuner_of_other h]
    rfl

theorem switchTunerOn_eq (s : State) :
    let on := settleTuner (setTuner { s.tuner with settings := { s.tuner.settings with on := true } } s)
    switchTunerOn s = if s.tuner.settings.thru then on else muteTuner true on := by
  unfold switchTunerOn
  simp only [settleTuner_settings]
  rfl

theorem switchTunerOff_eq (s : State) :
    let off := s.showing s.tuner.switchedOff (s.tuner.bare .off)
    switchTunerOff s = if s.tuner.settings.thru then off else muteTuner false off := rfl

end

/-! ### Crossings and a frame's samples (R100-R102, R106) -/

section
variable {t : Tuner} {c : Int}

theorem Tuner.sample_crosses (h : hysteresis t.settings.level < c) (below : t.below = 3) : t.sample c = t.crossing c :=
  if_pos ⟨h, below⟩

theorem Tuner.sample_passes (h : c ≤ hysteresis t.settings.level ∨ t.below ≠ 3) : t.sample c =
    { (if t.counting then t.addTicks t.settings.ticksPerSample else t) with
      below := if t.below = 3 then 3 else if c < -hysteresis t.settings.level then t.below + 1 else 0, prev := c } :=
  if_neg fun crosses => h.elim (fun low => absurd crosses.1 (not_lt.2 low)) fun few => few crosses.2

end

theorem tunerFrame_of_off {s : State} (input : List (Sample × Sample)) (h : s.tuner.settings.on = false) :
    tunerFrame input s = s := if_neg (by simp [h])

/-- The silence timer after a frame's samples, `timer` before them and `crossed` as a crossing among them sets it (R106;
log 18). -/
def silenceAfter (timer crossed : Option Nat) : Option Nat :=
  match crossed with
  | some v => some v
  | none => timer.map (· - 1)

theorem tunerFrame_of_on {s : State} (input : List (Sample × Sample)) (h : s.tuner.settings.on = true) :
    let xs := input.map fun x => if s.tuner.settings.sourceB then x.2.toInt else x.1.toInt
    let u := xs.foldl Tuner.sample { s.tuner with silence := none }
    tunerFrame input s = setTuner { u with silence := silenceAfter s.tuner.silence u.silence } s := if_pos h

/-! ### Whole cents (R105) -/

theorem log2_div_bounds {a b : Nat} (hb : 0 < b) (h : b ≤ a) :
    (2 : ℚ) ^ Nat.log2 (a / b) ≤ (a : ℚ) / b ∧ (a : ℚ) / b < (2 : ℚ) ^ (Nat.log2 (a / b) + 1) := by
  have low := (Nat.le_div_iff_mul_le hb).1 (Nat.log2_self_le (Nat.div_pos h hb).ne')
  have high := (Nat.div_lt_iff_lt_mul hb).1 (Nat.lt_log2_self (n := a / b))
  have pos : (0 : ℚ) < b := by exact_mod_cast hb
  rw [le_div_iff₀ pos, div_lt_iff₀ pos]
  exact_mod_cast And.intro low high

/-- `floorLog2` is the whole part of the quotient's binary logarithm. -/
theorem floorLog2_bounds {a b : Nat} (ha : 0 < a) (hb : 0 < b) :
    (2 : ℚ) ^ floorLog2 a b ≤ (a : ℚ) / b ∧ (a : ℚ) / b < (2 : ℚ) ^ (floorLog2 a b + 1) := by
  by_cases h : b ≤ a
  · have value : floorLog2 a b = (Nat.log2 (a / b) : ℤ) := if_pos h
    rw [value]
    exact_mod_cast log2_div_bounds hb h
  · obtain ⟨low, high⟩ := log2_div_bounds ha (Nat.le_of_not_le h)
    have value : floorLog2 a b =
        if b ≤ a * 2 ^ Nat.log2 (b / a) then -(Nat.log2 (b / a) : ℤ) else -((Nat.log2 (b / a) + 1 : ℕ) : ℤ) := if_neg h
    have below_iff : (b : ℚ) / a ≤ 2 ^ Nat.log2 (b / a) ↔ b ≤ a * 2 ^ Nat.log2 (b / a) := by
      rw [div_le_iff₀' (by exact_mod_cast ha)]
      exact_mod_cast Iff.rfl
    rw [value, ← inv_div (b : ℚ) a]
    generalize Nat.log2 (b / a) = l at *
    split
    · next whole =>
      rw [le_antisymm (below_iff.2 whole) low, ← zpow_natCast, ← zpow_neg]
      exact ⟨le_rfl, zpow_lt_zpow_right₀ one_lt_two (lt_add_one _)⟩
    · next part =>
      have above : (2 : ℚ) ^ l < b / a := not_le.1 (mt below_iff.1 part)
      have less : -((l + 1 : ℕ) : ℤ) + 1 = -(l : ℤ) := by omega
      have pos : (0 : ℚ) < 2 ^ l := pow_pos two_pos l
      rw [less, zpow_neg, zpow_neg, zpow_natCast, zpow_natCast]
      exact ⟨inv_anti₀ (pos.trans above) high.le, inv_strictAnti₀ pos above⟩

theorem centsFrom_bounds {f r : Nat} (hf : 0 < f) (hr : 0 < r) :
    (2 : ℚ) ^ (2 * centsFrom f r - 1) ≤ ((f : ℚ) / (10 * r)) ^ 2400 ∧
      ((f : ℚ) / (10 * r)) ^ 2400 < (2 : ℚ) ^ (2 * centsFrom f r + 1) := by
  have quotient : ((f ^ 2400 : Nat) : ℚ) / ((10 * r) ^ 2400 : Nat) = ((f : ℚ) / (10 * r)) ^ 2400 := by
    push_cast
    rw [div_pow]
  obtain ⟨low, high⟩ := floorLog2_bounds (pow_pos hf 2400) (pow_pos (Nat.mul_pos (by decide : 0 < 10) hr) 2400)
  rw [quotient] at low high
  have cents : centsFrom f r = (floorLog2 (f ^ 2400) ((10 * r) ^ 2400) + 1) / 2 := rfl
  exact ⟨(zpow_le_zpow_right₀ one_le_two (by omega)).trans low,
    high.trans_le (zpow_le_zpow_right₀ one_le_two (by omega))⟩

/-! ### Readings (R103-R105, R107) -/

/-- The cell that a complete group of the tuner `t` gives. -/
def Tuner.reading (t : Tuner) (group : List Period) : TunerCell :=
  let n := t.settings.n
  let ticks := group.map Period.ticks
  let frequency := roundDiv ((if t.settings.wide then 768000 else 3072000) * n * 100) ticks.sum
  let spread := ticks.foldl max 0 - ticks.foldl min (ticks.headD 0)
  let dc := centsFrom frequency t.settings.reference
  if group.any Period.wrapped then ⟨.lowRange, none, none, none, 0, n, t.cell.counter + 1⟩
  else if 200000 < frequency then ⟨.highRange, none, none, some frequency, ticks.sum, n, t.cell.counter + 1⟩
  else ⟨if spread * 64 * n ≤ ticks.sum then .stable else .wander, some (57 + (dc + 50) / 100),
    some (dc - 100 * ((dc + 50) / 100)), some frequency, ticks.sum, n, t.cell.counter + 1⟩

theorem centsOf_eq (dc : Int) : centsOf dc = dc - 100 * ((dc + 50) / 100) := by
  rw [centsOf, noteOf, add_sub_cancel_left]

theorem makeReading_eq (group : List Period) (s : State) :
    makeReading group s = s.showing s.tuner (s.tuner.reading group) := by
  unfold makeReading Tuner.reading
  simp only [apply_ite (s.showing s.tuner), writeCell_eq, noteOf, centsOf_eq]

/-- A whole group stands in the tuner that measures (R103). -/
def Tuner.GroupDue (t : Tuner) : Prop := t.settings.on = true ∧ 0 < t.settings.n ∧ t.settings.n ≤ t.group.length

/-- The tuner with the first group taken from its periods. -/
def Tuner.takeGroup (t : Tuner) : Tuner := { t with group := t.group.drop t.settings.n }

section
variable {s : State}

theorem groupComplete_of_due (due : s.tuner.GroupDue) : groupComplete s = if s.tuner.discard
    then setTuner { s.tuner.takeGroup with discard := false } s
    else s.showing s.tuner.takeGroup (s.tuner.reading (s.tuner.group.take s.tuner.settings.n)) := by
  obtain ⟨on, pos, whole⟩ := due
  unfold groupComplete
  rw [if_pos (by simp [on, pos, whole])]
  dsimp only
  rw [makeReading_eq]
  rfl

theorem groupComplete_of_not_due (h : ¬ s.tuner.GroupDue) : groupComplete s = s :=
  if_neg (by simpa [Tuner.GroupDue] using h)

/-! ### Silence (R106) -/

theorem silenceExpiry_of_due (h : s.tuner.silence = some 0) :
    silenceExpiry s = s.showing { s.tuner.clearMeasure with silence := none } (s.tuner.bare .silent) := if_pos h

theorem silenceExpiry_of_not_due (h : s.tuner.silence ≠ some 0) : silenceExpiry s = s := if_neg h

/-! ### The events -/

theorem exec_groupComplete (hs : s.resetHeld = false) : exec .groupComplete s = .next (publish s (groupComplete s)) :=
  plain_of_free groupComplete hs

theorem exec_silenceTimerExpiry (hs : s.resetHeld = false) :
    exec .silenceTimerExpiry s = .next (publish s (silenceExpiry s)) := plain_of_free silenceExpiry hs

end

/-- Settles O47: the cell, the switching, the samples and the two events, each by the lemmas above. -/
theorem tunerReadsOrFindsSilence : Obligations.TunerReadsOrFindsSilence := by
  refine ⟨⟨rfl, TunerCell.words_eq⟩, fun s => ?switching, fun s t c => ?cell, fun t c => ?sample,
    fun s input => ⟨tunerFrame_of_off input, tunerFrame_of_on input⟩, fun f r => centsFrom_bounds, fun s hs => ?group,
    fun s hs => ?silence⟩
  case switching =>
    refine ⟨settleTuner_of_settling, settleTuner_of_other, fun thru => ?_, fun mute => ?_, fun b => rfl⟩
    · rw [switchTunerOn_eq, switchTunerOff_eq, if_pos thru, if_pos thru]
      exact ⟨rfl, rfl⟩
    · rw [switchTunerOn_eq, switchTunerOff_eq, if_neg (by simp [mute]), if_neg (by simp [mute])]
      exact ⟨rfl, rfl⟩
  case cell => exact ⟨rfl, rfl, publish_showing_attn s t c, fun h k hk => publish_showing_readWord h t c hk⟩
  case sample => exact ⟨Tuner.sample_crosses, Tuner.sample_passes⟩
  case group =>
    refine ⟨fun due discard => ?_, fun due read => ?_, fun idle => ?_⟩
    · rw [exec_groupComplete hs, groupComplete_of_due due, if_pos discard]
      rfl
    · rw [exec_groupComplete hs, groupComplete_of_due due, if_neg (by simp [read])]
      rfl
    · rw [exec_groupComplete hs, groupComplete_of_not_due idle]
  case silence =>
    refine ⟨fun h => ?_, fun h => ?_⟩
    · rw [exec_silenceTimerExpiry hs, silenceExpiry_of_due h]
      rfl
    · rw [exec_silenceTimerExpiry hs, silenceExpiry_of_not_due h]

/-! ### The indication (R109) -/

section
variable {t : Tuner}

theorem Tuner.indication_of_not_stable (h : t.cell.status ≠ .stable) : t.indication = .none := by
  unfold Tuner.indication
  split
  · next hs _ => exact absurd hs h
  · rfl

theorem Tuner.indication_of_stable {c : Int} (hs : t.cell.status = .stable) (hc : t.cell.cents = some c) :
    t.indication = if c < -(t.settings.window : Int) then .flat
      else if (t.settings.window : Int) < c then .sharp else .inTune := by
  rw [Tuner.indication, hs, hc]

end

/-- Settles O48: by the cell's status, and the cents of a STABLE cell by where they lie to the window. -/
theorem indicationFollowsCell : Obligations.IndicationFollowsCell := by
  refine ⟨fun t => ⟨Tuner.indication_of_not_stable, fun c hs hc => ?_⟩, fun s => ⟨rfl, rfl, rfl⟩⟩
  rw [Tuner.indication_of_stable hs hc]
  refine ⟨fun flat => if_pos flat, fun low high => ?inTune, fun sharp => ?sharp⟩
  case inTune => rw [if_neg (not_lt.2 low), if_neg (not_lt.2 high)]
  case sharp => rw [if_neg (by omega), if_pos sharp]

end Sys2Proof.Machine
end

section
/-! Sitting 6: footswitches (chapter 6). A line's debounced changes and timers, the scanner's frame, presses and chords. -/

namespace Sys2Proof.Machine

/-! ### The commands of the switch scanner, each as the effect it is run with -/

theorem exec_debouncedChange (n : Fin 8) (s : State) :
    exec (.debouncedChange n) s = plain (force (fun s => (s.line n).debounceDue) (debouncedChange n)) s := rfl
theorem exec_switchSettleEnd (n : Fin 8) (s : State) : exec (.switchSettleEnd n) s = plain (settleEnd n) s := rfl
theorem exec_holdTimerExpiry (n : Fin 8) (s : State) :
    exec (.holdTimerExpiry n) s = plain (force (fun s => (s.line n).holdDue) (holdExpiry n)) s := rfl
theorem exec_repeatTimerExpiry (n : Fin 8) (s : State) :
    exec (.repeatTimerExpiry n) s = plain (force (fun s => (s.line n).reptDue) (repeatExpiry n)) s := rfl
theorem exec_chordWindowExpiry (s : State) :
    exec .chordWindowExpiry s = plain (force State.windowDue deliverWaiting) s := rfl

/-- An event that acts whole when it is due, run while the RESET line is not held. -/
theorem plain_force_of_due {due : State → Bool} {s : State} (f : State → State) (hs : s.resetHeld = false)
    (h : due s = true) : plain (force due f) s = .next (publish s (finish (f s))) := by
  rw [plain_of_free _ hs, force_of_due _ h]

theorem plain_force_of_not_due {due : State → Bool} {s : State} (f : State → State) (hs : s.resetHeld = false)
    (h : due s = false) : plain (force due f) s = .next (publish s s) := by
  rw [plain_of_free _ hs, force_of_not_due _ h]

/-! ### When a line's events are due (R113, R114, R116, R117) -/

section
variable {x : Line}

theorem Line.debounceDue_iff (x : Line) :
    x.debounceDue = true ↔ x.state ≠ .off ∧ 0 < x.config.debounce ∧ x.config.debounce ≤ x.run := by
  simp [Line.debounceDue, and_assoc]

theorem Line.debounceDue_eq_false_iff (x : Line) :
    x.debounceDue = false ↔ x.state = .off ∨ x.config.debounce = 0 ∨ x.run < x.config.debounce := by
  rw [← Bool.not_eq_true, Line.debounceDue_iff]
  simp only [not_and_or, not_not, not_lt, not_le, Nat.le_zero]

theorem Line.settleDue_of_end (hd : x.debounceDue = false) (hx : x.state = .settling) (ht : x.settle = some 0) :
    x.settleDue = true := by simp [Line.settleDue, hd, hx, ht]

theorem Line.holdDue_of_end (hd : x.debounceDue = false) (hx : x.state = .down) (ht : x.hold = some 0) :
    x.holdDue = true := by simp [Line.holdDue, hd, hx, ht]

theorem Line.reptDue_of_end (hd : x.debounceDue = false) (hx : x.state = .held) (ht : x.rept = some 0) :
    x.reptDue = true := by simp [Line.reptDue, hd, hx, ht]

/-! ### A boundary of the scanner (R113, R114, R121) -/

theorem Line.tick_off (pins : BitVec 8) (n : Nat) (h : x.state = .off) : x.tick pins n = x := if_pos h

theorem Line.tick_on (pins : BitVec 8) (n : Nat) (h : x.state ≠ .off) : x.tick pins n = { x with
    run := if (pins.getLsbD n == x.config.activeHigh) = x.level then 0 else min 31 (x.run + 1),
    settle := x.settle.map (· - 1), hold := x.hold.map (· - 1), rept := x.rept.map (· - 1) } := if_neg h

end

@[simp] theorem scannerFrame_lines_length (pins : BitVec 8) (s : State) :
    (scannerFrame pins s).scanner.lines.length = s.scanner.lines.length := by simp [scannerFrame, setScanner]

theorem scannerFrame_line {s : State} {n : Nat} {x : Line} (pins : BitVec 8) (h : s.scanner.lines[n]? = some x) :
    (scannerFrame pins s).scanner.lines[n]? = some (x.tick pins n) := by
  simp [scannerFrame, setScanner, h]

/-! ### A debounced change (R113, R114, R116-R118) -/

section
variable {s : State} {n : Nat}

/-- A line just debounced: the other level, and the run count anew. -/
def Line.changed (x : Line) : Line := { x with level := !x.level, run := 0 }

theorem debouncedChange_up (hx : (s.line n).state = .up) (hl : (s.line n).level = false) : debouncedChange n s =
    pressLine n (setLine n { (s.line n).changed with state := .down, hold := (s.line n).holdStart } s) := by
  simp only [debouncedChange, Line.changed, Line.holdStart, hx, hl, Bool.not_false]

theorem debouncedChange_down (hx : (s.line n).state = .down) (hl : (s.line n).level = true) : debouncedChange n s =
    releaseLine n (setLine n { (s.line n).changed with state := .up, hold := none } s) := by
  simp only [debouncedChange, Line.changed, hx, hl, Bool.not_true]

theorem debouncedChange_held (hx : (s.line n).state = .held) (hl : (s.line n).level = true) : debouncedChange n s =
    releaseLine n (setLine n { (s.line n).changed with state := .up, rept := none } s) := by
  simp only [debouncedChange, Line.changed, hx, hl, Bool.not_true]

theorem debouncedChange_blocked (hx : (s.line n).state = .blocked) (hl : (s.line n).level = true) :
    debouncedChange n s = setLine n { (s.line n).changed with state := .up } s := by
  simp only [debouncedChange, Line.changed, hx, hl, Bool.not_true]

theorem debouncedChange_watching (hx : (s.line n).state = .watching) :
    debouncedChange n s = pressLine n (setLine n (s.line n).changed s) := by
  simp only [debouncedChange, Line.changed, hx]

theorem debouncedChange_unready (hx : (s.line n).state = .standby ∨ (s.line n).state = .settling) :
    debouncedChange n s = setLine n (s.line n).changed s := by
  rcases hx with hx | hx <;> simp only [debouncedChange, Line.changed, hx]

/-! ### The end of a line's settle (R114) -/

theorem settleEnd_of_due (h : (s.line n).settleDue = true) : settleEnd n s = setLine n
    { s.line n with settle := none, state := if (s.line n).config.mode = .latching then .watching
      else if (s.line n).level then .blocked else .up } s := by
  refine (if_pos h).trans ?_
  cases (s.line n).config.mode <;> simp

end

/-- Settles O49: a frame line by line, a debounced change by the line's state and level, and each timer's end. -/
theorem lineStatesChange : Obligations.LineStatesChange := by
  refine ⟨fun s pins => ⟨rfl, scannerFrame_lines_length pins s, fun n x hx => ?frame⟩, fun s n hs => ⟨?due, ?idle⟩,
    fun s n hs => ?timers⟩
  case frame =>
    rw [scannerFrame_line pins hx]
    exact ⟨fun off => by rw [Line.tick_off _ _ off], fun on => by rw [Line.tick_on _ _ on]⟩
  case due =>
    intro on counts whole
    have due := (s.line n).debounceDue_iff.2 ⟨on, counts, whole⟩
    rw [exec_debouncedChange, plain_force_of_due _ hs due]
    refine ⟨fun hx hl => ?_, fun hx hl => ?_, fun hx hl => ?_, fun hx hl => ?_, fun hx => ?_, fun hx => ?_⟩
    · rw [debouncedChange_up hx hl]; rfl
    · rw [debouncedChange_down hx hl]; rfl
    · rw [debouncedChange_held hx hl]; rfl
    · rw [debouncedChange_blocked hx hl]; rfl
    · rw [debouncedChange_watching hx]; rfl
    · rw [debouncedChange_unready hx]; rfl
  case idle =>
    intro idle
    exact plain_force_of_not_due (debouncedChange n) hs ((s.line n).debounceDue_eq_false_iff.2 idle)
  case timers =>
    intro x idle
    have idle := x.debounceDue_eq_false_iff.2 idle
    refine ⟨fun hx ht => ?settle, fun hx ht => ?hold, fun hx ht => ?rept⟩
    case settle =>
      rw [exec_switchSettleEnd, plain_of_free _ hs, settleEnd_of_due (Line.settleDue_of_end idle hx ht)]
    case hold =>
      rw [exec_holdTimerExpiry, plain_force_of_due _ hs (Line.holdDue_of_end idle hx ht)]
      rfl
    case rept =>
      rw [exec_repeatTimerExpiry, plain_force_of_due _ hs (Line.reptDue_of_end idle hx ht)]
      rfl

/-! ### Chords and their lines (R121, R122) -/

section
variable {s : State} {n : Nat} {c : Chord}

theorem inChord_iff (s : State) (n : Nat) :
    s.inChord n = true ↔ ∃ c, s.scanner.chord = some c ∧ (c.a = n ∨ c.b = n) := by
  unfold State.inChord
  cases s.scanner.chord with
  | none => simp
  | some c => simp [Chord.has]

theorem inChord_of_free (h : s.scanner.chord = none) : s.inChord n = false := by
  unfold State.inChord
  rw [h]

theorem Scanner.isMember_iff (q : Scanner) (n : Nat) : q.isMember n = true ↔ ∃ p ∈ q.pairs, p.1 = n ∨ p.2 = n := by
  simp only [Scanner.isMember, List.any_eq_true, Bool.or_eq_true, beq_iff_eq]

theorem Scanner.isPair_iff (q : Scanner) (m n : Nat) : q.isPair m n = true ↔ (min m n, max m n) ∈ q.pairs :=
  List.contains_iff_mem

/-- The scanner with its waiting press taken out. -/
def State.noneWaiting (s : State) : State := { s with scanner := { s.scanner with waiting := none } }

theorem deliverWaiting_of_waiting {w : Waiting} (h : s.scanner.waiting = some w) : deliverWaiting s =
    bindingEvent (.press w.line) w.time (s.line w.line).config.report s.noneWaiting := by
  unfold deliverWaiting
  rw [h]
  rfl

/-! ### A press (R121) -/

theorem pressLine_in_chord (h : s.inChord n = true) : pressLine n s = s := if_pos h

theorem pressLine_at_once (out : s.inChord n = false) (h : s.scanner.chord ≠ none ∨ s.scanner.isMember n = false) :
    pressLine n s = bindingEvent (.press n) s.frameCounter (s.line n).config.report s := by
  have once : (s.scanner.chord.isSome || !s.scanner.isMember n) = true := by simpa [Option.isSome_iff_ne_none] using h
  unfold pressLine
  rw [if_neg (by simp [out]), if_pos once]
  rfl

section
variable (free : s.scanner.chord = none) (member : s.scanner.isMember n = true)
include free member

theorem pressLine_waits (h : s.scanner.waiting = none) : pressLine n s = startWaiting n s := by
  unfold pressLine
  rw [if_neg (by simp [inChord_of_free free]), if_neg (by simp [free, member]), h]

theorem pressLine_chords {w : Waiting} (h : s.scanner.waiting = some w) (other : w.line ≠ n)
    (pair : s.scanner.isPair w.line n = true) : pressLine n s = formChord w.line n s := by
  unfold pressLine
  rw [if_neg (by simp [inChord_of_free free]), if_neg (by simp [free, member]), h]
  exact if_pos ⟨other, pair⟩

theorem pressLine_waits_next {w : Waiting} (h : s.scanner.waiting = some w)
    (apart : w.line = n ∨ s.scanner.isPair w.line n = false) :
    pressLine n s = startWaiting n (deliverWaiting s) := by
  unfold pressLine
  rw [if_neg (by simp [inChord_of_free free]), if_neg (by simp [free, member]), h]
  refine if_neg fun both => ?_
  simp [both] at apart

end

/-! ### A release, a hold and a repeat (R119, R121, R122) -/

theorem releaseLine_in_chord (hc : s.scanner.chord = some c) (hn : c.a = n ∨ c.b = n) : releaseLine n s =
    { s with scanner := { s.scanner with chord := (c.release n).keep } } := by
  unfold releaseLine
  rw [if_pos ((inChord_iff s n).2 ⟨c, hc, hn⟩), hc]
  rfl

/-- The release of a line, as the binding unit sees it. -/
def released (n : Nat) (s : State) : State := bindingEvent (.release n) s.frameCounter (s.line n).config.report s

theorem releaseLine_of_waiting (out : s.inChord n = false) {w : Waiting} (h : s.scanner.waiting = some w)
    (own : w.line = n) : releaseLine n s = released n (deliverWaiting s) := by
  unfold releaseLine
  rw [if_neg (by simp [out]), h]
  simp only [own, beq_self_eq_true, if_true]
  rfl

theorem releaseLine_of_not_waiting (out : s.inChord n = false) (h : ∀ w, s.scanner.waiting = some w → w.line ≠ n) :
    releaseLine n s = released n s := by
  unfold releaseLine
  rw [if_neg (by simp [out])]
  cases hw : s.scanner.waiting with
  | none => rfl
  | some w =>
    simp only [beq_eq_false_iff_ne.2 (h w hw)]
    rfl

theorem timerEvent_in_chord (e : ControlEvent) (h : s.inChord n = true) : timerEvent e n s = s := if_pos h

theorem timerEvent_out_of_chord (e : ControlEvent) (h : s.inChord n = false) :
    timerEvent e n s = bindingEvent e s.frameCounter (s.line n).config.report s := if_neg (by simp [h])

/-! ### The chord window (R121) -/

theorem windowDue_of_waiting {w : Waiting} (h : s.scanner.waiting = some w) : s.windowDue = true ↔
    w.left = 0 ∧ ∀ x ∈ s.scanner.lines, x.debounceDue = false := by
  unfold State.windowDue
  rw [h]
  simp

end

/-- Settles O50: a press by the cases of R121 in order, a release by chord and waiting press, and the window's end by whether
it is due. -/
theorem chordsGatherPresses : Obligations.ChordsGatherPresses := by
  refine ⟨Line.debounceDue_iff,
    fun s m n => ⟨inChord_iff s n, s.scanner.isMember_iff n, s.scanner.isPair_iff m n, rfl⟩,
    fun s n => ⟨fun h => ⟨pressLine_in_chord h, fun e => timerEvent_in_chord e h⟩, pressLine_at_once,
      fun free member => ?member⟩,
    fun s n c hc hn => ?chord, fun s n out => ⟨fun w hw own => ?waiting, ?alone, fun e => timerEvent_out_of_chord e out⟩,
    fun s w hs hw => ⟨fun hl idle => ?ends, fun h => ?runs⟩⟩
  case member =>
    refine ⟨pressLine_waits free member, fun w hw => ⟨fun other pair => ?_, fun apart => ?_⟩⟩
    · rw [pressLine_chords free member hw other pair]
      rfl
    · rw [pressLine_waits_next free member hw apart, deliverWaiting_of_waiting hw]
      rfl
  case chord =>
    rw [releaseLine_in_chord hc hn]
    rfl
  case waiting =>
    rw [releaseLine_of_waiting out hw own, deliverWaiting_of_waiting hw, own]
    rfl
  case alone => exact releaseLine_of_not_waiting out
  case ends =>
    rw [exec_chordWindowExpiry, plain_force_of_due _ hs ((windowDue_of_waiting hw).2 ⟨hl, idle⟩),
      deliverWaiting_of_waiting hw]
    rfl
  case runs =>
    refine plain_force_of_not_due deliverWaiting hs (Bool.eq_false_iff.2 fun due => ?_)
    obtain ⟨hl, idle⟩ := (windowDue_of_waiting hw).1 due
    obtain left | ⟨x, hx, dx⟩ := h
    · omega
    · exact absurd dx (by simp [idle x hx])

end Sys2Proof.Machine
end

section
/-! Sitting 6: pedals (chapter 6). A reading's value, the readings and their events, and the events of a pedal's state. -/

namespace Sys2Proof.Machine

/-! ### The commands of the pedal converter -/

theorem exec_pedalSettleEnd (p : Fin 2) (s : State) : exec (.pedalSettleEnd p) s = plain (pedalSettleEnd p) s := rfl
theorem exec_pedalDisconnect (p : Fin 2) (s : State) : exec (.pedalDisconnect p) s = plain (pedalDisconnect p) s := rfl
theorem exec_pedalReconnect (p : Fin 2) (s : State) : exec (.pedalReconnect p) s = plain (pedalReconnect p) s := rfl

/-! ### A reading's value (R124) -/

section
variable {c : PedalConfig}

theorem PedalConfig.value_cast (c : PedalConfig) (raw : Nat) : (c.value raw : Int) =
    max 0 (min 1000 (Int.tdiv (((raw : Int) - c.heel) * 1000) ((c.toe : Int) - c.heel))) :=
  Int.toNat_of_nonneg (le_max_left _ _)

theorem PedalConfig.value_le (c : PedalConfig) (raw : Nat) : c.value raw ≤ 1000 := by
  have value := c.value_cast raw
  omega

theorem PedalConfig.value_heel (c : PedalConfig) : c.value c.heel = 0 := by
  have value := c.value_cast c.heel
  rw [sub_self, zero_mul, Int.zero_tdiv] at value
  omega

theorem PedalConfig.value_toe (h : c.heel ≠ c.toe) : c.value c.toe = 1000 := by
  have value := c.value_cast c.toe
  rw [Int.mul_tdiv_cancel_left _ (by omega)] at value
  omega

end

/-! ### A reading (R124-R127) -/

section
variable {x : Pedal} {raw : Nat} (run : Bool)

/-- A value that gives an event: the deadband away from the last event's value, or newly at an end of the way (R126). -/
def Pedal.Gives (x : Pedal) (v : Nat) : Prop :=
  x.config.deadband ≤ ((v : Int) - x.lastEvent).natAbs ∨ ((v = 0 ∨ v = 1000) ∧ v ≠ x.lastEvent)

theorem Pedal.gives_iff (x : Pedal) (v : Nat) : x.gives v = true ↔ x.Gives v := by
  simp [Pedal.gives, Pedal.Gives]

/-- A pedal with a position reading counted. -/
def Pedal.counted (x : Pedal) (raw : Nat) : Pedal := { x with raw := raw, high := 0, low := min 25 (x.low + 1) }

theorem Pedal.reading_high (h : 1020 < raw) :
    x.reading raw run = ({ x with raw := raw, high := min 25 (x.high + 1), low := 0 }, none) := if_pos h

section
variable (h : raw ≤ 1020)
include h

theorem Pedal.reading_settling (hx : x.state = .settling) :
    x.reading raw run = ({ x.counted raw with discard := x.discard - 1 }, none) := by
  unfold Pedal.reading
  rw [if_neg (by omega)]
  simp only [hx, Pedal.counted]

theorem Pedal.reading_unready (hx : x.state = .disabled ∨ x.state = .disconnected) :
    x.reading raw run = (x.counted raw, none) := by
  unfold Pedal.reading
  rw [if_neg (by omega)]
  rcases hx with hx | hx <;> simp only [hx, Pedal.counted]

/-- A READY pedal uses its reading. -/
theorem Pedal.reading_ready (hx : x.state = .ready) : x.reading raw run =
    (((x.counted raw).use (x.config.value raw) run).1,
      if ((x.counted raw).use (x.config.value raw) run).2 then some (x.config.value raw) else none) := by
  unfold Pedal.reading
  rw [if_neg (by omega)]
  simp only [hx, Pedal.counted]

end

variable {v : Nat}

theorem Pedal.use_first (hx : x.used = false) :
    x.use v run = ({ x with value := v, lastEvent := v, used := true }, false) := if_neg (by simp [hx])

theorem Pedal.use_gives (hx : x.used = true) (g : run = true ∧ x.Gives v) :
    x.use v run = ({ x with value := v, lastEvent := v }, true) := by
  unfold Pedal.use
  rw [if_pos hx, if_pos (by simp [g.1, (x.gives_iff v).2 g.2])]

theorem Pedal.use_passes (hx : x.used = true) (g : ¬ (run = true ∧ x.Gives v)) :
    x.use v run = ({ x with value := v }, false) := by
  unfold Pedal.use
  rw [if_pos hx, if_neg (by simpa [Pedal.gives_iff] using g)]

end

/-! ### A boundary's reading (R124) -/

section
variable (raw : BitVec 10) (s : State)

/-- The state with the boundary's pedal read: its new fields, and the raw field's word. -/
def State.pedalRead (raw : BitVec 10) (s : State) : State :=
  let p := s.frames % 2
  { s with pedals := putAt 2 p ((s.pedal p).reading raw.toNat (s.disp.mode == .run)).1 Pedal.reset s.pedals,
           writes := s.writes ++ [(0x11E + 6 * p, word raw.toNat)] }

theorem pedalFrame_disabled (h : (s.pedal (s.frames % 2)).config.enable = false) : pedalFrame raw s = s :=
  if_neg (by simp [h])

theorem pedalFrame_silent (h : (s.pedal (s.frames % 2)).config.enable = true)
    (r : ((s.pedal (s.frames % 2)).reading raw.toNat (s.disp.mode == .run)).2 = none) : pedalFrame raw s = s.pedalRead raw := by
  unfold pedalFrame
  rw [if_pos h]
  dsimp only
  rw [r]
  rfl

theorem pedalFrame_gives (h : (s.pedal (s.frames % 2)).config.enable = true) {v : Nat}
    (r : ((s.pedal (s.frames % 2)).reading raw.toNat (s.disp.mode == .run)).2 = some v) : pedalFrame raw s =
      bindingEvent (.pedal (s.frames % 2) v) s.frameCounter (s.pedal (s.frames % 2)).config.report (s.pedalRead raw) := by
  unfold pedalFrame
  rw [if_pos h]
  dsimp only
  rw [r]
  rfl

end

/-! ### A pedal settled, disconnected and connected again (R125, R127) -/

section
variable {x : Pedal}

theorem Pedal.settleDue_iff (x : Pedal) : x.settleDue = true ↔ x.state = .settling ∧ x.discard = 0 := by
  simp [Pedal.settleDue]

theorem Pedal.disconnectDue_iff (x : Pedal) :
    x.disconnectDue = true ↔ (x.state = .settling ∨ x.state = .ready) ∧ 25 ≤ x.high := by
  simp [Pedal.disconnectDue]

theorem Pedal.reconnectDue_iff (x : Pedal) : x.reconnectDue = true ↔ x.state = .disconnected ∧ 25 ≤ x.low := by
  simp [Pedal.reconnectDue]

variable {s : State} {p : Nat}

/-- A DISABLED pedal stays as it is under each of its events (log 1). -/
theorem pedalEvents_disabled (h : (s.pedal p).state = .disabled) :
    pedalSettleEnd p s = s ∧ pedalDisconnect p s = s ∧ pedalReconnect p s = s :=
  ⟨if_neg (by simp [Pedal.settleDue_iff, h]), if_neg (by simp [Pedal.disconnectDue_iff, h]),
    if_neg (by simp [Pedal.reconnectDue_iff, h])⟩

end

/-- Settles O51: the value by its quotient, a reading by the pedal's state and its use, and each event when it is due. -/
theorem pedalsSettleAndDisconnect : Obligations.PedalsSettleAndDisconnect := by
  refine ⟨fun c raw h => ⟨c.value_heel, PedalConfig.value_toe h, c.value_le raw, c.value_cast raw⟩,
    fun x raw run => ⟨Pedal.reading_high run, fun h => ⟨Pedal.reading_settling run h, Pedal.reading_unready run h,
      ?first, ?used⟩⟩,
    fun s raw => ⟨pedalFrame_disabled raw s, pedalFrame_silent raw s, fun v h => pedalFrame_gives raw s h⟩,
    fun s p hs => ?events⟩
  case first =>
    intro hx fresh
    rw [Pedal.reading_ready run h hx, Pedal.use_first run (x := x.counted raw) fresh]
    rfl
  case used =>
    intro hx old
    rw [Pedal.reading_ready run h hx]
    refine ⟨fun gives => ?_, fun passes => ?_⟩
    · rw [Pedal.use_gives run (x := x.counted raw) old gives]
      rfl
    · rw [Pedal.use_passes run (x := x.counted raw) old passes]
      rfl
  case events =>
    simp only [exec_pedalSettleEnd, exec_pedalDisconnect, exec_pedalReconnect, plain_of_free _ hs]
    refine ⟨fun hx hd => ?_, fun hx hh => ?_, fun hx hl => ?_, fun hx => ?_⟩
    · rw [pedalSettleEnd, if_pos ((s.pedal p).settleDue_iff.2 ⟨hx, hd⟩)]
    · rw [pedalDisconnect, if_pos ((s.pedal p).disconnectDue_iff.2 ⟨hx, hh⟩)]
    · rw [pedalReconnect, if_pos ((s.pedal p).reconnectDue_iff.2 ⟨hx, hl⟩)]
      rfl
    · obtain ⟨settle, disconnect, reconnect⟩ := pedalEvents_disabled hx
      rw [settle, disconnect, reconnect]
      exact ⟨rfl, rfl, rfl⟩

end Sys2Proof.Machine
end

section
/-! Sitting 6: the status words (R129, R206, R212, R213). What stands from an address on, unit by unit. -/

namespace Sys2Proof.Machine

/-! ### Bytes and words shown from an address on -/

/-- The bytes of a list stand from address `a` on among the status words, two to a word. -/
def State.ShowsBytes (s : State) (a : Nat) (l : List Nat) : Prop :=
  ∀ n x y, l[2 * n]? = some x → l[2 * n + 1]? = some y → (a + 2 * n, bytePair x y) ∈ s.statusWords

/-- The words of a list stand from address `a` on among the status words. -/
def State.ShowsWords (s : State) (a : Nat) (l : List Word) : Prop :=
  ∀ n w, l[n]? = some w → (a + 2 * n, w) ∈ s.statusWords

section
variable {s : State} {a k : Nat}

theorem State.ShowsBytes.part {l m : List Nat} (h : s.ShowsBytes a m) (part : StandsAt l (2 * k) m) :
    s.ShowsBytes (a + 2 * k) l := by
  intro n x y hx hy
  have shown := h (k + n) x y (by rw [Nat.mul_add]; exact part.get hx) (by rw [Nat.mul_add, Nat.add_assoc]; exact part.get hy)
  rwa [Nat.mul_add, ← Nat.add_assoc] at shown

theorem State.ShowsWords.part {l m : List Word} (h : s.ShowsWords a m) (part : StandsAt l k m) :
    s.ShowsWords (a + 2 * k) l := by
  intro n w hw
  have shown := h (k + n) w (part.get hw)
  rwa [Nat.mul_add, ← Nat.add_assoc] at shown

theorem State.ShowsBytes.append {l m : List Nat} (h : s.ShowsBytes a (l ++ m)) (even : l.length = 2 * k) :
    s.ShowsBytes a l ∧ s.ShowsBytes (a + 2 * k) m :=
  ⟨h.part (k := 0) ⟨[], m, rfl, rfl⟩, h.part ⟨l, [], by simp, even⟩⟩

theorem State.ShowsWords.append {l m : List Word} (h : s.ShowsWords a (l ++ m)) (length : l.length = k) :
    s.ShowsWords a l ∧ s.ShowsWords (a + 2 * k) m :=
  ⟨h.part (k := 0) ⟨[], m, rfl, rfl⟩, h.part ⟨l, [], by simp, length⟩⟩

/-- Words shown as bytes. -/
theorem State.ShowsBytes.words {l : List Word} (h : s.ShowsBytes a (bytesOfWords l)) : s.ShowsWords a l := by
  intro n w hw
  obtain ⟨low, high⟩ := bytesOfWords_get hw
  have shown := h n _ _ low high
  rwa [bytePair_bytesOfWord] at shown

/-- Bytes shown as words. -/
theorem State.ShowsWords.bytes {l : List Nat} (h : s.ShowsWords a (wordsOfBytes l)) : s.ShowsBytes a l :=
  fun n _ _ hx hy => h n _ (wordsOfBytes_get n hx hy)

end

variable (s : State)

/-! ### The addresses (R212, R213) -/

theorem mem_statusAddresses_iff (a : Nat) :
    a ∈ statusAddresses ↔ a % 2 = 0 ∧ (a < 0x100 ∨ (0x110 ≤ a ∧ a < 0x200)) := by
  constructor
  · intro h
    have place := mem_statusAddresses h
    omega
  · rintro ⟨even, place⟩
    simp only [statusAddresses, List.mem_append, List.mem_map, List.mem_range]
    rcases place with low | high
    · exact .inl (.inl ⟨a / 2, by omega, by omega⟩)
    · by_cases cell : a < 0x128
      · exact .inl (.inr ⟨(a - 0x110) / 2, by omega, by omega⟩)
      · exact .inr ⟨(a - 0x128) / 2, by omega, by omega⟩

theorem statusWord_at_iff (a : Nat) :
    (∃ w, (a, w) ∈ s.statusWords) ↔ a % 2 = 0 ∧ (a < 0x100 ∨ (0x110 ≤ a ∧ a < 0x200)) := by
  rw [← mem_statusAddresses_iff, ← statusWords_fst s]
  simp

/-- The configurations in force stand in the status extension. -/
theorem configWords_mem_statusWords : ∀ x ∈ wordsAt 0x128 s.controlWords ++ wordsAt 0x158 s.link.config.words ++
    wordsAt 0x188 s.lamps.configWords ++ wordsAt 0x1D0 s.lamps.gapWords, x ∈ s.statusWords := by
  obtain ⟨control, link, lamps, gaps, -⟩ := extension_parts s
  simp only [List.forall_mem_append]
  exact ⟨⟨⟨extension_wordsAt control, extension_wordsAt link⟩, extension_wordsAt lamps⟩, extension_wordsAt gaps⟩

/-! ### Where each unit's bytes and words are shown -/

theorem units_shown : s.ShowsBytes 0x00 s.dispatcherBytes ∧ s.ShowsBytes 0x1A s.laneBytes ∧
    s.ShowsBytes 0x6C s.lineBytes ∧ s.ShowsBytes 0xB6 s.sceneBytes ∧ s.ShowsBytes 0xC4 s.tempoBytes ∧ s.ShowsBytes 0xC8 s.tunerBytes ∧
    s.ShowsBytes 0xCC s.bindBytes ∧ s.ShowsBytes 0xD0 s.linkBytes ∧ s.ShowsBytes 0xF2 s.lampBytes := by
  have block {l : List Nat} {k : Nat} (h : StandsAt l (2 * k) s.statusBlock) : s.ShowsBytes (2 * k) l :=
    fun _ _ _ => statusBlock_bytes h
  obtain ⟨dispatcher, lane, line, scene, tempo, tuner, bind, link, lamp⟩ := statusBlock_parts s
  exact ⟨block (k := 0) dispatcher, block (k := 13) lane, block (k := 54) line, block (k := 91) scene,
    block (k := 98) tempo, block (k := 100) tuner, block (k := 102) bind, block (k := 104) link, block (k := 121) lamp⟩

theorem controlCell_shown : s.ShowsBytes 0x110 s.controlCell :=
  fun _ _ _ => controlCell_bytes (k := 0) ⟨[], [], by simp, rfl⟩

theorem configs_shown : s.ShowsWords 0x128 s.controlWords ∧ s.ShowsWords 0x158 s.link.config.words ∧
    s.ShowsWords 0x188 s.lamps.configWords ∧ s.ShowsWords 0x1D0 s.lamps.gapWords ∧
    s.ShowsWords 0x1D6 (0 :: ((List.range 12).map fun n => word (s.lamps.lamp n).load.bits) ++ List.replicate 8 0) := by
  have extension {l : List Word} {k : Nat} (h : StandsAt l k s.extensionWords) : s.ShowsWords (0x128 + 2 * k) l :=
    fun _ _ => extension_words h
  obtain ⟨control, link, lamps, gaps, loads⟩ := extension_parts s
  exact ⟨extension control, extension link, extension lamps, extension gaps, extension loads⟩

/-! ### The order dispatcher, bytes 0x00 to 0x19 -/

/-- The slot byte of a hold: NONE for an EMPTY one and for a notice. -/
def Hold.slotByte (x : Hold) : Nat :=
  match x.state, x.origin with
  | .empty, _ => 0xFF
  | _, .slot i => i
  | _, .notice => 0xFF

theorem Hold.orNone_slot (x : Hold) : orNone x.slot = x.slotByte := by
  unfold Hold.slot Hold.slotByte
  cases x.state <;> cases x.origin <;> rfl

theorem runningSlot_some {o : Owner} {i : Nat} (h : s.runningSlot o = some i) :
    i < 32 ∧ (s.slot i).state = .running ∧ (s.slot i).owner = some o := by
  have mem := List.mem_of_find?_eq_some h
  have runs := List.find?_some h
  simp only [List.mem_range, Bool.and_eq_true, beq_iff_eq] at mem runs
  exact ⟨mem, runs⟩

theorem runningSlot_none {o : Owner} (h : s.runningSlot o = none) :
    ∀ i < 32, (s.slot i).state = .running → (s.slot i).owner ≠ some o := by
  intro i hi runs own
  have fails := List.find?_eq_none.1 h i (List.mem_range.2 hi)
  simp [runs, own] at fails

theorem dispatcher_shown :
    let m := s.disp.misuse
    s.ShowsBytes 0x00 [s.modeBits, m.elim 0 fun x => x.cause.code + 128 * natOfBool x.more, m.elim 0 fun x => x.slot.toNat,
      s.disp.dropped] ∧
    s.ShowsWords 0x04 [lowWord (m.elim 0 Misuse.time), highWord (m.elim 0 Misuse.time)] ∧
    s.ShowsBytes 0x08 [s.slotCount .free, s.slotCount .waiting, s.slotCount .running, s.slotCount .done] ∧
    s.ShowsWords 0x0C [s.disp.postCounter] ∧
    s.ShowsBytes 0x0E (([.sceneUnit, .laneEngine, .lineMemory, .tuner, .tempoUnit, .bindingUnit, .switchScanner,
      .lampDriver].map fun o => orNone (s.runningSlot o)) ++
        [(s.hold 0).slotByte, (s.hold 1).slotByte, (s.hold 2).slotByte, 0]) := by
  obtain ⟨shown, -⟩ := units_shown s
  simp only [State.dispatcherBytes, Hold.orNone_slot] at shown
  obtain ⟨shown, running⟩ := shown.append (k := 7) (by simp)
  obtain ⟨shown, posts⟩ := shown.append (k := 6) (by simp)
  obtain ⟨shown, slots⟩ := shown.append (k := 4) (by simp)
  obtain ⟨mode, time⟩ := shown.append (k := 2) (by simp)
  cases h : s.disp.misuse <;> simp only [h] at mode time <;>
    exact ⟨mode, time.words, slots, posts.words (l := [s.disp.postCounter]), running⟩

/-! ### The lane engine, bytes 0x1A to 0x6B -/

/-- The stage at one of the 24 positions of the LIVE bank, lane 1's before lane 2's. -/
def State.livePosition (s : State) (n : Nat) : Option Stage := s.liveBank.bind fun k =>
  if n < 12 then (s.lane.banks.get k).stageAt .one n else (s.lane.banks.get k).stageAt .two (n - 12)

theorem liveStages_eq : s.liveStages = (List.range 24).map s.livePosition := by
  unfold State.liveStages State.livePosition
  cases s.liveBank <;> rfl

theorem stageByte_eq (x : Option Stage) : stageByte x = x.elim 0 fun x =>
    x.kind.code + 16 * natOfBool x.bypass + 32 * natOfBool x.tempoClamped + 64 * natOfBool x.tapsClamped := by
  cases x <;> rfl

theorem delayTime_eq (x : Option Stage) : delayTime x = x.elim 0 fun x => if x.kind = .delay then x.tap.inUse else 0 := by
  cases x <;> rfl

theorem lane_shown :
    let e := s.lane
    s.ShowsBytes 0x1A [e.mute.code, e.ramp.code + 4 * e.banks.a.runMode.code + 16 * e.banks.b.runMode.code] ∧
    s.ShowsWords 0x1C [word e.banks.a.cost, word e.banks.a.trailCost, word e.banks.b.cost, word e.banks.b.trailCost] ∧
    s.ShowsBytes 0x24 ((List.range 24).map fun n => stageByte (s.livePosition n)) ∧
    s.ShowsWords 0x3C ((List.range 24).map fun n => word (delayTime (s.livePosition n))) := by
  obtain ⟨-, shown, -⟩ := units_shown s
  simp only [State.laneBytes, liveStages_eq, List.map_map] at shown
  obtain ⟨shown, delays⟩ := shown.append (k := 17) (by simp)
  obtain ⟨shown, stages⟩ := shown.append (k := 5) (by simp)
  obtain ⟨modes, costs⟩ := shown.append (k := 1) (by simp)
  exact ⟨modes, costs.words, stages, delays.words⟩

/-! ### The line memory manager, bytes 0x6C to 0xB5 -/

theorem line_shown :
    let l := s.lines
    s.ShowsWords 0x6C [word l.freeCount, word (l.bankBlocks .a), word (l.bankBlocks .b), word l.impulseBlocks,
      word l.zeroQueue.length] ∧
    ∀ id < 16, s.ShowsWords (0x76 + 4 * id) [word (l.impulse id).taps] ∧ s.ShowsBytes (0x78 + 4 * id)
      [(l.impulse id).state.code + 4 * countHolders (· == .impulse id) l.map, l.usersOf id] := by
  obtain ⟨-, -, shown, -⟩ := units_shown s
  simp only [State.lineBytes] at shown
  obtain ⟨totals, sets⟩ := shown.append (k := 5) (by simp)
  refine ⟨totals.words, fun id hid => ?_⟩
  have place := standsAt_flatMap (fun id => bytesOfWord (word (s.lines.impulse id).taps) ++
    [(s.lines.impulse id).state.code + 4 * countHolders (· == .impulse id) s.lines.map, s.lines.usersOf id]) 4
    (fun _ => rfl) hid
  rw [show 4 * id = 2 * (2 * id) by omega] at place
  obtain ⟨taps, users⟩ := (sets.part place).append (k := 1) rfl
  rw [show 0x6C + 2 * 5 + 2 * (2 * id) = 0x76 + 4 * id by omega] at taps users
  rw [show 0x76 + 4 * id + 2 * 1 = 0x78 + 4 * id by omega] at users
  exact ⟨taps.words (l := [word (s.lines.impulse id).taps]), users⟩

/-! ### The scene unit, bytes 0xB6 to 0xC3 -/

theorem latchBytes_eq (x : Option Request) : latchBytes x =
    (x.elim [0, 0xFF] fun r => [1 + 2 * r.kind.code, r.scene]) ++ bytesOfWord (x.elim 0 fun r => word r.origin.source) := by
  cases x <;> rfl

theorem scene_shown :
    let u := s.scene
    s.ShowsBytes 0xB6 [orNone s.activeScene, u.state.code, u.banks.a.state.code, orNone u.banks.a.scene,
      u.banks.b.state.code, orNone u.banks.b.scene] ∧
    s.ShowsBytes 0xBC (u.latch.elim [0, 0xFF] fun r => [1 + 2 * r.kind.code, r.scene]) ∧
    s.ShowsWords 0xBE [u.latch.elim 0 fun r => word r.origin.source] ∧
    s.ShowsBytes 0xC0 [u.setList.count,
      natOfBool u.setList.wrap + 2 * natOfBool u.setList.preload + 4 * natOfBool u.preloadMark, u.cursor, 0] := by
  have two : (s.scene.latch.elim [0, 0xFF] fun r => [1 + 2 * r.kind.code, r.scene]).length = 2 * 1 := by
    cases s.scene.latch <;> rfl
  obtain ⟨-, -, -, shown, -⟩ := units_shown s
  simp only [State.sceneBytes, latchBytes_eq] at shown
  obtain ⟨shown, setList⟩ := shown.append (k := 5) (by simp [two])
  obtain ⟨states, latch⟩ := shown.append (k := 3) (by simp)
  obtain ⟨request, origin⟩ := latch.append two
  exact ⟨states, request, origin.words (l := [s.scene.latch.elim 0 fun r => word r.origin.source]), setList⟩

/-! ### The tempo unit, the tuner and the binding unit, bytes 0xC4 to 0xCF -/

theorem tempo_shown : s.ShowsWords 0xC4 [word s.tempo.tempo] ∧ s.ShowsBytes 0xC6 [s.tempo.source.code + 2 * s.tempo.bar +
    16 * s.tempo.history.length + 64 * natOfBool s.tempo.linkLost, 0] := by
  obtain ⟨-, -, -, -, shown, -⟩ := units_shown s
  obtain ⟨tempo, marks⟩ := State.ShowsBytes.append (k := 1) shown rfl
  exact ⟨tempo.words (l := [word s.tempo.tempo]), marks⟩

theorem tuner_shown :
    let t := s.tuner.settings
    s.ShowsBytes 0xC8 [natOfBool t.on + 2 * natOfBool t.thru + 4 * natOfBool t.sourceB + 8 * natOfBool t.wide +
      16 * natOfBool t.autoOff + 32 * t.level, t.window + 16 * t.n] ∧ s.ShowsWords 0xCA [word t.reference] := by
  obtain ⟨-, -, -, -, -, shown, -⟩ := units_shown s
  obtain ⟨settings, reference⟩ := State.ShowsBytes.append (k := 1) shown rfl
  exact ⟨settings, reference.words (l := [word s.tuner.settings.reference])⟩

/-- The view bits: 0 for no view, else 1 for bank A and 2 for bank B. -/
def viewCode (view : Option BankId) : Nat := view.elim 0 fun k => if k = .a then 1 else 2

theorem bindBytes_eq : s.bindBytes = [(s.bind.global.filter Option.isSome).length,
    viewCode s.bind.view + 4 * s.localEntries.length] ++ bytesOfWord s.bind.fires := by
  unfold State.bindBytes
  cases s.bind.view with
  | none => rfl
  | some k => cases k <;> rfl

theorem bind_shown :
    s.ShowsBytes 0xCC [(s.bind.global.filter Option.isSome).length, viewCode s.bind.view + 4 * s.localEntries.length] ∧
    s.ShowsWords 0xCE [s.bind.fires] := by
  obtain ⟨-, -, -, -, -, -, shown, -⟩ := units_shown s
  rw [bindBytes_eq] at shown
  obtain ⟨counts, fires⟩ := shown.append (k := 1) rfl
  exact ⟨counts, fires.words (l := [s.bind.fires])⟩

/-! ### The link controller, bytes 0xD0 to 0xF1 -/

theorem hold_shown {x : Hold} {a : Nat} (h : s.ShowsBytes a (holdBytes x)) :
    s.ShowsBytes a [x.state.code + 4 * natOfBool x.isNotice, x.slotByte] ∧ s.ShowsWords (a + 2) [word x.message.topic] ∧
      s.ShowsBytes (a + 4) [x.attempts, x.losses] := by
  simp only [holdBytes, Hold.orNone_slot] at h
  obtain ⟨h, counts⟩ := h.append (k := 2) (by simp)
  obtain ⟨state, topic⟩ := h.append (k := 1) (by simp)
  exact ⟨state, topic.words (l := [word x.message.topic]), counts⟩

theorem link_shown :
    let l := s.link
    s.ShowsBytes 0xD0 [l.state.code + 4 * l.engagement.code + 16 * natOfBool l.rejoinMark + 32 * natOfBool l.addressSeen,
      l.tec, l.rec_, l.rejoinCount, l.notices.length, orNone (l.lastError.map errorCode)] ∧
    s.ShowsWords 0xD6 [lowWord l.lastErrorTime, highWord l.lastErrorTime, l.sent, l.received, l.failed] ∧
    ∀ h < 3,
      let x := s.hold h
      s.ShowsBytes (0xE0 + 6 * h) [x.state.code + 4 * natOfBool x.isNotice, x.slotByte] ∧
        s.ShowsWords (0xE2 + 6 * h) [word x.message.topic] ∧ s.ShowsBytes (0xE4 + 6 * h) [x.attempts, x.losses] := by
  obtain ⟨-, -, -, -, -, -, -, shown, -⟩ := units_shown s
  obtain ⟨shown, hold2⟩ := shown.append (k := 14) (by simp [holdBytes])
  obtain ⟨shown, hold1⟩ := shown.append (k := 11) (by simp [holdBytes])
  obtain ⟨shown, hold0⟩ := shown.append (k := 8) (by simp)
  rw [List.append_assoc] at shown
  obtain ⟨states, counts⟩ := shown.append (k := 3) (by simp)
  refine ⟨states, counts.words (l := [lowWord s.link.lastErrorTime, highWord s.link.lastErrorTime, s.link.sent,
    s.link.received, s.link.failed]), fun h hh => ?_⟩
  match h, hh with
  | 0, _ => exact hold_shown s hold0
  | 1, _ => exact hold_shown s hold1
  | 2, _ => exact hold_shown s hold2

/-! ### The lamp driver, bytes 0xF2 to 0xFF -/

theorem lamp_shown :
    s.ShowsWords 0xF2 [word ((List.range 12).map fun n => natOfBool (s.lamps.lamp n).cond * 2 ^ n).sum] ∧
    s.ShowsBytes 0xF4 [natOfBool s.lamps.windowOpen,
      s.lamps.pending.elim 0 fun p => 128 + 16 * p.configs.length + p.first] ∧
    s.ShowsWords 0xF6 [0, 0, 0, 0, 0] := by
  obtain ⟨-, -, -, -, -, -, -, -, shown⟩ := units_shown s
  obtain ⟨shown, zeros⟩ := State.ShowsBytes.append (k := 2) shown rfl
  obtain ⟨conds, pending⟩ := shown.append (k := 1) rfl
  refine ⟨conds.words (l := [word _]), ?_, zeros.words (l := [0, 0, 0, 0, 0])⟩
  cases h : s.lamps.pending <;> rw [h] at pending <;> exact pending

/-! ### The control cell, bytes 0x110 to 0x127 -/

theorem cell_shown :
    s.ShowsBytes 0x110 ((List.range 8).map fun n => (s.line n).state.code + 128 * natOfBool (s.line n).level) ∧
    s.ShowsBytes 0x118 [orNone (s.scanner.waiting.map Waiting.line), orNone (s.scanner.chord.map Chord.a),
      orNone (s.scanner.chord.map Chord.b), 0] ∧
    ∀ p < 2, s.ShowsBytes (0x11C + 6 * p) [(s.pedal p).state.code, 0] ∧
      s.ShowsWords (0x11E + 6 * p) [word (s.pedal p).raw, word (s.pedal p).value] := by
  obtain ⟨shown, pedal1⟩ := (controlCell_shown s).append (k := 9) (by simp [pedalBytes])
  obtain ⟨shown, pedal0⟩ := shown.append (k := 6) (by simp)
  obtain ⟨lines, chords⟩ := shown.append (k := 4) (by simp)
  obtain ⟨state0, values0⟩ := State.ShowsBytes.append (k := 1) pedal0 rfl
  obtain ⟨state1, values1⟩ := State.ShowsBytes.append (k := 1) pedal1 rfl
  refine ⟨lines, chords, fun p hp => ?_⟩
  match p, hp with
  | 0, _ => exact ⟨state0, values0.words⟩
  | 1, _ => exact ⟨state1, values1.words⟩

/-! ### The configurations, words 0x128 to 0x1FF -/

theorem control_shown :
    (∀ n < 8, s.ShowsWords (0x128 + 4 * n) [lowWord (BitVec.ofNat 32 (s.line n).config.entry),
      highWord (BitVec.ofNat 32 (s.line n).config.entry)]) ∧
    s.ShowsWords 0x148 [word s.scanner.window] ∧ (∀ p < 2, s.ShowsWords (0x14A + 6 * p) (s.pedal p).config.words) ∧
    s.ShowsWords 0x156 [0] := by
  obtain ⟨shown, -⟩ := configs_shown s
  obtain ⟨shown, zero⟩ := shown.append (k := 23) (by simp [flatMap_length_const _ 2, PedalConfig.words])
  obtain ⟨shown, pedal1⟩ := shown.append (k := 20) (by simp [flatMap_length_const _ 2, PedalConfig.words])
  obtain ⟨shown, pedal0⟩ := shown.append (k := 17) (by simp [flatMap_length_const _ 2])
  obtain ⟨lines, window⟩ := shown.append (k := 16) (by simp [flatMap_length_const _ 2])
  refine ⟨fun n hn => ?_, window, fun p hp => ?_, zero⟩
  · have line := lines.part (standsAt_flatMap _ 2 (fun _ => rfl) hn)
    rwa [show 0x128 + 2 * (2 * n) = 0x128 + 4 * n by omega] at line
  · match p, hp with
    | 0, _ => exact pedal0
    | 1, _ => exact pedal1

theorem linkConfig_shown :
    let c := s.link.config
    let f := fun n => c.filters.getD n Filter.reset
    (∀ n < 8, s.ShowsWords (0x158 + 4 * n) [(f n).code, (f n).mask]) ∧
    s.ShowsBytes 0x178 ((List.range 8).map fun n => (f n).flags) ∧
    s.ShowsWords 0x180 [word c.rate, word (c.beatTopic.getD 0xFFFF)] ∧
    s.ShowsBytes 0x184 [c.address, natOfBool c.autoRejoin, natOfBool c.loopback, 0] := by
  intro c f
  obtain ⟨-, shown, -⟩ := configs_shown s
  obtain ⟨shown, rest⟩ := shown.append (k := 20) (by simp [flatMap_length_const _ 2])
  obtain ⟨filters, flags⟩ := shown.append (k := 16) (by simp [flatMap_length_const _ 2])
  obtain ⟨rates, marks⟩ := State.ShowsWords.append (k := 2) (l := [word c.rate, word (c.beatTopic.getD 0xFFFF)]) rest rfl
  refine ⟨fun n hn => ?_, flags.bytes (l := (List.range 8).map fun n => (f n).flags), rates,
    marks.bytes (l := [c.address, natOfBool c.autoRejoin, natOfBool c.loopback, 0])⟩
  have filter := filters.part (standsAt_flatMap (fun n => [(f n).code, (f n).mask]) 2 (fun _ => rfl) hn)
  rwa [show 0x158 + 2 * (2 * n) = 0x158 + 4 * n by omega] at filter

theorem lampConfig_shown :
    (∀ n < 12, s.ShowsWords (0x188 + 6 * n) (s.lamps.lamp n).config.words) ∧
    s.ShowsBytes 0x1D0 ((List.range 6).map fun k => (s.lamps.lamp (2 * k)).config.gap) ∧ s.ShowsWords 0x1D6 [0] ∧
    s.ShowsWords 0x1D8 ((List.range 12).map fun n => word (s.lamps.lamp n).load.bits) ∧
    s.ShowsWords 0x1F0 (List.replicate 8 0) := by
  obtain ⟨-, -, configs, gaps, shown⟩ := configs_shown s
  obtain ⟨shown, zeros⟩ := shown.append (k := 13) (by simp)
  obtain ⟨zero, loads⟩ := State.ShowsWords.append (k := 1) (l := [0]) shown rfl
  refine ⟨fun n hn => ?_, gaps.bytes (l := (List.range 6).map fun k => (s.lamps.lamp (2 * k)).config.gap), zero,
    loads, zeros⟩
  have config := configs.part (standsAt_flatMap _ 3 (fun _ => rfl) hn)
  rwa [show 0x188 + 2 * (3 * n) = 0x188 + 6 * n by omega] at config

/-! ### The codes -/

theorem highWord_eq (l : Long) : highWord l = l.extractLsb' 16 16 := by
  apply BitVec.eq_of_toNat_eq
  simp [highWord]

/-- Settles O8: the codes by their definitions, the addresses, and the bytes and words of each unit in the order of the
tables. -/
theorem statusWordsShowState : Obligations.StatusWordsShowState := by
  refine ⟨?codes, fun s => ⟨?nodup, configWords_mem_statusWords s, statusWord_at_iff s, ?dispatcher, ?lane, line_shown s,
    scene_shown s, tempo_shown s, tuner_shown s, bind_shown s, link_shown s, lamp_shown s, cell_shown s, control_shown s,
    linkConfig_shown s, lampConfig_shown s⟩⟩
  case codes =>
    refine ⟨rfl, rfl, rfl, rfl, rfl, rfl, rfl, rfl, rfl, rfl, rfl, rfl, rfl, rfl, rfl, rfl, rfl, rfl, fun _ _ _ => rfl,
      fun _ _ => rfl, fun _ _ => rfl, fun _ => rfl, fun l => ⟨rfl, highWord_eq l⟩⟩
  case nodup =>
    rw [statusWords_fst]
    exact statusAddresses_nodup
  case dispatcher => exact ⟨fun o => ⟨fun i => runningSlot_some s, runningSlot_none s⟩, dispatcher_shown s⟩
  case lane =>
    have shown := lane_shown s
    simp only [stageByte_eq, delayTime_eq] at shown
    exact shown

end Sys2Proof.Machine
end

section
/-! Sitting 7: bindings (chapter 7). The words of an event in its reports (R211), the triggers it matches (R134), and the entry
it fires or the report it makes (R135, R142). -/

namespace Sys2Proof.Machine

/-! ### The words of an event (R211; log 69) -/

/-- A report of `n` words of detail is filled up to twelve. -/
theorem Report.words_of_length (r : Report) {n : Nat} (h : r.detail.length = n) (hn : n ≤ 12) : r.words =
    [bytePair r.kind r.flags, word r.source, lowWord r.time, highWord r.time] ++
      (r.detail ++ List.replicate (12 - n) 0) := by
  rw [Report.words, List.take_append, h, List.take_of_length_le (by omega), List.take_replicate, Nat.min_eq_left (by omega)]

@[simp] theorem ControlEvent.words_length (e : ControlEvent) : e.words.length = 4 := by cases e <;> rfl

theorem switchEventReport_words (e : ControlEvent) (time : Long) : (switchEventReport e time).words =
    [bytePair 7 0, word e.source, lowWord time, highWord time] ++ e.words.take 3 ++ List.replicate 9 0 := by
  have three : (switchEventReport e time).detail.length = 3 := by simp [switchEventReport]
  rw [Report.words_of_length _ three (by decide), List.append_assoc]
  rfl

/-- The first payload byte shown is 0 where the message is empty (log 69). -/
theorem ControlEvent.words_link (k sender : Nat) (m : Message) : (ControlEvent.link k sender m).words =
    [bytePair 7 sender, bytePair 0 m.length, word m.topic, bytePair (m.payload.headD 0).toNat 0] := by
  simp [ControlEvent.words, List.headD_eq_head?_getD, List.getD_eq_getElem?_getD, List.head?_eq_getElem?]

/-! ### What each trigger matches (R134) -/

section
variable (e : ControlEvent)

theorem Trigger.hits_press (n : Nat) : (Trigger.press n).hits e = true ↔ e = .press n := by
  cases e <;> simp [Trigger.hits, @eq_comm _ n]

theorem Trigger.hits_release (n : Nat) : (Trigger.release n).hits e = true ↔ e = .release n := by
  cases e <;> simp [Trigger.hits, @eq_comm _ n]

theorem Trigger.hits_hold (n : Nat) : (Trigger.hold n).hits e = true ↔ e = .hold n := by
  cases e <;> simp [Trigger.hits, @eq_comm _ n]

theorem Trigger.hits_rept (n : Nat) : (Trigger.rept n).hits e = true ↔ e = .rept n := by
  cases e <;> simp [Trigger.hits, @eq_comm _ n]

theorem Trigger.hits_chord (x y : Nat) : (Trigger.chord x y).hits e = true ↔ e = .chord x y ∨ e = .chord y x := by
  cases e with
  | chord u v => simp [Trigger.hits, @eq_comm _ x, @eq_comm _ y, @and_comm (v = x)]
  | _ => simp [Trigger.hits]

theorem Trigger.hits_pedal (p : Nat) : (Trigger.pedal p).hits e = true ↔ ∃ v, e = .pedal p v := by
  cases e <;> simp [Trigger.hits, @eq_comm _ p]

theorem Trigger.hits_link (code mask : Nat) (first : Option Byte) : (Trigger.link code mask first).hits e = true ↔
    ∃ n sender m, e = .link n sender m ∧ m.topic &&& mask = code &&& mask ∧
      ∀ x, first = some x → 1 ≤ m.length ∧ m.payload.head? = some x := by
  cases e with
  | link n sender m => cases first <;> simp [Trigger.hits]
  | _ => simp [Trigger.hits]

end

theorem Trigger.hits_iff (t : Trigger) (e : ControlEvent) : t.hits e = true ↔
    (∃ n, (t = .press n ∧ e = .press n) ∨ (t = .release n ∧ e = .release n) ∨ (t = .hold n ∧ e = .hold n) ∨
      (t = .rept n ∧ e = .rept n)) ∨
    (∃ x y, t = .chord x y ∧ (e = .chord x y ∨ e = .chord y x)) ∨ (∃ p v, t = .pedal p ∧ e = .pedal p v) ∨
    ∃ code mask first n sender m, t = .link code mask first ∧ e = .link n sender m ∧ m.topic &&& mask = code &&& mask ∧
      ∀ x, first = some x → 1 ≤ m.length ∧ m.payload.head? = some x := by
  cases t with
  | press n => simp [Trigger.hits_press]
  | release n => simp [Trigger.hits_release]
  | hold n => simp [Trigger.hits_hold]
  | rept n => simp [Trigger.hits_rept]
  | chord x y => simp [Trigger.hits_chord]
  | pedal p => simp [Trigger.hits_pedal]
  | link code mask first => simp [Trigger.hits_link]

/-! ### The first match of a table (R135) -/

/-- The entry of a table that an event fires: the lowest index whose entry matches. -/
def FirstHit (e : ControlEvent) (l : List (Option Entry)) (n : Nat) (x : Entry) : Prop :=
  l[n]? = some (some x) ∧ x.trigger.hits e = true ∧ ∀ m < n, ∀ y, l[m]? = some (some y) → y.trigger.hits e = false

/-- An event that no entry of a table matches. -/
def Unmatched (e : ControlEvent) (l : List (Option Entry)) : Prop := ∀ y, some y ∈ l → y.trigger.hits e = false

/-- What an entry at its index gives for an event. -/
def hitAt (e : ControlEvent) (x : Option Entry × Nat) : Option (Nat × Entry) :=
  x.1.bind fun y => if y.trigger.hits e then some (x.2, y) else none

section
variable {e : ControlEvent} {l : List (Option Entry)}

theorem firstMatch_eq_findSome? (e : ControlEvent) (l : List (Option Entry)) :
    firstMatch e l = l.zipIdx.findSome? (hitAt e) := List.head?_filterMap

theorem hitAt_of_hits {x : Entry} (h : x.trigger.hits e = true) (n : Nat) : hitAt e (some x, n) = some (n, x) := if_pos h

theorem Unmatched.findSome? (h : Unmatched e l) (k : Nat) : (l.zipIdx k).findSome? (hitAt e) = none := by
  rw [List.findSome?_eq_none_iff]
  rintro ⟨o, i⟩ mem
  cases o with
  | none => rfl
  | some y => exact if_neg (by rw [h y (List.fst_mem_of_mem_zipIdx mem)]; decide)

theorem firstMatch_of_unmatched (h : Unmatched e l) : firstMatch e l = none :=
  (firstMatch_eq_findSome? e l).trans (h.findSome? 0)

theorem FirstHit.unmatched_before {n : Nat} {x : Entry} (h : FirstHit e l n x) : Unmatched e (l.take n) := by
  obtain ⟨-, -, before⟩ := h
  intro y hy
  obtain ⟨m, hm⟩ := List.mem_iff_getElem?.1 hy
  rw [List.getElem?_take] at hm
  split at hm
  · next hmn => exact before m hmn y hm
  · cases hm

theorem firstMatch_of_firstHit {n : Nat} {x : Entry} (h : FirstHit e l n x) : firstMatch e l = some (n, x) := by
  obtain ⟨stands, hits, -⟩ := id h
  obtain ⟨hn, get⟩ := List.getElem?_eq_some_iff.1 stands
  have cut : l = l.take n ++ some x :: l.drop (n + 1) := by
    rw [← get, List.getElem_cons_drop, List.take_append_drop]
  have here : 0 + (l.take n).length = n := by rw [Nat.zero_add, List.length_take, Nat.min_eq_left hn.le]
  rw [firstMatch_eq_findSome?, cut, List.zipIdx_append, List.findSome?_append, h.unmatched_before.findSome?, here,
    List.zipIdx_cons, List.findSome?_cons, hitAt_of_hits hits]
  rfl

end

/-! ### An event (R135, R142) -/

section
variable {e : ControlEvent} {s : State}

theorem lookup_of_local {n : Nat} {x : Entry} (h : FirstHit e s.localEntries n x) :
    s.lookup e = some (⟨.localTable, n⟩, x) := by
  unfold State.lookup
  rw [firstMatch_of_firstHit h]

theorem lookup_of_local_unmatched (h : Unmatched e s.localEntries) : s.lookup e =
    (firstMatch e s.bind.global).map fun x => (⟨.globalTable, x.1⟩, x.2) := by
  unfold State.lookup
  rw [firstMatch_of_unmatched h]

theorem lookup_of_global (h : Unmatched e s.localEntries) {n : Nat} {x : Entry} (hit : FirstHit e s.bind.global n x) :
    s.lookup e = some (⟨.globalTable, n⟩, x) := by
  rw [lookup_of_local_unmatched h, firstMatch_of_firstHit hit]
  rfl

theorem lookup_of_unmatched (h : Unmatched e s.localEntries) (hg : Unmatched e s.bind.global) : s.lookup e = none := by
  rw [lookup_of_local_unmatched h, firstMatch_of_unmatched hg]
  rfl

section
variable (time : Long) (report : Bool)

theorem bindingEvent_of_lookup {r : EntryRef} {x : Entry} (h : s.lookup e = some (r, x)) :
    bindingEvent e time report s = fireEntry r x e time false s := by
  unfold bindingEvent
  rw [h]

theorem bindingEvent_of_unmatched (h : s.lookup e = none) : bindingEvent e time report s =
    if report then appendReport (switchEventReport e time) s else s := by
  unfold bindingEvent
  rw [h]

end
end

/-- Settles O52: the words by the event's kind, the matching by the trigger's, and an event by the tables it is looked up
in. -/
theorem eventFiresFirstMatch : Obligations.EventFiresFirstMatch := by
  refine ⟨fun n x y p v k sender m time => ?words, Trigger.hits_iff, fun s e time report => ⟨fun n x hit => ?fromLocal,
    fun localUnmatched n x hit => ?fromGlobal, fun localUnmatched globalUnmatched => ?neither⟩⟩
  case words =>
    have shown := fun e => switchEventReport_words e time
    exact ⟨⟨rfl, shown _⟩, ⟨rfl, shown _⟩, ⟨rfl, shown _⟩, ⟨rfl, shown _⟩, ⟨rfl, shown _⟩, ⟨rfl, shown _⟩,
      ControlEvent.words_link k sender m⟩
  case fromLocal =>
    have found := lookup_of_local hit
    exact ⟨found, bindingEvent_of_lookup time report found⟩
  case fromGlobal =>
    have found := lookup_of_global localUnmatched hit
    exact ⟨found, bindingEvent_of_lookup time report found⟩
  case neither =>
    have found := lookup_of_unmatched localUnmatched globalUnmatched
    exact ⟨found, bindingEvent_of_unmatched time report found⟩

end Sys2Proof.Machine
end

section
/-! Sitting 7: what an entry does when it fires, and its answer (R137-R142); a binding request at the boundary (R24); spans
(R139); the follow at a scene-live notice (R143). -/

namespace Sys2Proof.Machine

/-! ### The set list and the requests for the scene unit (R78, R54) -/

theorem SetList.move_eq (l : SetList) (cursor : Nat) (absolute : Bool) (v : Int) :
    let aim : Int := if absolute = true then v else cursor + v
    l.move cursor absolute v = if l.count = 0 then .error .emptyEntry else if 0 ≤ aim ∧ aim < l.count then .ok aim.toNat
      else if absolute = false ∧ l.wrap = true then .ok (aim % l.count).toNat else .error .badArgument := rfl

theorem goAtOnce_iff (s : State) (r : Request) : s.goAtOnce r = true ↔
    r.kind = .go ∧ r.reswap = false ∧ s.activeScene = some r.scene ∧ s.scene.state ≠ .fading ∧
      s.scene.state ≠ .leanEmptying ∧
      (s.scene.state = .idle ∨ ∀ old, s.scene.latch = some old → old.scene ≠ r.scene) := by
  unfold State.goAtOnce
  rw [Bool.and_eq_true, doneAtOnce_iff, and_assoc, and_assoc]
  refine and_congr_right fun _ => and_congr_right fun _ => and_congr_right fun _ => ?_
  split
  · next idle => simp [idle]
  · next fading => simp [fading]
  · next emptying => simp [emptying]
  · next working fading emptying =>
    cases s.scene.latch with
    | none => simpa using ⟨fading, emptying⟩
    | some old => simpa using ⟨fun other => ⟨fading, emptying, .inr other⟩, fun ⟨_, _, how⟩ => how.resolve_left working⟩

/-! ### The requests for the lane engine (R21, R22) -/

theorem Stage.settable_eq_filter (x : Stage) (index : Nat) :
    x.settable index = (x.kind.param (x.target 0) index).filter fun c => c.cls != .loadTime := by
  unfold Stage.settable
  cases x.kind.param (x.target 0) index with
  | none => rfl
  | some c => by_cases h : c.cls = .loadTime <;> simp [Option.filter, h]

theorem LaneRequest.isBinding_eq_false_iff (r : LaneRequest) : r.isBinding = false ↔
    (∃ i lane p index v, r = .setOrder i lane p index v) ∨ ∃ i lane p v, r = .bypassOrder i lane p v := by
  cases r <;> simp [LaneRequest.isBinding]

theorem laneOfNat_laneNumber (ln : LaneId) : laneOfNat (laneNumber ln) = some ln := by cases ln <;> rfl

theorem findStage_of_place (s : State) (lane p : Nat) :
    let good := (lane = 1 ∨ lane = 2) ∧ p ≤ 11
    (¬ good → s.findStage lane p = .error .badArgument) ∧ (good → s.liveBank = none → s.findStage lane p = .error .notReady) ∧
    ∀ bank ln, good → laneNumber ln = lane → s.liveBank = some bank →
      s.findStage lane p = match s.stageAt bank ln p with
        | none => .error .badArgument
        | some x => .ok (bank, ln, x) := by
  intro good
  refine ⟨fun bad => findStage_bad_place (by omega), fun ⟨known, hp⟩ noneLive => ?_, fun bank ln ⟨_, hp⟩ number live => ?_⟩
  · obtain ⟨ln, hln⟩ := laneOfNat_known known
    exact findStage_not_live hln hp noneLive
  · exact findStage_live (number ▸ laneOfNat_laneNumber ln) hp live

/-! ### The answer and its report (R142, R211) -/

/-- An answer that is reported: the entry asks for it, it FAILED, or the entry is a REPORT_ONLY. -/
def Firing.Told (f : Firing) (x : Answer) : Prop := f.report = true ∨ (∃ c, x.kind = .failed c) ∨ f.action = .reportOnly

theorem AnswerKind.isFailed_iff (k : AnswerKind) : k.isFailed = true ↔ ∃ c, k = .failed c := by
  cases k <;> simp [AnswerKind.isFailed]

section
variable (f : Firing) (x : Answer)

theorem told_iff : (f.report || x.kind.isFailed || f.action == .reportOnly) = true ↔ f.Told x := by
  rw [Bool.or_eq_true, Bool.or_eq_true, AnswerKind.isFailed_iff, beq_iff_eq, or_assoc, Firing.Told]

theorem firedReport_words : (firedReport f x).words =
    [bytePair 4 (firedReport f x).flags, word (sourceEntry f.ref), lowWord f.time, highWord f.time] ++ f.event.words ++
      [bytePair f.action.code x.kind.code, bytePair x.kind.resultCode 0, bytePair x.first x.position, wordOfInt x.value,
        0, 0, 0, 0] := by
  have eight : (firedReport f x).detail.length = 8 := by simp [firedReport]
  rw [Report.words_of_length _ eight (by decide)]
  simp [firedReport]

variable {f x} (s : State)

theorem answerFiring_told (h : f.Told x) : answerFiring f x s = appendReport (firedReport f x) s :=
  if_pos ((told_iff f x).2 h)

theorem answerFiring_untold (h : ¬ f.Told x) : answerFiring f x s = s := if_neg fun told => h ((told_iff f x).1 told)

end

/-! ### Each action's owner (R137-R141) -/

section
variable {f : Firing} (s : State)

theorem fireAction_sceneGo {n : Nat} {p : Option Profile} (h : f.action = .sceneGo n p) :
    fireAction f s = fireSceneGo f n p s := by
  unfold fireAction
  rw [h]

theorem fireAction_setlistStep {v : Int} (h : f.action = .setlistStep v) : fireAction f s = fireMove f false v s := by
  unfold fireAction
  rw [h]

theorem fireAction_setlistJump {n : Nat} (h : f.action = .setlistJump n) : fireAction f s = fireMove f true n s := by
  unfold fireAction
  rw [h]

theorem fireAction_stageToggle {lane p : Nat} (h : f.action = .stageToggle lane p) :
    fireAction f s = sendStage f (.toggle f lane p) lane p 0 s := by
  unfold fireAction
  rw [h]

theorem fireAction_stageOn {lane p : Nat} (h : f.action = .stageOn lane p) :
    fireAction f s = sendStage f (.engage f lane p) lane p 0 s := by
  unfold fireAction
  rw [h]

theorem fireAction_stageOff {lane p : Nat} (h : f.action = .stageOff lane p) :
    fireAction f s = sendStage f (.bypass f lane p) lane p 0 s := by
  unfold fireAction
  rw [h]

theorem fireAction_paramFromPedal {lane p index : Nat} {lo hi : Int} (h : f.action = .paramFromPedal lane p index lo hi) :
    fireAction f s = firePedal f lane p index f.event.pedalValue s := by
  unfold fireAction
  rw [h]

theorem fireAction_tunerToggle (h : f.action = .tunerToggle) : fireAction f s = fireTuner f s := by
  unfold fireAction
  rw [h]

theorem fireAction_muteToggle (h : f.action = .muteToggle) : fireAction f s = fireMute f toggleSwitchMute s := by
  unfold fireAction
  rw [h]

theorem fireAction_linkMuteOn (h : f.action = .linkMuteOn) : fireAction f s = fireMute f (muteLink true) s := by
  unfold fireAction
  rw [h]

theorem fireAction_linkMuteOff (h : f.action = .linkMuteOff) : fireAction f s = fireMute f (muteLink false) s := by
  unfold fireAction
  rw [h]

theorem fireAction_notice {m : Message} (h : f.action = .notice m) : fireAction f s = fireNotice f m s := by
  unfold fireAction
  rw [h]

theorem fireAction_reportOnly (h : f.action = .reportOnly) : fireAction f s = answerFiring f (.done 0 0 0) s := by
  unfold fireAction
  rw [h]

end

/-! ### What the owners answer -/

section
variable (f : Firing) {s : State}

theorem profileOk_eq_false_iff (p : Option Profile) :
    profileOk p = false ↔ ∃ q, p = some q ∧ (q.f < 1 ∨ 250 < q.f ∨ 250 < q.g) := by
  cases p with
  | none => simp [profileOk]
  | some q => simp [profileOk, imp_iff_not_or, or_assoc]

theorem fireSceneGo_bad {n : Nat} {p : Option Profile}
    (h : 63 < n ∨ ∃ q, p = some q ∧ (q.f < 1 ∨ 250 < q.f ∨ 250 < q.g)) :
    fireSceneGo f n p s = answerFiring f (.failed .badArgument n 0 0) s :=
  if_pos (h.imp_right (profileOk_eq_false_iff p).2)

theorem fireSceneGo_taken {n : Nat} {p : Option Profile}
    (h : ¬ (63 < n ∨ ∃ q, p = some q ∧ (q.f < 1 ∨ 250 < q.f ∨ 250 < q.g))) :
    let r := newRequest .go n p (.binding f.ref)
    fireSceneGo f n p s =
      answerFiring f ⟨if s.goAtOnce r then .done else .taken, false, false, n, 0, 0, none⟩ (chooseScene (takeRequest r s)) := by
  intro r
  refine (if_neg fun bad => h (bad.imp_right (profileOk_eq_false_iff p).1)).trans ?_
  dsimp only
  split <;> rfl

theorem sendStage_eq (r : LaneRequest) (lane p : Nat) (v : Int) (s : State) : sendStage f r lane p v s =
    if 31 ≤ (s.lane.requests.filter LaneRequest.isBinding).length then
      answerFiring f ⟨.failed .notReady, false, true, lane, p, v, none⟩ s
    else { s with lane := { s.lane with requests := s.lane.requests ++ [r] } } := by
  unfold sendStage State.laneListFull
  simp only [decide_eq_true_eq]
  rfl

theorem firePedal_unresolved (lane p index v : Nat) (h : s.spanOf f.ref = none) : firePedal f lane p index v s =
    answerFiring f (.failed (if s.liveBank = none then .notReady else .badArgument) lane p 0) s := by
  unfold firePedal
  rw [h]
  simp only [Option.isNone_iff_eq_none]

theorem firePedal_resolved (lane p index v : Nat) {x y : Int} (h : s.spanOf f.ref = some (x, y)) :
    firePedal f lane p index v s =
      sendStage f (.param f lane p index (pedalTarget x y v)) lane p (pedalTarget x y v) s := by
  unfold firePedal
  rw [h]

theorem switchTunerOn_on (s : State) : (switchTunerOn s).tuner.settings.on = true := by
  rw [switchTunerOn_eq]
  split
  · rw [settleTuner_settings]
    rfl
  · exact congrArg TunerSettings.on settleTuner_settings

theorem switchTunerOff_on (s : State) : (switchTunerOff s).tuner.settings.on = false := by
  rw [switchTunerOff_eq]
  split <;> rfl

theorem toggleTuner_on (s : State) : (toggleTuner s).tuner.settings.on = !s.tuner.settings.on := by
  unfold toggleTuner
  cases s.tuner.settings.on with
  | true => exact switchTunerOff_on s
  | false => exact switchTunerOn_on s

theorem fireNotice_offered (m : Message) (h : s.noticeFault = none) :
    fireNotice f m s = answerFiring f (.done 0 0 0) (offerNotice m s) := by
  unfold fireNotice
  rw [h]

theorem fireNotice_dropped (m : Message) {c : ResultCode} (h : s.noticeFault = some c) :
    fireNotice f m s = answerFiring f { Answer.failed c 0 0 0 with noticeDropped := true } s := by
  unfold fireNotice
  rw [h]

end

/-! ### A binding request carried out at the boundary (R24) -/

section
variable {f : Firing} {s : State} {lane p : Nat}

/-- The three bypass requests of an entry, each with what it makes of the flag. -/
def SetsBypass (f : Firing) (lane p : Nat) (r : LaneRequest) (change : Bool → Bool) : Prop :=
  (r = .toggle f lane p ∧ change = Bool.not) ∨ (r = .engage f lane p ∧ change = fun _ => false) ∨
    (r = .bypass f lane p ∧ change = fun _ => true)

theorem SetsBypass.applyRequest_eq {r : LaneRequest} {change : Bool → Bool} (h : SetsBypass f lane p r change) (s : State) :
    applyRequest s r = answerBypass f lane p (applyBypass lane p change s) s := by
  obtain ⟨rfl, rfl⟩ | ⟨rfl, rfl⟩ | ⟨rfl, rfl⟩ := h <;> rfl

theorem answerBypass_refused {c : ResultCode} (h : s.findStage lane p = .error c) (change : Bool → Bool) :
    answerBypass f lane p (applyBypass lane p change s) s = answerFiring f (.failed c lane p 0) s := by
  unfold applyBypass
  rw [h]
  rfl

theorem answerBypass_taken {bank : BankId} {ln : LaneId} {x : Stage} (h : s.findStage lane p = .ok (bank, ln, x))
    (change : Bool → Bool) : answerBypass f lane p (applyBypass lane p change s) s =
      answerFiring f (.done lane p (if change x.bypass then 1 else 0))
        (putStage bank ln p { x with bypass := change x.bypass } s) := by
  unfold applyBypass
  rw [h]
  rfl

variable (index : Nat) (v : Int)

theorem paramRequest_refused {c : ResultCode} (h : s.findStage lane p = .error c) :
    applyRequest s (.param f lane p index v) = answerFiring f (.failed c lane p v) s := by
  simp only [applyRequest, applyParam, h]

theorem paramRequest_unsettable {bank : BankId} {ln : LaneId} {x : Stage} (h : s.findStage lane p = .ok (bank, ln, x))
    (hx : x.settable index = none) :
    applyRequest s (.param f lane p index v) = answerFiring f (.failed .badArgument lane p v) s := by
  simp only [applyRequest, applyParam, h, hx]

theorem paramRequest_taken {bank : BankId} {ln : LaneId} {x : Stage} {c : ParamSpec}
    (h : s.findStage lane p = .ok (bank, ln, x)) (hx : x.settable index = some c) :
    let w := clampInt c.min c.max v
    applyRequest s (.param f lane p index v) = answerFiring f (.done lane p w) (putStage bank ln p
      ((x.setTarget s.lane.notedTempo index c.cls w).followIn (s.lane.banks.get bank).runMode) s) := by
  simp only [applyRequest, applyParam, h, hx]

end

/-! ### Spans (R139) -/

section
variable {s : State} {e : Entry} {lane p index : Nat} {lo hi : Int} (ha : e.action = .paramFromPedal lane p index lo hi)
include ha

theorem resolveSpan_refused {c : ResultCode} (h : s.findStage lane p = .error c) : s.resolveSpan (some e) = none := by
  simp only [State.resolveSpan, ha, h]

theorem resolveSpan_found {bank : BankId} {ln : LaneId} {x : Stage} (h : s.findStage lane p = .ok (bank, ln, x)) :
    s.resolveSpan (some e) =
      (x.settable index).map fun c => (clampInt c.min c.max lo, clampInt c.min c.max hi) := by
  simp only [State.resolveSpan, ha, h]

end

/-! ### The follow of a pedal (R143) -/

/-- An entry that a scene change fires with its pedal's value. -/
def Entry.Follows (e : Entry) : Prop := e.follow = true ∧ ∃ a b c d g, e.action = .paramFromPedal a b c d g

section
variable {p : Nat} {s : State}

theorem followPedal_of_not_ready (h : (s.pedal p).state ≠ .ready) : followPedal p s = s := if_neg h

theorem followPedal_of_unmatched (h : s.lookup (.pedal p (s.pedal p).value) = none) : followPedal p s = s := by
  rw [State.pedal] at h
  simp only [followPedal, h, ite_self]

section
variable {r : EntryRef} {e : Entry} (ready : (s.pedal p).state = .ready)
  (found : s.lookup (.pedal p (s.pedal p).value) = some (r, e))
include ready found

theorem followPedal_of_follows (h : e.Follows) :
    followPedal p s = fireEntry r e (.pedal p (s.pedal p).value) s.frameCounter true s := by
  obtain ⟨follow, _, _, _, _, _, action⟩ := h
  rw [State.pedal] at ready found
  simp only [followPedal, if_pos ready, found, action, follow, if_true]
  rfl

theorem followPedal_of_not_follows (h : ¬ e.Follows) : followPedal p s = s := by
  rw [State.pedal] at ready found
  simp only [followPedal, if_pos ready, found]
  split
  · next a b c d g action => exact if_neg fun follow => h ⟨follow, a, b, c, d, g, action⟩
  · rfl

end
end

/-- Settles O53: the helpers by their definitions, each action by its owner's answer, a request by where it lands, the
report, the spans, and the two notices. -/
theorem actionsAreSentAndAnswered : Obligations.ActionsAreSentAndAnswered := by
  refine ⟨fun s => ?helpers, fun f s => ⟨?sceneGo, ?step, ?jump, ?stage, ?pedal, ?tuner, ?mute, ?muteOn, ?muteOff, ?notice,
    ?reportOnly, ?request⟩, fun f x s => ?answer, fun s e lane p index lo hi action => ?spans, fun k s => ⟨rfl, rfl⟩,
    fun p s => ?follow⟩
  case helpers =>
    exact ⟨fun n => rfl, SetList.move_eq, goAtOnce_iff s, fun n => ⟨rfl, rfl⟩, rfl, Stage.settable_eq_filter,
      LaneRequest.isBinding_eq_false_iff, findStage_of_place s⟩
  case sceneGo =>
    exact fun n p action => ⟨fun bad => (fireAction_sceneGo s action).trans (fireSceneGo_bad f bad),
      fun good => (fireAction_sceneGo s action).trans (fireSceneGo_taken f good)⟩
  case step => exact fun v action => fireAction_setlistStep s action
  case jump => exact fun n action => fireAction_setlistJump s action
  case stage =>
    exact fun lane p => ⟨fun action => (fireAction_stageToggle s action).trans (sendStage_eq ..),
      fun action => (fireAction_stageOn s action).trans (sendStage_eq ..),
      fun action => (fireAction_stageOff s action).trans (sendStage_eq ..)⟩
  case pedal =>
    intro lane p index lo hi action
    refine ⟨fun unresolved => ?_, fun x y v span event => ?_⟩
    · rw [fireAction_paramFromPedal s action, firePedal_unresolved f lane p index _ unresolved]
      rfl
    · have value : f.event.pedalValue = v := by rcases event with event | event <;> rw [event] <;> rfl
      rw [fireAction_paramFromPedal s action, firePedal_resolved f lane p index _ span, value, sendStage_eq]
      rfl
  case tuner => exact fun action => ⟨toggleTuner s, rfl, fireAction_tunerToggle s action, toggleTuner_on s⟩
  case mute => exact fun action => fireAction_muteToggle s action
  case muteOn => exact fun action => fireAction_linkMuteOn s action
  case muteOff => exact fun action => fireAction_linkMuteOff s action
  case notice =>
    exact fun m action => ⟨fun free => (fireAction_notice s action).trans (fireNotice_offered f m free),
      fun c fault => (fireAction_notice s action).trans (fireNotice_dropped f m fault)⟩
  case reportOnly => exact fun action => fireAction_reportOnly s action
  case request =>
    refine fun lane p => ⟨fun r change (sets : SetsBypass f lane p r change) => ⟨fun c refused => ?_, fun bank ln x found => ?_⟩,
      fun index v => ⟨fun c refused => paramRequest_refused index v refused,
        fun bank ln x found => ⟨paramRequest_unsettable index v found, fun c => paramRequest_taken index v found⟩⟩⟩
    · exact (sets.applyRequest_eq s).trans (answerBypass_refused refused change)
    · exact (sets.applyRequest_eq s).trans (answerBypass_taken found change)
  case answer =>
    exact ⟨answerFiring_told s, answerFiring_untold s, ⟨rfl, rfl, fun c => rfl⟩, fun _ _ _ _ _ _ _ _ _ => rfl, rfl,
      firedReport_words f x⟩
  case spans =>
    refine ⟨fun c refused => resolveSpan_refused action refused, fun bank ln x found => ⟨fun refused => ?_, fun c taken => ?_⟩⟩
    · rw [resolveSpan_found action found, refused]
      rfl
    · rw [resolveSpan_found action found, taken]
      rfl
  case follow =>
    exact ⟨fun h => h.elim followPedal_of_not_ready followPedal_of_unmatched,
      fun r e ready found => ⟨followPedal_of_follows ready found, followPedal_of_not_follows ready found⟩⟩

end Sys2Proof.Machine
end

section
/-! Sitting 8: the rack link (chapter 8). A message as bits on the line (R148-R150, R216): fields, stuffing, check, and the
reading of a message from its line bits. -/

namespace Sys2Proof.Machine

/-! ### Fields, most significant bit first (R148) -/

@[simp] theorem msbBits_length (n v : Nat) : (msbBits n v).length = n := by simp [msbBits]

theorem msbBits_succ (n v : Nat) : msbBits (n + 1) v = v.testBit n :: msbBits n v := by
  simp only [msbBits, List.range_succ_eq_map, List.map_cons, List.map_map]
  congr 1
  refine List.map_congr_left fun i _ => ?_
  simp only [Function.comp_apply]
  congr 1
  omega

/-- Bits read after others that spell `k` shift it up and add the number of their own. -/
theorem foldl_msbBits (n v k : Nat) :
    (msbBits n v).foldl (fun n x => 2 * n + natOfBool x) k = k * 2 ^ n + v % 2 ^ n := by
  induction n generalizing k with
  | zero => simp [msbBits, Nat.mod_one]
  | succ n ih =>
    rw [msbBits_succ, List.foldl_cons, ih, Nat.mod_pow_succ, ← Nat.toNat_testBit, pow_succ]
    cases v.testBit n <;> simp [natOfBool] <;> ring

/-- A number that fits its field is read back from it. -/
theorem numOfBits_msbBits {n v : Nat} (h : v < 2 ^ n) : numOfBits (msbBits n v) = v := by
  rw [numOfBits, foldl_msbBits, Nat.zero_mul, Nat.zero_add, Nat.mod_eq_of_lt h]

theorem flatMap_msbBits_length (l : List Byte) : (l.flatMap fun x => msbBits 8 x.toNat).length = 8 * l.length := by
  simp [List.length_flatMap, Nat.mul_comm]

/-- Payload bytes are read back from their bits, whatever follows them. -/
theorem payloadOf_flatMap (l : List Byte) (rest : List Bool) :
    payloadOf l.length ((l.flatMap fun x => msbBits 8 x.toNat) ++ rest) = l := by
  induction l with
  | nil => rfl
  | cons x l ih =>
    rw [List.length_cons, payloadOf, List.flatMap_cons, List.append_assoc, List.take_left' (msbBits_length 8 _),
      List.drop_left' (msbBits_length 8 _), numOfBits_msbBits x.isLt, BitVec.ofNat_toNat, BitVec.setWidth_eq, ih]

/-! ### Stuff bits (R149) -/

theorem stuff_cons_of_six {last x : Bool} {run : Nat} (rest : List Bool) (h : (if x = last then run + 1 else 1) = 6) :
    stuff last run (x :: rest) = x :: (!x) :: stuff (!x) 1 rest := if_pos h

theorem stuff_cons_of_ne_six {last x : Bool} {run : Nat} (rest : List Bool) (h : (if x = last then run + 1 else 1) ≠ 6) :
    stuff last run (x :: rest) = x :: stuff x (if x = last then run + 1 else 1) rest := if_neg h

theorem destuff_cons_of_six {last x : Bool} {run : Nat} (rest : List Bool) (h : (if x = last then run + 1 else 1) = 6) :
    destuff last run (x :: (!x) :: rest) = (destuff (!x) 1 rest).map (x :: ·) :=
  (if_pos h).trans (if_neg (by simp))

theorem destuff_cons_of_ne_six {last x : Bool} {run : Nat} (rest : List Bool)
    (h : (if x = last then run + 1 else 1) ≠ 6) :
    destuff last run (x :: rest) = (destuff x (if x = last then run + 1 else 1) rest).map (x :: ·) := by
  rw [destuff.eq_def]
  exact if_neg h

/-- Removing the stuff bits gives the bits that were stuffed. -/
theorem destuff_stuff (last : Bool) {run : Nat} (h : run < 6) (l : List Bool) :
    destuff last run (stuff last run l) = some l := by
  induction l generalizing last run with
  | nil => rfl
  | cons x rest ih =>
    by_cases six : (if x = last then run + 1 else 1) = 6
    · rw [stuff_cons_of_six rest six, destuff_cons_of_six _ six, ih (!x) (by decide)]
      rfl
    · have grown : (if x = last then run + 1 else 1) ≤ run + 1 := by split <;> omega
      rw [stuff_cons_of_ne_six rest six, destuff_cons_of_ne_six _ six, ih x (by omega)]
      rfl

/-! ### The check (R150) -/

/-- One more bit shifts the check register, and feeds 0x07 back when its top bit and the bit differ. -/
theorem crc8_concat (l : List Bool) (x : Bool) :
    crc8 (l ++ [x]) = if (crc8 l).msb = x then crc8 l <<< 1 else (crc8 l <<< 1) ^^^ 0x07 := by
  rw [BitVec.msb_eq_getLsbD_last]
  exact List.foldl_concat ..

theorem msbBits_byte (c : BitVec 8) : msbBits 8 c.toNat = (List.range 8).map fun i => c.getLsbD (7 - i) := rfl

/-! ### A message read back (R148, R216) -/

theorem checkedBits_length (sender : Nat) (m : Message) : (checkedBits sender m).length = 19 + 8 * m.payload.length := by
  simp only [checkedBits, List.length_append, msbBits_length, flatMap_msbBits_length]

/-- A message's bits as its fields: start, topic, sender, length, payload, check. -/
theorem messageBits_fields (sender : Nat) (m : Message) : messageBits sender m = false :: (msbBits 10 m.topic ++
    (msbBits 6 sender ++ (msbBits 3 m.length ++ ((m.payload.flatMap fun x => msbBits 8 x.toNat) ++
      msbBits 8 (crc8 (checkedBits sender m)).toNat)))) := by
  simp [messageBits, checkedBits]

theorem messageBits_topic (sender : Nat) (m : Message) : ((messageBits sender m).drop 1).take 10 = msbBits 10 m.topic := by
  rw [messageBits_fields]
  exact List.take_left' (msbBits_length ..)

theorem messageBits_sender (sender : Nat) (m : Message) : ((messageBits sender m).drop 11).take 6 = msbBits 6 sender := by
  rw [messageBits_fields, List.drop_succ_cons, List.drop_left' (msbBits_length ..)]
  exact List.take_left' (msbBits_length ..)

theorem messageBits_length_field (sender : Nat) (m : Message) :
    ((messageBits sender m).drop 17).take 3 = msbBits 3 m.length := by
  rw [messageBits_fields, List.drop_succ_cons, ← List.append_assoc, List.drop_left' (by simp)]
  exact List.take_left' (msbBits_length ..)

theorem messageBits_payload (sender : Nat) (m : Message) : (messageBits sender m).drop 20 =
    (m.payload.flatMap fun x => msbBits 8 x.toNat) ++ msbBits 8 (crc8 (checkedBits sender m)).toNat := by
  rw [messageBits_fields, List.drop_succ_cons, ← List.append_assoc, ← List.append_assoc, List.drop_left' (by simp)]

section
variable {sender : Nat} {m : Message} (hs : sender < 64) (ht : m.topic < 1024) (hl : m.length ≤ 6)
  (hp : m.payload.length = m.length)

include hp

theorem messageBits_checked : ((messageBits sender m).drop 1).take (19 + 8 * m.length) = checkedBits sender m :=
  List.take_left' (by rw [checkedBits_length, hp])

theorem messageBits_check :
    (messageBits sender m).drop (20 + 8 * m.length) = msbBits 8 (crc8 (checkedBits sender m)).toNat := by
  rw [← List.drop_drop, messageBits_payload]
  exact List.drop_left' (by rw [flatMap_msbBits_length, hp])

include hs ht hl

/-- A message whose fields fit is read back from its bits. -/
theorem readMessage_messageBits : readMessage (messageBits sender m) = some (sender, m) := by
  have length : numOfBits (((messageBits sender m).drop 17).take 3) = m.length := by
    rw [messageBits_length_field, numOfBits_msbBits (by omega)]
  have count : (messageBits sender m).length = 28 + 8 * m.length := by
    rw [messageBits, List.length_append, List.length_cons, checkedBits_length, msbBits_length, hp]
    omega
  have payload : payloadOf m.length ((messageBits sender m).drop 20) = m.payload := by
    rw [messageBits_payload, ← hp, payloadOf_flatMap]
  unfold readMessage
  simp only [length, messageBits_checked hp]
  rw [if_pos ⟨rfl, hl, count, (messageBits_check hp).symm⟩, messageBits_sender, messageBits_topic,
    numOfBits_msbBits hs, numOfBits_msbBits ht, payload]

theorem decodeLine_lineBits : decodeLine (lineBits sender m) = some (sender, m) := by
  rw [decodeLine, lineBits, destuff_stuff true (by decide)]
  exact readMessage_messageBits hs ht hl hp

end

/-- Bits that are read as a message carry its check. -/
theorem check_of_readMessage {l : List Bool} {r : Nat × Message} (h : readMessage l = some r) :
    msbBits 8 (crc8 ((l.drop 1).take (19 + 8 * r.2.length))).toNat = l.drop (20 + 8 * r.2.length) := by
  unfold readMessage at h
  dsimp only at h
  split at h
  · next form =>
    obtain ⟨_, _, _, check⟩ := form
    cases h
    exact check
  · cases h

/-- Settles O55: stuffing by the run's length, the message by its fields and the removal of its stuff bits, the check by
the register's step. -/
theorem lineCarriesCheckedMessage : Obligations.LineCarriesCheckedMessage := by
  refine ⟨fun n v => rfl, fun sender m => rfl, fun sender m => rfl, fun last x run rest => ⟨rfl, stuff_cons_of_six rest,
    stuff_cons_of_ne_six rest⟩, fun sender m hs ht hl hp => decodeLine_lineBits hs ht hl hp, rfl, crc8_concat,
    fun sender m => rfl, fun l r h => ?_⟩
  have place : 19 + 8 * r.2.length + 1 = 20 + 8 * r.2.length := by omega
  exact (congrArg l.drop place).trans (check_of_readMessage h).symm

end Sys2Proof.Machine
end

section
/-! Sitting 8: the line and the bus (R151, R160, R171): joining, idle runs, the end of a rejoin, start bits. -/

namespace Sys2Proof.Machine

/-! ### The commands of the rack link, each as the effect it is run with -/

/-- An event that ends with every open choice made, run while the RESET line is not held. -/
theorem whole_of_free {s : State} (f : State → State) (hs : s.resetHeld = false) :
    whole f s = .next (publish s (finish (f s))) := plain_of_free _ hs

section
variable {s : State} (hs : s.resetHeld = false)
include hs

theorem exec_linkMessageSent : exec .linkMessageSent s = .next (publish s (finish (messageSent chooseLink s))) :=
  whole_of_free _ hs
theorem exec_linkMessageReceived (bits : List Bool) :
    exec (.linkMessageReceived bits) s = .next (publish s (finish (messageReceived bits s))) := whole_of_free _ hs
theorem exec_linkError (e : LinkErrorSeen) :
    exec (.linkError e) s = .next (publish s (finish (linkError chooseLink e.kind e.tail s))) := whole_of_free _ hs
theorem exec_linkJoinBus : exec .linkJoinBus s = .next (publish s (joinBus s)) := plain_of_free _ hs
theorem exec_lineIdleRun : exec .lineIdleRun s = .next (publish s (completeIdleRun s)) := plain_of_free _ hs
theorem exec_rejoin : exec .rejoin s = .next (publish s (if s.rejoinAt 31 then completeIdleRun s else s)) :=
  plain_of_free _ hs
theorem exec_startBitReceived : exec .startBitReceived s = .next (publish s (startBit s)) := plain_of_free _ hs

end

/-! ### Joining and start bits (R151, R171) -/

theorem joinBus_of_awaitingIdle {s : State} (h : s.link.engagement = .awaitingIdle) :
    joinBus s = setLink { s.link with engagement := .onBus, lineFree := true } s := if_pos h

theorem joinBus_of_not_awaiting {s : State} (h : s.link.engagement ≠ .awaitingIdle) : joinBus s = s := if_neg h

theorem startBit_of_free {s : State} (free : s.link.lineFree = true) (bus : s.link.engagement = .onBus)
    (line : s.link.config.loopback = false) : startBit s = setLink { s.link with
      lineFree := false, receiving := s.link.state != .detached, justSent := false, ackDriven := false } s :=
  if_pos (by simp [free, bus, line])

/-! ### Idle runs and the rejoin (R151, R160) -/

/-- An idle run counts for the rejoin. -/
abbrev State.CountsRuns (s : State) : Prop :=
  s.link.state = .detached ∧ s.link.rejoinMark = true ∧ s.disp.mode = .run

theorem rejoinAt_iff (s : State) (n : Nat) : s.rejoinAt n = true ↔ s.CountsRuns ∧ n ≤ s.link.rejoinCount := by
  simp [State.rejoinAt, and_assoc]

/-- What an idle run leaves of a node that neither sends nor receives, its rejoin apart. -/
def State.runOver (s : State) : State :=
  { s with link := { s.link with
    rejoinCount := if s.CountsRuns then min 32 (s.link.rejoinCount + 1) else s.link.rejoinCount,
    errorMark := none, lineFree := s.link.lineFree || s.link.engagement == .onBus } }

theorem idleRun_of_quiet_line {s : State} (unsent : s.sendingHold = none) (unread : s.link.receiving = false)
    (bus : s.link.engagement ≠ .offBus) : idleRun s = s.runOver :=
  if_neg (by simp [unsent, unread, bus])

/-- The run that brings the count to 32 is the one that finds it at 31. -/
theorem runOver_rejoinAt_iff (s : State) :
    s.runOver.rejoinAt 32 = true ↔ s.CountsRuns ∧ 31 ≤ s.link.rejoinCount := by
  rw [rejoinAt_iff]
  refine and_congr_right fun counts => ?_
  show 32 ≤ (if s.CountsRuns then min 32 (s.link.rejoinCount + 1) else s.link.rejoinCount) ↔ _
  rw [if_pos (show s.CountsRuns from counts)]
  omega

section
variable {s : State} (unsent : s.sendingHold = none) (unread : s.link.receiving = false)
  (bus : s.link.engagement ≠ .offBus)
include unsent unread bus

theorem completeIdleRun_rejoins (h : s.CountsRuns ∧ 31 ≤ s.link.rejoinCount) :
    completeIdleRun s = finish (rejoin s.runOver) := by
  rw [completeIdleRun, idleRun_of_quiet_line unsent unread bus, force_of_due _ ((runOver_rejoinAt_iff s).2 h)]

theorem completeIdleRun_counts (h : ¬ (s.CountsRuns ∧ 31 ≤ s.link.rejoinCount)) : completeIdleRun s = s.runOver := by
  rw [completeIdleRun, idleRun_of_quiet_line unsent unread bus,
    force_of_not_due _ (Bool.eq_false_iff.2 (mt (runOver_rejoinAt_iff s).1 h))]

end

theorem linkStateReport_words (before : LinkState) (l : Link) (cause holds notices : Nat) (time : Long) :
    (linkStateReport before l cause holds notices time).words = [bytePair 6 0, 0, lowWord time, highWord time,
      bytePair before.code l.state.code, bytePair l.tec l.rec_, bytePair cause holds, bytePair notices 0,
      0, 0, 0, 0, 0, 0, 0, 0] :=
  Report.words_of_length _ (n := 4) rfl (by decide)

/-- Settles O59: each event of the line by the engagement and by the rejoin count it finds. -/
theorem lineAndBusEvents : Obligations.LineAndBusEvents := by
  refine fun s hs => ⟨fun h => ?awaited, fun h => ?unawaited, ⟨fun unsent unread bus => ⟨fun h => ?counted, fun counts h =>
    ⟨?rejoined, ?same⟩⟩, fun h => ?undue, fun before cause holds notices => ⟨rfl, ?report⟩⟩, fun free bus line => ?start⟩
  case awaited =>
    rw [exec_linkJoinBus hs, joinBus_of_awaitingIdle h]
    rfl
  case unawaited => rw [exec_linkJoinBus hs, joinBus_of_not_awaiting h]
  case counted =>
    rw [exec_lineIdleRun hs, completeIdleRun_counts unsent unread bus h]
    rfl
  case rejoined =>
    rw [exec_lineIdleRun hs, completeIdleRun_rejoins unsent unread bus ⟨counts, h⟩]
    rfl
  case same => rw [exec_rejoin hs, exec_lineIdleRun hs, if_pos ((rejoinAt_iff s 31).2 ⟨counts, h⟩)]
  case undue => rw [exec_rejoin hs, if_neg (mt (rejoinAt_iff s 31).1 h)]
  case report => exact linkStateReport_words ..
  case start =>
    rw [exec_startBitReceived hs, startBit_of_free free bus line]
    rfl

end Sys2Proof.Machine
end

section
/-! Sitting 8: the ends of a message (R152-R168). What the operations on counters and holds do, once each, and from them
reception, errors and the end of an attempt. -/

namespace Sys2Proof.Machine

/-! ### Counters (R157, R158) -/

@[simp] theorem reportLinkState_link (before : LinkState) (cause holds notices : Nat) (s : State) :
    (reportLinkState before cause holds notices s).link = s.link := by
  unfold reportLinkState raiseLink
  rw [appendReport_only]

theorem changeCounters_link (tec rec_ cause : Nat) (s : State) : (changeCounters tec rec_ cause s).link =
    { s.link with tec := tec, rec_ := rec_, state := linkStateOf tec rec_ s.link.state } :=
  (changeCounters_spec tec rec_ cause s).1

theorem changeCounters_slots (tec rec_ cause : Nat) (s : State) :
    (changeCounters tec rec_ cause s).disp.slots = s.disp.slots := (changeCounters_spec tec rec_ cause s).2.1

theorem changeCounters_ageList (tec rec_ cause : Nat) (s : State) :
    (changeCounters tec rec_ cause s).disp.ageList = s.disp.ageList := (changeCounters_spec tec rec_ cause s).2.2.1

theorem changeCounters_frameCounter (tec rec_ cause : Nat) (s : State) :
    (changeCounters tec rec_ cause s).frameCounter = s.frameCounter :=
  (congrArg State.frameCounter (changeCounters_spec tec rec_ cause s).2.2.2).trans rfl

theorem changeCounters_hold (tec rec_ cause : Nat) (s : State) (h : Nat) :
    (changeCounters tec rec_ cause s).hold h = s.hold h := by
  rw [State.hold, changeCounters_link]
  rfl

theorem Link.drives_iff (l : Link) : l.drives = true ↔ l.state = .active ∨ l.state = .caution := by
  simp [Link.drives]

/-! ### Holds (R161) -/

theorem setHold_hold_self {h : Nat} (hh : h < 3) (x : Hold) (s : State) : (setHold h x s).hold h = x :=
  putAt_getD_self hh ..

theorem setHold_hold_other {h g : Nat} (hh : h < 3) (hg : g < 3) (ne : g ≠ h) (x : Hold) (s : State) :
    (setHold h x s).hold g = s.hold g := putAt_getD_other hh hg ne ..

section
variable {choose : State → State} {h : Nat} {code : ResultCode} {words : List Word} {s : State}

theorem emptyHold_slot {i : Nat} (origin : (s.hold h).origin = .slot i) : emptyHold choose h code words s =
    choose (complete i code ResultFlags.none words (setHold h Hold.empty s)) := by
  unfold emptyHold
  simp only [origin]
  rfl

theorem emptyHold_notice (origin : (s.hold h).origin = .notice) :
    emptyHold choose h code words s = setHold h Hold.empty s := by
  unfold emptyHold
  simp only [origin]

end

/-- Emptying a hold leaves of the link what the next choice leaves: all but the hold, the configuration, the ADDRESS_SEEN
mark and the rejoin mark and count. -/
theorem emptyHold_link (h : Nat) (code : ResultCode) (words : List Word) (s : State) :
    let t := emptyHold chooseLink h code words s
    t.link = { s.link with
      holds := putAt 3 h Hold.empty Hold.empty s.link.holds, config := t.link.config,
      addressSeen := t.link.addressSeen, rejoinMark := t.link.rejoinMark, rejoinCount := t.link.rejoinCount } := by
  dsimp only
  cases origin : (s.hold h).origin with
  | notice =>
    rw [emptyHold_notice origin]
    rfl
  | slot i =>
    have kept := chooseFor_link 33 (complete i code ResultFlags.none words (setHold h Hold.empty s))
    rw [complete_link] at kept
    rw [emptyHold_slot origin]
    exact kept

theorem emptyHold_hold_self {h : Nat} (hh : h < 3) (code : ResultCode) (words : List Word) (s : State) :
    (emptyHold chooseLink h code words s).hold h = Hold.empty := by
  rw [State.hold, emptyHold_link]
  exact setHold_hold_self hh Hold.empty s

theorem emptyHold_hold_other {h g : Nat} (hh : h < 3) (hg : g < 3) (ne : g ≠ h) (code : ResultCode) (words : List Word)
    (s : State) : (emptyHold chooseLink h code words s).hold g = s.hold g := by
  rw [State.hold, emptyHold_link]
  exact setHold_hold_other hh hg ne Hold.empty s

/-! ### A message sent (R154, R162) -/

/-- The counters once a message is sent, the change of state reported, the hold not yet emptied. -/
def State.sentCounted (s : State) : State :=
  changeCounters (s.link.tec - 1) (if s.link.config.loopback = true then s.link.rec_ - 1 else s.link.rec_) causeSuccess
    (setLink { s.link with sent := s.link.sent + 1, sendBits := [], justSent := true } s)

theorem sentOk_eq (choose : State → State) (h : Nat) (s : State) : sentOk choose h s =
    answerNotSending (emptyHold choose h .ok [word (s.hold h).attempts, word (s.hold h).losses, lowWord s.frameCounter,
      highWord s.frameCounter] s.sentCounted) := by
  have time : s.sentCounted.frameCounter = s.frameCounter := changeCounters_frameCounter ..
  rw [← time]
  rfl

theorem sentCounted_hold (s : State) (h : Nat) : s.sentCounted.hold h = s.hold h := changeCounters_hold ..

theorem sentCounted_slots (s : State) : s.sentCounted.disp.slots = s.disp.slots := changeCounters_slots ..

theorem sentOk_slot (choose : State → State) {h i : Nat} {s : State} (origin : (s.hold h).origin = .slot i) :
    sentOk choose h s = answerNotSending (choose (complete i .ok ResultFlags.none
      [word (s.hold h).attempts, word (s.hold h).losses, lowWord s.frameCounter, highWord s.frameCounter]
      (setHold h Hold.empty s.sentCounted))) := by
  rw [sentOk_eq, emptyHold_slot ((congrArg Hold.origin (sentCounted_hold s h)).trans origin)]

theorem sentOk_notice (choose : State → State) {h : Nat} {s : State} (origin : (s.hold h).origin = .notice) :
    sentOk choose h s = answerNotSending (setHold h Hold.empty s.sentCounted) := by
  rw [sentOk_eq, emptyHold_notice ((congrArg Hold.origin (sentCounted_hold s h)).trans origin)]

/-! ### Errors counted (R155-R158) -/

theorem markFor_eq (l : Link) (kind : LinkErrorKind) : markFor l kind =
    if l.state = .active ∨ l.state = .caution then
      some ⟨if kind = .check then .firstEndBit else .nextBit, List.replicate 8 false⟩ else none := by
  simp only [markFor, Link.drives_iff]

/-- A transmitter's error: 8 more in TEC but for a QUIET node's NO_ACK, and the attempt is over. -/
theorem countError_sender {kind : LinkErrorKind} (hk : kind ≠ .check) (s : State) : countError true kind s =
    changeCounters (if kind = .noAck ∧ s.link.state = .quiet then s.link.tec else min 255 (s.link.tec + 8)) s.link.rec_
      (errorCode kind) (setLink { s.link with
        lastError := some kind, lastErrorTime := s.frameCounter, receiving := false, sendBits := [], justSent := true,
        errorMark := if s.link.state = .active ∨ s.link.state = .caution then
          some ⟨.nextBit, List.replicate 8 false⟩ else none } s) := by
  unfold countError
  simp only [markFor_eq, if_neg hk, Bool.or_true, errorCounters, if_true]
  split <;> rfl

/-- A receiver's error: 1 more in REC. -/
theorem countError_receiver (kind : LinkErrorKind) (s : State) : countError false kind s =
    changeCounters s.link.tec (min 255 (s.link.rec_ + 1)) (errorCode kind) (setLink { s.link with
      lastError := some kind, lastErrorTime := s.frameCounter, receiving := false, sendBits := [],
      errorMark := if s.link.state = .active ∨ s.link.state = .caution then
        some ⟨if kind = .check then .firstEndBit else .nextBit, List.replicate 8 false⟩ else none } s) := by
  unfold countError
  simp only [markFor_eq, Bool.or_false, errorCounters]
  rfl

theorem countError_slots (sending : Bool) (kind : LinkErrorKind) (s : State) :
    (countError sending kind s).disp.slots = s.disp.slots := changeCounters_slots ..

theorem countError_ageList (sending : Bool) (kind : LinkErrorKind) (s : State) :
    (countError sending kind s).disp.ageList = s.disp.ageList := changeCounters_ageList ..

theorem countError_hold (sending : Bool) (kind : LinkErrorKind) (s : State) (h : Nat) :
    (countError sending kind s).hold h = s.hold h := changeCounters_hold ..

theorem errorFits_sender {kind : LinkErrorKind} (hk : kind ≠ .check) : errorFits true kind = true := by
  cases kind with
  | check => exact absurd rfl hk
  | _ => rfl

theorem errorFits_receiver {kind : LinkErrorKind} (hb : kind ≠ .bit) (hn : kind ≠ .noAck) :
    errorFits false kind = true := by
  cases kind with
  | bit => exact absurd rfl hb
  | noAck => exact absurd rfl hn
  | _ => rfl

section
variable {s : State} {kind : LinkErrorKind} (choose : State → State) (tail : Bool)
  (line : s.link.config.loopback = false)
include line

section
variable {h : Nat} (sends : s.sendingHold = some h) (hk : kind ≠ .check)
include sends hk

theorem linkError_detaches (entered : (countError true kind s).link.state = .detached ∧ s.link.state ≠ .detached) :
    linkError choose kind tail s =
      answerNotSending (detach choose s.link.state (errorCode kind) (countError true kind s)) := by
  unfold linkError
  simp only [line, sends, errorFits_sender hk, Bool.false_eq_true, if_false, if_true, if_pos entered]

theorem linkError_fails (stays : ¬ ((countError true kind s).link.state = .detached ∧ s.link.state ≠ .detached)) :
    linkError choose kind tail s = answerNotSending (failAttempt choose h kind (countError true kind s)) := by
  unfold linkError
  simp only [line, sends, errorFits_sender hk, Bool.false_eq_true, if_false, if_true, if_neg stays]

end

theorem linkError_receiver (idle : s.sendingHold = none) (reads : s.link.receiving = true) (hb : kind ≠ .bit)
    (hn : kind ≠ .noAck) : linkError choose kind tail s = countError false kind
      (setLink { s.link with ackDriven := tail && kind == .form && s.link.drives } s) := by
  unfold linkError
  simp only [line, idle, reads, errorFits_receiver hb hn]
  rfl

end

/-! ### What an errored attempt does to its hold (R162) -/

section
variable (choose : State → State) {h : Nat} (kind : LinkErrorKind) {s : State} {x : Hold} (hx : s.hold h = x)
include hx

theorem failAttempt_again (unmarked : x.cancelMark = false) (few : x.attempts < 3) :
    failAttempt choose h kind s = setHold h { x with state := .pending, attempts := x.attempts + 1 } s := by
  unfold failAttempt
  rw [hx, if_neg (by simp [unmarked]), if_neg (by omega)]

theorem failAttempt_marked {i : Nat} (origin : x.origin = .slot i) (marked : x.cancelMark = true) :
    failAttempt choose h kind s =
      choose (complete i .cancelled ResultFlags.none [] (setHold h Hold.empty s)) := by
  unfold failAttempt
  rw [hx, if_pos marked]
  exact emptyHold_slot (hx ▸ origin)

theorem failAttempt_slot {i : Nat} (origin : x.origin = .slot i) (unmarked : x.cancelMark = false)
    (fourth : 3 ≤ x.attempts) : failAttempt choose h kind s = choose (complete i .linkFailed ResultFlags.none
      [word (x.attempts + 1), word (errorCode kind)] (setHold h Hold.empty s)) := by
  unfold failAttempt
  rw [hx, if_neg (by simp [unmarked]), if_pos (by omega), if_neg (by simp [origin])]
  exact emptyHold_slot (hx ▸ origin)

theorem failAttempt_notice (origin : x.origin = .notice) (unmarked : x.cancelMark = false) (fourth : 3 ≤ x.attempts) :
    failAttempt choose h kind s =
      setHold h Hold.empty (setLink { s.link with failed := s.link.failed + 1 } s) := by
  unfold failAttempt
  rw [hx, if_neg (by simp [unmarked]), if_pos (by omega), if_pos origin]
  exact emptyHold_notice (hx ▸ origin)

end

/-! ### Becoming DETACHED (R159) -/

/-- One hold flushed. -/
def flushHold (h : Nat) (s : State) : State :=
  if (s.hold h).state = .empty then s else emptyHold chooseLink h .linkDetached [] s

/-- Holds 0, 1 and 2 flushed in that order. -/
def flushHolds (s : State) : State := flushHold 2 (flushHold 1 (flushHold 0 s))

theorem flushHold_hold_self {h : Nat} (hh : h < 3) (s : State) : ((flushHold h s).hold h).state = .empty := by
  unfold flushHold
  split
  · next empty => exact empty
  · rw [emptyHold_hold_self hh]
    rfl

theorem flushHold_hold_other {h g : Nat} (hh : h < 3) (hg : g < 3) (ne : g ≠ h) (s : State) :
    (flushHold h s).hold g = s.hold g := by
  unfold flushHold
  split
  · rfl
  · exact emptyHold_hold_other hh hg ne ..

theorem flushHold_counters (h : Nat) (s : State) :
    (flushHold h s).link.tec = s.link.tec ∧ (flushHold h s).link.state = s.link.state := by
  unfold flushHold
  split
  · exact ⟨rfl, rfl⟩
  · rw [emptyHold_link]
    exact ⟨rfl, rfl⟩

theorem flushHolds_counters (s : State) :
    (flushHolds s).link.tec = s.link.tec ∧ (flushHolds s).link.state = s.link.state := by
  obtain ⟨tec0, state0⟩ := flushHold_counters 0 s
  obtain ⟨tec1, state1⟩ := flushHold_counters 1 (flushHold 0 s)
  obtain ⟨tec2, state2⟩ := flushHold_counters 2 (flushHold 1 (flushHold 0 s))
  exact ⟨tec2.trans (tec1.trans tec0), state2.trans (state1.trans state0)⟩

theorem flushHolds_hold {h : Nat} (hh : h < 3) (s : State) : ((flushHolds s).hold h).state = .empty := by
  unfold flushHolds
  obtain rfl | rfl | rfl : h = 0 ∨ h = 1 ∨ h = 2 := by omega
  · rw [flushHold_hold_other (by decide) hh (by decide), flushHold_hold_other (by decide) hh (by decide),
      flushHold_hold_self hh]
  · rw [flushHold_hold_other (by decide) hh (by decide), flushHold_hold_self hh]
  · exact flushHold_hold_self hh _

/-- The node off the line, its rejoin mark set as configured, before its holds are flushed. -/
def State.offLine (s : State) : State :=
  setLink { s.link with sendBits := [], errorMark := none, receiving := false, rejoinMark := s.link.config.autoRejoin,
                        rejoinCount := 0 } s

theorem flushHolds_eq (s : State) : flushHolds s = forEach 3
    (fun h s => if (s.hold h).state = .empty then s else emptyHold chooseLink h .linkDetached [] s) s := rfl

/-- DETACHED entered: off the line, the holds flushed, the notice list emptied and its notices counted, the report. -/
theorem detach_eq (before : LinkState) (cause : Nat) (s : State) : detach chooseLink before cause s =
    reportLinkState before cause (s.link.holds.filter fun x => x.state != .empty).length s.link.notices.length
      (setLink { (flushHolds s.offLine).link with
        notices := [], failed := (flushHolds s.offLine).link.failed +
          word ((s.link.holds.filter Hold.isNotice).length + s.link.notices.length) } (flushHolds s.offLine)) := by
  unfold detach
  rw [flushHolds_eq]
  rfl

theorem detach_link (before : LinkState) (cause : Nat) (s : State) : (detach chooseLink before cause s).link =
    { (flushHolds s.offLine).link with
      notices := [], failed := (flushHolds s.offLine).link.failed +
        word ((s.link.holds.filter Hold.isNotice).length + s.link.notices.length) } := by
  rw [detach_eq, reportLinkState_link]
  rfl

theorem detach_hold (before : LinkState) (cause : Nat) {h : Nat} (hh : h < 3) (s : State) :
    ((detach chooseLink before cause s).hold h).state = .empty := by
  rw [State.hold, detach_link]
  exact flushHolds_hold hh s.offLine

/-! ### Notices (R165) -/

section
variable {s : State}

theorem noticeFault_detached (h : s.link.state = .detached) : s.noticeFault = some .linkDetached := if_pos h

theorem noticeFault_full (h : s.link.state ≠ .detached) (full : 8 ≤ s.link.notices.length) :
    s.noticeFault = some .notReady := (if_neg h).trans (if_pos full)

theorem noticeFault_none (h : s.link.state ≠ .detached) (room : s.link.notices.length < 8) : s.noticeFault = none :=
  (if_neg h).trans (if_neg (by omega))

theorem offerNotice_of_fault (m : Message) {c : ResultCode} (h : s.noticeFault = some c) : offerNotice m s = s :=
  if_neg (by simp [h])

end

/-- Settles O58: a transmitter's error by what it leaves of state and hold, a receiver's by the role's counter, the entry
to DETACHED by the three holds, a message sent by its origin, a notice by the list. -/
theorem errorsCountAndEndAttempts : Obligations.ErrorsCountAndEndAttempts := by
  refine ⟨fun h x s hh => ⟨setHold_hold_self hh x s, fun g hg ne => setHold_hold_other hh hg ne x s, rfl⟩,
    fun choose h code words s => ⟨fun i origin => emptyHold_slot origin, emptyHold_notice⟩, ?_⟩
  intro told
  refine ⟨fun s e h hs line sends hk => ?sender, fun s e hs line idle reads hb hn => ?receiver, fun _ _ _ => rfl,
    fun before cause s => ?detached, fun choose h s hh => ?sent, fun m s => ?notice⟩
  case sender =>
    intro x drives tec answers state v
    have counted : v = countError true e.kind s := (countError_sender hk s).symm
    clear_value v
    subst counted
    have kept : (countError true e.kind s).hold h = x := countError_hold ..
    have after : (countError true e.kind s).link.state = state := by
      rw [countError_sender hk, changeCounters_link]
      rfl
    refine ⟨after, countError_slots .., countError_ageList .., fun entered before => ?_, fun stays => ?_⟩
    · exact (exec_linkError hs e).trans (by rw [linkError_detaches chooseLink e.tail line sends hk ⟨entered, before⟩])
    · have ends {u : State} (hu : failAttempt chooseLink h e.kind (countError true e.kind s) = u) : answers u :=
        (exec_linkError hs e).trans (by
          rw [linkError_fails chooseLink e.tail line sends hk (by tauto), hu])
      exact ⟨fun unmarked few => ends (failAttempt_again _ _ kept unmarked few),
        fun i origin => ⟨fun marked => ends (failAttempt_marked _ _ kept origin marked),
          fun unmarked fourth => ends (failAttempt_slot _ _ kept origin unmarked fourth)⟩,
        fun origin unmarked fourth => ends (failAttempt_notice _ _ kept origin unmarked fourth)⟩
  case receiver =>
    intro drives rec' v
    have drove : (e.tail && e.kind == .form && s.link.drives) = decide (e.tail = true ∧ e.kind = .form ∧ drives) := by
      rw [Bool.eq_iff_iff]
      simp [Link.drives_iff, drives, and_assoc]
    have counted : v = linkError chooseLink e.kind e.tail s := by
      rw [linkError_receiver chooseLink e.tail line idle reads hb hn, countError_receiver, drove]
      rfl
    refine ⟨(exec_linkError hs e).trans (by rw [counted]), ?_⟩
    rw [counted, linkError_receiver chooseLink e.tail line idle reads hb hn]
    exact countError_slots ..
  case detached =>
    intro filled held off w t
    have flushed : w = flushHolds s.offLine := rfl
    have noticed : held = (s.link.holds.filter Hold.isNotice).length := rfl
    clear_value w held
    subst flushed noticed
    obtain ⟨tec, state⟩ := flushHolds_counters s.offLine
    refine ⟨detach_eq before cause s, ?_, ?_, ?_, fun h hh => detach_hold before cause hh s⟩
    · exact congrArg Link.notices (detach_link before cause s)
    · exact (congrArg Link.tec (detach_link before cause s)).trans tec
    · exact (congrArg Link.state (detach_link before cause s)).trans state
  case sent =>
    intro x rec' v
    have counted : v = setHold h Hold.empty s.sentCounted := rfl
    clear_value v
    subst counted
    exact ⟨setHold_hold_self hh .., sentCounted_slots s, fun i origin => sentOk_slot choose origin,
      sentOk_notice choose⟩
  case notice =>
    refine ⟨fun h => ⟨noticeFault_detached h, offerNotice_of_fault m (noticeFault_detached h)⟩,
      fun h full => ⟨noticeFault_full h full, offerNotice_of_fault m (noticeFault_full h full)⟩,
      fun h room => ⟨noticeFault_none h room, if_pos (noticeFault_none h room)⟩⟩

end Sys2Proof.Machine
end

section
/-! Sitting 8: reception (R153, R154, R166-R168), and what the model does with a message sent while its attempt's completion
hands over a LINK_CONFIG. -/

namespace Sys2Proof.Machine

/-! ### The acceptance filters (R167) -/

theorem linkMessageReport_words (n sender : Nat) (m : Message) (time : Long) :
    let b := fun i => (m.payload.getD i 0).toNat
    (linkMessageReport n sender m time).words = [bytePair 5 0, word (0x6000 + n), lowWord time, highWord time, word m.topic,
      bytePair sender m.length, bytePair (b 0) (b 1), bytePair (b 2) (b 3), bytePair (b 4) (b 5), 0, 0, 0, 0, 0, 0, 0] :=
  Report.words_of_length _ (n := 5) rfl (by decide)

theorem Filter.hits_iff (f : Filter) (h : Word) : f.hits h = true ↔ f.enable = true ∧ h &&& f.mask = f.code &&& f.mask := by
  simp [Filter.hits]

section
variable {c : LinkConfig} {h : Word}

theorem firstHit_of_unhit (unhit : ∀ f ∈ c.filters, f.hits h = false) : c.firstHit h = none := by
  have unfound : c.filters.zipIdx.find? (fun x => x.1.hits h) = none :=
    List.find?_eq_none.2 fun x hx => by simp [unhit x.1 (List.fst_mem_of_mem_zipIdx hx)]
  rw [LinkConfig.firstHit, unfound]
  rfl

theorem firstHit_of_first {n : Nat} {f : Filter} (hn : c.filters[n]? = some f) (hits : f.hits h = true)
    (before : ∀ k < n, ∀ g, c.filters[k]? = some g → g.hits h = false) : c.firstHit h = some (n, f) := by
  obtain ⟨lt, get⟩ := List.getElem?_eq_some_iff.1 hn
  have found : c.filters.zipIdx.find? (fun x => x.1.hits h) = some (f, n) := by
    refine List.find?_eq_some_iff_getElem.2 ⟨hits, n, by simpa using lt, by simp [get], fun k hk => ?_⟩
    simp [before k hk _ (List.getElem?_eq_getElem (hk.trans lt))]
  rw [LinkConfig.firstHit, found]
  rfl

end

section
variable {sender : Nat} {m : Message} {s : State}

theorem filterMessage_of_unhit
    (unhit : ∀ f ∈ s.link.config.filters, f.hits (headerOf sender m) = false) : filterMessage sender m s = s := by
  unfold filterMessage
  rw [firstHit_of_unhit unhit]

section
variable {n : Nat} {f : Filter} (hit : s.link.config.firstHit (headerOf sender m) = some (n, f))
include hit

theorem filterMessage_report (dest : f.dest = .report) :
    filterMessage sender m s = appendReport (linkMessageReport n sender m s.frameCounter) s := by
  unfold filterMessage
  simp only [hit, dest]

theorem filterMessage_bind (dest : f.dest = .bind) :
    filterMessage sender m s = bindingEvent (.link n sender m) s.frameCounter false s := by
  unfold filterMessage
  simp only [hit, dest]

/-- The report comes first. -/
theorem filterMessage_both (dest : f.dest = .both) : filterMessage sender m s =
    bindingEvent (.link n sender m) s.frameCounter false
      (appendReport (linkMessageReport n sender m s.frameCounter) s) := by
  have time (r : Report) : (appendReport r s).frameCounter = s.frameCounter :=
    (congrArg State.frameCounter (appendReport_only r s)).trans rfl
  unfold filterMessage
  simp only [hit, dest, time]

end

/-! ### A message passed on (R166, R168) -/

theorem passOn_of_own (own : sender = s.link.config.address) (line : s.link.config.loopback = false) :
    passOn sender m s = setLink { s.link with addressSeen := true } s := if_pos ⟨own, line⟩

theorem passOn_of_not_held (other : sender ≠ s.link.config.address ∨ s.link.config.loopback = true) :
    passOn sender m s =
      filterMessage sender m (if s.link.config.beatTopic = some m.topic then takeLinkBeat s else s) :=
  if_neg fun held => other.elim (· held.1) (by simp [held.2])

end

/-! ### A message received (R153, R154) -/

/-- The counter of a reception, the change of state reported (R158). -/
def State.receptionTold (s : State) : State :=
  changeCounters s.link.tec (s.link.rec_ - 1) causeSuccess
    (setLink { s.link with receiving := false, ackDriven := s.link.drives } s)

theorem receptionTold_slots (s : State) : s.receptionTold.disp.slots = s.disp.slots := changeCounters_slots ..

theorem receptionTold_config (s : State) : s.receptionTold.link.config = s.link.config := by
  rw [State.receptionTold, changeCounters_link]
  rfl

theorem receptionTold_received (s : State) : s.receptionTold.link.received = s.link.received := by
  rw [State.receptionTold, changeCounters_link]
  rfl

theorem countReceived_receptionTold (s : State) : countReceived s.receptionTold =
    setLink { s.receptionTold.link with received := s.link.received + 1 } s.receptionTold := by
  rw [countReceived, receptionTold_received]

theorem messageReceived_of_none {bits : List Bool} (h : decodeLine bits = none) (s : State) :
    messageReceived bits s = s := by
  unfold messageReceived
  simp [h]

theorem messageReceived_of_some {s : State} {bits : List Bool} (reads : s.link.receiving = true)
    (bus : s.link.engagement = .onBus) (attached : s.link.state ≠ .detached) (line : s.link.config.loopback = false)
    {sender : Nat} {m : Message} (h : decodeLine bits = some (sender, m)) :
    messageReceived bits s = passOn sender m (countReceived s.receptionTold) := by
  unfold messageReceived
  simp only [h]
  exact if_pos (by simp [reads, bus, attached, line])

/-! ### A message sent in loopback (R168) -/

theorem messageSent_of_loopback {s : State} {h : Nat} (sends : s.sendingHold = some h)
    (loop : (sentOk chooseLink h s).link.config.loopback = true) : messageSent chooseLink s =
      passOn s.link.config.address (s.hold h).message (countReceived (sentOk chooseLink h s)) := by
  unfold messageSent
  simp only [sends]
  exact if_pos loop

/-- Settles O57: the bits by what they spell, the message by its sender, the filters by the first hit and its destination,
loopback by the configuration that the attempt's end leaves. -/
theorem receivedMessageIsPassedOn : Obligations.ReceivedMessageIsPassedOn := by
  refine ⟨linkMessageReport_words, fun s bits hs reads bus attached line => ⟨fun unread => ?_, fun sender m spelt => ?received⟩,
    Filter.hits_iff, fun s sender m => ⟨filterMessage_of_unhit, fun n f hn hits before => ?filtered⟩,
    fun s h hs sends => ?loopback⟩
  · rw [exec_linkMessageReceived hs, messageReceived_of_none unread]
  case received =>
    intro state counted told v
    have after : v = countReceived s.receptionTold := (countReceived_receptionTold s).symm
    clear_value v
    subst after
    have config : (countReceived s.receptionTold).link.config = s.link.config := receptionTold_config s
    refine ⟨receptionTold_slots s, fun own => ?_, fun other => ?_⟩
    · rw [exec_linkMessageReceived hs, messageReceived_of_some reads bus attached line spelt,
        passOn_of_own (config ▸ own) (config ▸ line)]
      rfl
    · rw [exec_linkMessageReceived hs, messageReceived_of_some reads bus attached line spelt,
        passOn_of_not_held (.inl (config ▸ other)), config]
  case filtered =>
    have hit := firstHit_of_first hn hits before
    exact ⟨filterMessage_report hit, filterMessage_bind hit, filterMessage_both hit⟩
  case loopback =>
    intro v w m loop
    rw [exec_linkMessageSent hs, messageSent_of_loopback sends loop,
      passOn_of_not_held (s := countReceived (sentOk chooseLink h s)) (.inr loop)]
    rfl

/-! ### An attempt whose completion hands over a LINK_CONFIG (R154, R162, R169, R195)

The choice that follows the completion of a message sent can take a LINK_CONFIG, which a part in SETUP carries out at once.
`messageSent` asks for loopback after that choice, so a LINK_CONFIG that sets loopback has the message received too. -/

/-- Slot `i`'s LINK_SEND in a hold. -/
def sendIn (state : HoldState) (i : Nat) : Hold := ⟨state, ⟨0, 0, []⟩, .slot i, 0, 0, 0, false⟩

/-- A LINK_SEND that is RUNNING. -/
def sendSlot : Slot := { Slot.reset with state := .running, order := some ⟨14, 0, 0, []⟩, routable := true }

/-- A LINK_CONFIG of 250 kbit/s and loopback, WAITING. -/
def loopbackSlot : Slot :=
  { Slot.reset with
    state := .waiting, routable := true
    order := some ⟨15, 0, 0, List.replicate 0x28 0 ++ [250, 0, 0, 0, 0, 0, 1, 0]⟩ }

/-- In SETUP, out of loopback: all three holds carry a LINK_SEND, that of slot 0 being sent, and the LINK_CONFIG of slot 3
waits for the link controller to be free. -/
def sendingBeforeLoopback : State :=
  { State.reset with
    disp := { Dispatcher.reset with
      ageList := [0, 1, 2, 3], slots := [sendSlot, sendSlot, sendSlot, loopbackSlot] ++ List.replicate 28 Slot.reset }
    link := { Link.reset with holds := [sendIn .sending 0, sendIn .pending 1, sendIn .pending 2] } }

/-- The count of messages received that a command leaves. -/
def receivedAfter : Result → Word
  | .next t => t.link.received
  | .fault _ => 0
  | .refused _ => 0

/-- The message sent is counted as received. -/
theorem sendingBeforeLoopback_receives : receivedAfter (exec .linkMessageSent sendingBeforeLoopback) = 1 := by
  decide +kernel

/-- Refutes O56: it has a message sent out of loopback end without reception, but the LINK_CONFIG that the completion hands
over sets loopback, and the message is received. -/
theorem not_attemptStartsAndEnds : ¬ Obligations.AttemptStartsAndEnds := by
  rintro ⟨_, _, _, ends⟩
  obtain ⟨_, _, _, _, completes, _⟩ := ends sendingBeforeLoopback 0 rfl (by decide +kernel) rfl
  have sent := congrArg receivedAfter (completes 0 rfl)
  rw [sendingBeforeLoopback_receives] at sent
  exact absurd sent (by decide +kernel)

end Sys2Proof.Machine
end

section
/-! Sitting 9: the lamps (R176-R181): the beat window's close, the evaluation, period starts and the install of a pending
LAMP_CONFIG. -/

namespace Sys2Proof.Machine

/-! ### The beat window (R177) -/

section
variable {s : State}

theorem beatWindowClose_of_closed (shown : s.lamps.windowOpen = true) (closed : s.lamps.window = 0) :
    beatWindowClose s = { s with lamps := { s.lamps with windowOpen := false } } :=
  if_pos (by simp [shown, closed])

theorem beatWindowClose_of_not_due (h : s.lamps.windowOpen = false ∨ 0 < s.lamps.window) : beatWindowClose s = s := by
  refine if_neg fun due => ?_
  simp only [Bool.and_eq_true, beq_iff_eq] at due
  obtain ⟨shown, closed⟩ := due
  rcases h with hidden | left
  · exact absurd (hidden.symm.trans shown) Bool.false_ne_true
  · omega

end

/-! ### The evaluation (R176, R178) -/

/-- The blink leaves a lamp whose condition holds at its on level. -/
def State.blinkLit (s : State) : Blink → Bool
  | .none => true
  | .beat => decide (0 < s.lamps.window)
  | .fast => decide (s.frameCounter.toNat % 250 < 125)

theorem lampLevel_eq (s : State) (c : LampConfig) (cond : Bool) : s.lampLevel c cond =
    if c.source = .off then .off
    else if cond = true ∧ s.blinkLit c.blink = true then c.onLevel else c.offLevel := by
  unfold State.lampLevel State.blinkLit
  cases cond <;> cases c.blink <;> simp [State.fastLit]

theorem findStage_ok_iff (s : State) (lane p : Nat) (bank : BankId) (ln : LaneId) (x : Stage) :
    s.findStage lane p = .ok (bank, ln, x) ↔ laneOfNat lane = some ln ∧ p ≤ 11 ∧ s.liveBank = some bank ∧
      (s.lane.banks.get bank).stageAt ln p = some x := by
  constructor
  · intro found
    unfold State.findStage at found
    split at found
    · cases found
    next hl =>
      split at found
      · cases found
      next hp =>
        split at found
        · cases found
        next live =>
          split at found
          · cases found
          next hx =>
            cases found
            exact ⟨hl, Nat.le_of_not_lt hp, live, hx⟩
  · rintro ⟨hl, hp, live, hx⟩
    rw [findStage_live hl hp live, hx]

theorem stageEngaged_iff (s : State) (lane p : Nat) : s.stageEngaged lane p = true ↔
    ∃ bank ln x, s.findStage lane p = .ok (bank, ln, x) ∧ x.bypass = false := by
  unfold State.stageEngaged
  rcases s.findStage lane p with c | ⟨bank, ln, x⟩ <;> simp

theorem lampCondition_stage_iff (s : State) (lane p : Nat) : s.lampCondition (.stage lane p) = true ↔
    ∃ bank ln x, laneOfNat lane = some ln ∧ p ≤ 11 ∧ s.liveBank = some bank ∧
      (s.lane.banks.get bank).stageAt ln p = some x ∧ x.bypass = false := by
  refine (stageEngaged_iff s lane p).trans ?_
  simp only [findStage_ok_iff, and_assoc]

theorem MuteSet.isEmpty_iff (m : MuteSet) : m.isEmpty = true ↔ m = ⟨false, false, false, false, false⟩ := by
  cases m
  simp [MuteSet.isEmpty, and_assoc]

/-! ### What the generators load (R179, R180) -/

theorem LampDriver.lamp_of_getElem? {d : LampDriver} {n : Nat} {x : Lamp} (h : d.lamps[n]? = some x) : d.lamp n = x := by
  rw [LampDriver.lamp, List.getD_eq_getElem?_getD, h, Option.getD_some]

theorem LampDriver.loadAll_getElem? {d : LampDriver} {n : Nat} {x : Lamp} (h : d.lamps[n]? = some x) :
    d.loadAll.lamps[n]? = some { x with load := d.loadOf n } := by
  simp [LampDriver.loadAll, h]

theorem LampDriver.loadOf_complement {d : LampDriver} {n : Nat} {e : Lamp} (odd : n % 2 = 1) (he : d.lamps[n - 1]? = some e)
    (h : e.config.complement = true) :
    d.loadOf n = pairedLoad e.worked.halfCounts e.config.gap := by
  rw [← LampDriver.lamp_of_getElem? he] at h ⊢
  exact if_pos ⟨odd, h⟩

section
variable {d : LampDriver} {n : Nat} {x e : Lamp} (hx : d.lamps[n]? = some x)
include hx

theorem LampDriver.loadOf_even (h : n % 2 = 0) : d.loadOf n = .level x.worked := by
  rw [← LampDriver.lamp_of_getElem? hx]
  exact if_neg fun paired => by omega

theorem LampDriver.loadOf_single (he : d.lamps[n - 1]? = some e) (h : e.config.complement = false) :
    d.loadOf n = .level x.worked := by
  rw [← LampDriver.lamp_of_getElem? hx]
  refine if_neg fun ⟨_, paired⟩ => ?_
  rw [LampDriver.lamp_of_getElem? he, h] at paired
  exact Bool.false_ne_true paired

end

/-! ### The install of a pending LAMP_CONFIG (R181) -/

/-- The configuration that a pending order has for lamp `n`. -/
def PendingLamps.given (p : PendingLamps) (n : Nat) : Option LampConfig :=
  if p.first ≤ n then p.configs[n - p.first]? else none

/-- Lamp `n` is the odd partner of an even lamp that the order takes from COMPLEMENT to SINGLE. -/
def State.Freed (s : State) (p : PendingLamps) (n : Nat) : Prop :=
  n % 2 = 1 ∧ (s.lamps.lamp (n - 1)).config.complement = true ∧
    ∃ c, p.given (n - 1) = some c ∧ c.complement = false

section
variable {s : State} {p : PendingLamps} {n : Nat} {x : Lamp} (hx : s.lamps.lamps[n]? = some x)
include hx

theorem installLamps_of_given {c : LampConfig} (h : p.given n = some c) :
    (s.installLamps p)[n]? = some (s.evaluate { x with config := c }) := by
  unfold PendingLamps.given at h
  simp [State.installLamps, hx, h]

theorem installLamps_of_freed (h : p.given n = none) (freed : s.Freed p n) :
    (s.installLamps p)[n]? = some (s.evaluate x) := by
  obtain ⟨odd, paired, c, hc, single⟩ := freed
  unfold PendingLamps.given at h hc
  simp [State.installLamps, hx, h, hc, odd, paired, single]

theorem installLamps_of_not_freed (h : p.given n = none) (kept : ¬ s.Freed p n) : (s.installLamps p)[n]? = some x := by
  unfold PendingLamps.given at h
  simp only [State.installLamps, List.getElem?_map, List.getElem?_zipIdx, hx, Option.map_some, Nat.zero_add, h]
  refine congrArg some (if_neg fun freed => kept ?_)
  simp only [Bool.and_eq_true, beq_iff_eq] at freed
  obtain ⟨⟨odd, paired⟩, single⟩ := freed
  split at single
  next c hc => exact ⟨odd, paired, c, hc, by simpa using single⟩
  next => cases single

end

/-! ### A period start (R179-R181) -/

section
variable {s : State}

theorem periodStart_of_none (h : s.lamps.pending = none) : periodStart s = { s with lamps := s.lamps.loadAll } := by
  unfold periodStart
  rw [h]
  rfl

theorem periodStart_of_pending {p : PendingLamps} (h : s.lamps.pending = some p) : periodStart s =
    let d := LampDriver.loadAll { s.lamps with lamps := s.installLamps p, pending := none }
    complete p.slot .ok ResultFlags.none [word p.first, word p.configs.length] { s with
      lamps := d, writes := s.writes ++ (wordsAt 0x188 d.configWords ++ wordsAt 0x1D0 d.gapWords) } := by
  unfold periodStart
  rw [h]
  rfl

theorem exec_beatWindowClose (hs : s.resetHeld = false) :
    exec .beatWindowClose s = .next (publish s (beatWindowClose s)) := plain_of_free _ hs

theorem exec_periodStart (hs : s.resetHeld = false) :
    exec .periodStart s = .next (publish s (finish (periodStart s))) := whole_of_free _ hs

end

/-- Settles O60: the window by whether its close is due, a period start by the pending order, each lamp of an install by
whether the order gives it a configuration or frees it from its pair, and each generator by its lamp's place in a pair. -/
theorem periodStartLoadsLevels : Obligations.PeriodStartLoadsLevels := by
  refine ⟨fun s hs => ⟨fun shown closed => ?closes, fun h => ?stays, fun h => ?loads, fun p h => ?installs,
      fun p n x hx => ⟨fun c => installLamps_of_given hx, fun h => ⟨installLamps_of_freed hx h,
        installLamps_of_not_freed hx h⟩⟩⟩,
    fun d => ⟨rfl, fun n x hx => ⟨d.loadOf n, LampDriver.loadAll_getElem? hx, LampDriver.loadOf_even hx,
      fun e odd he => ⟨LampDriver.loadOf_single hx he, LampDriver.loadOf_complement odd he⟩⟩⟩,
    fun l h => ⟨rfl, ?halfCounts⟩, fun s x => ⟨?evaluates, rfl⟩, fun s => ?conditions⟩
  case closes => rw [exec_beatWindowClose hs, beatWindowClose_of_closed shown closed]
  case stays => rw [exec_beatWindowClose hs, beatWindowClose_of_not_due h]
  case loads => rw [exec_periodStart hs, periodStart_of_none h]
  case installs => rw [exec_periodStart hs, periodStart_of_pending h]
  case halfCounts => cases h <;> rfl
  case evaluates =>
    rw [State.evaluate, lampLevel_eq]
    rfl
  case conditions =>
    refine ⟨rfl, rfl, lampCondition_stage_iff s, fun n => beq_iff_eq, fun i => ?_, decide_eq_true_iff, ?_, ?_⟩
    · simp [State.lampCondition]
    · simp [State.lampCondition]
    · simp [State.lampCondition, ← MuteSet.isEmpty_iff]

end Sys2Proof.Machine
end

section
/-! Sitting 10: the exchange (chapter 10). What a command does to the queue and to exchange memory, one lemma for each way a
command is run, and what every step keeps. -/

namespace Sys2Proof.Machine

/-! ### The effect of an event -/

/-- What an event other than a reset does to the queue of commands and to exchange memory before its end: the queue stays;
memory stays, or a host access on WAIT that a burst's end lets through has been carried out, or the host access `access`. -/
structure Effect (access : Option HostAccess) (s u : State) : Prop where
  pending : u.pending = s.pending
  mem : u.mem = s.mem ∨ u.mem = (endBurst s).mem ∨ ∃ acc, access = some acc ∧ u.mem = (hostAccess acc s).mem

namespace Effect

variable {access : Option HostAccess} {s u v : State}

theorem of_still (h : Still s u) : Effect access s u := ⟨h.symm.pending, .inl h.symm.mem⟩

theorem of_endBurst (h : Still (endBurst s) u) : Effect access s u := by
  obtain ⟨hp, -⟩ := endBurst_fields s
  exact ⟨h.symm.pending.trans hp, .inr (.inl h.symm.mem)⟩

theorem refl (s : State) : Effect access s s := ⟨rfl, .inl rfl⟩

/-- What an event leaves as it is at its end does not matter to its effect. -/
theorem trans_still (h : Effect access s u) (k : Still u v) : Effect access s v :=
  ⟨k.symm.pending.trans h.pending, by rw [k.symm.mem]; exact h.mem⟩

theorem atBoundary {due : State → Bool} {f : State → State} (h : ∀ s, Still s (f s)) (s : State) :
    Effect access s (atBoundary due f s) := by
  have arrives : Effect access s (openBoundary s) := ⟨openBoundary_pending s, .inl (openBoundary_mem s)⟩
  unfold Machine.atBoundary
  dsimp only
  split
  · exact arrives.trans_still (h _)
  · exact refl s

theorem frameBoundary (i : BoundaryInput) (s : State) : Effect access s (frameBoundary i s) := by
  have h := frameBoundary_still i s
  exact ⟨h.pending.trans (openBoundary_pending s), .inl (h.mem.trans (openBoundary_mem s))⟩

theorem hostMemory (acc : HostAccess) (s : State) : Effect (some acc) s (hostMemory acc s) := by
  unfold Machine.hostMemory
  split
  · exact ⟨by cases acc <;> rfl, .inr (.inr ⟨acc, rfl, rfl⟩)⟩
  · split
    · exact ⟨rfl, .inl rfl⟩
    · exact refl s

theorem startBurst (s : State) : Effect access s (startBurst s) := by
  have start (u : State) : Still u (startOldest u) := by simp
  unfold Machine.startBurst
  split
  · exact of_still (start s)
  · exact of_endBurst (start _)
  · exact refl s

end Effect

/-! ### The commands, by the way they are run -/

/-- The commands that reset the part (R204, R205). -/
def resetsPart : Instr → Bool
  | .powerOn => true
  | .resetLine => true
  | .softReset => true
  | _ => false

/-- The host access that a command offers. -/
def offeredAccess : Instr → Option HostAccess
  | .hostMemoryAccess acc => some acc
  | _ => none

theorem exec_powerOn (s : State) : exec .powerOn s = .next (powerUp s) := rfl
theorem exec_resetLine (s : State) : exec .resetLine s = .next (resetPart false s) := rfl
theorem exec_softReset {s : State} (hs : s.resetHeld = false) : exec .softReset s = .next (resetPart true s) := by
  show Host.Outcome.next (if s.resetHeld = true then s else resetPart true s) = _
  rw [if_neg (by simp [hs])]
theorem exec_softReset_of_held {s : State} (hs : s.resetHeld = true) : exec .softReset s = .next s := by
  show Host.Outcome.next (if s.resetHeld = true then s else resetPart true s) = _
  rw [if_pos hs]

/-- An event run with `whole` is run with `plain`, its choices made at its end. -/
theorem whole_eq_plain {c : Instr} {access : Option HostAccess} {f : State → State} {s : State} (run : exec c s = whole f s)
    (h : Effect access s (f s)) : ∃ g, exec c s = plain g s ∧ Effect access s (g s) :=
  ⟨fun s => finish (f s), run, h.trans_still (by simp)⟩

/-- The end of a burst's copy is a still event after the burst's end, or nothing when no such burst runs. -/
theorem Effect.of_copyEnd {access : Option HostAccess} {s u : State} (h : Still (endBurst s) u ∨ u = s) :
    Effect access s u := by
  rcases h with h | rfl
  · exact Effect.of_endBurst h
  · exact Effect.refl _

/-- Every command but the resets is an event run with `plain`, and its effect is as `Effect` says. -/
theorem exec_eq_plain {c : Instr} (hc : resetsPart c = false) (s : State) :
    ∃ f, exec c s = plain f s ∧ Effect (offeredAccess c) s (f s) := by
  cases c
  case powerOn | resetLine | softReset => cases hc
  case hostMemoryAccess acc => exact ⟨hostMemory acc, rfl, Effect.hostMemory acc s⟩
  case burstStart => exact ⟨startBurst, rfl, Effect.startBurst s⟩
  case resetLineAssert =>
    obtain ⟨hp, -⟩ := endBurst_fields s
    exact ⟨assertReset, rfl, hp, .inr (.inl rfl)⟩
  case orderCapture | impulseChunk | fetchEnd | setlistCopyEnd | bindingCopyEnd =>
    refine whole_eq_plain rfl (Effect.of_copyEnd ?_)
    simp only [endOrderCapture, endImpulseChunk, endFetch, endSetlistCopy, endBindingCopy]
    split
    · exact .inl (by simp)
    · exact .inr rfl
  case frameBoundary i => exact whole_eq_plain rfl (Effect.frameBoundary i s)
  case periodStart | linkArbitrationLost | linkMessageSent | linkMessageReceived | linkError =>
    exact whole_eq_plain rfl (Effect.of_still (by simp))
  case gateHoldExpiry | accumulatorBeat | prepareDone | swap | gapFadeInStart | fadeOutEnd | fadeEnd | trailTimerExpiry |
      cutEnd | leanSilence =>
    refine ⟨_, rfl, ?_⟩
    exact Effect.atBoundary (fun _ => by simp) s
  case rejoin =>
    refine ⟨_, rfl, ?_⟩
    exact Effect.of_still (by split <;> simp [completeIdleRun_still])
  case lineIdleRun => exact ⟨completeIdleRun, rfl, Effect.of_still ((completeIdleRun_still s s).2 (by simp))⟩
  case badOperation =>
    refine ⟨_, rfl, ?_⟩
    exact Effect.of_still (by split <;> simp)
  case converterSamplesStop => exact ⟨fun s => { s with delivering := false }, rfl, rfl, .inl rfl⟩
  all_goals
    refine ⟨_, rfl, ?_⟩
    exact Effect.of_still (by simp)

/-! ### The resets -/

theorem resetBlocks_mem (soft : Bool) (s : State) : (resetBlocks soft s).mem = s.mem := rfl
theorem resetBlocks_pending (soft : Bool) (s : State) : (resetBlocks soft s).pending = s.pending := rfl
theorem resetBlocks_writes (soft : Bool) (s : State) : (resetBlocks soft s).writes = [] := rfl
theorem resetBlocks_disp (soft : Bool) (s : State) : (resetBlocks soft s).disp = { Dispatcher.reset with
    por := s.disp.por, port := { Port.reset with hostData := s.disp.port.hostData } } := rfl

theorem resetPart_pending (soft : Bool) (s : State) : (resetPart soft s).pending = s.pending := by
  obtain ⟨hp, -⟩ := endBurst_fields s
  rw [resetPart, initBurst_pending, resetBlocks_pending, hp]

theorem powerUp_pending (s : State) : (powerUp s).pending = s.pending := by
  obtain ⟨hp, -⟩ := endBurst_fields s
  rw [powerUp, initBurst_pending, setDisp_pending, resetBlocks_pending, ← hp]

theorem resetPart_kept {s : State} (soft : Bool) (h : s.mem.wf = true) : (resetPart soft s).Kept := by
  refine ⟨initBurst_wf (endBurst_wf h), ?_, ?_⟩
  · rw [resetPart, initBurst_writes, resetBlocks_writes]
  · rw [resetPart, initBurst_disp, resetBlocks_disp]; rfl

theorem powerUp_kept (s : State) : (powerUp s).Kept := by
  refine ⟨initBurst_wf rfl, ?_, ?_⟩
  · rw [powerUp, initBurst_writes, setDisp_writes, resetBlocks_writes]
  · rw [powerUp, initBurst_disp, setDisp_disp, resetBlocks_disp]; rfl

/-- A reset leaves every byte that the part does not write as the end of the burst in progress leaves it. -/
theorem resetPart_host {s : State} (soft : Bool) (h : s.mem.wf = true) {a : Nat} (ha : partByte a = false) :
    (resetPart soft s).mem.read a = (endBurst s).mem.read a := by
  rw [resetPart, initBurst_host (by rw [resetBlocks_mem]; exact endBurst_wf h) ha, resetBlocks_mem]

/-! ### What every command and every step keeps -/

/-- A command other than POWER_ON and a reset leaves the part as it is, or ends an event with `publish`. -/
theorem exec_cases {c : Instr} {s t : State} (hc : resetsPart c = false) (h : exec c s = .next t) :
    t = s ∨ ∃ u, t = publish s u ∧ Effect (offeredAccess c) s u := by
  obtain ⟨f, hf, effect⟩ := exec_eq_plain hc s
  rw [hf] at h
  cases hr : s.resetHeld with
  | true => rw [plain_of_held f hr] at h; exact .inl (Host.Outcome.next.inj h).symm
  | false => rw [plain_of_free f hr] at h; exact .inr ⟨f s, (Host.Outcome.next.inj h).symm, effect⟩

/-- Settles O2: a reset answers the reset state, and any other command its event's end, or the state as it is. -/
theorem everyCommandAnswersNext : Obligations.EveryCommandAnswersNext := by
  intro c s
  cases hc : resetsPart c with
  | true =>
    cases c
    case powerOn => exact ⟨_, rfl, powerUp_pending s⟩
    case resetLine => exact ⟨_, rfl, resetPart_pending false s⟩
    case softReset =>
      cases hs : s.resetHeld with
      | true => exact ⟨s, exec_softReset_of_held hs, rfl⟩
      | false => exact ⟨_, exec_softReset hs, resetPart_pending true s⟩
    all_goals cases hc
  | false =>
    obtain ⟨f, hf, effect⟩ := exec_eq_plain hc s
    refine ⟨_, hf, ?_⟩
    split
    · rfl
    · exact effect.pending

theorem Effect.wf {access : Option HostAccess} {s u : State} (e : Effect access s u) (h : s.mem.wf = true) :
    u.mem.wf = true := by
  rcases e.mem with hm | hm | ⟨acc, -, hm⟩
  · rwa [hm]
  · rw [hm]; exact endBurst_wf h
  · rw [hm]; exact hostAccess_wf acc h

theorem publish_kept {s u : State} (h : u.mem.wf = true) : (publish s u).Kept :=
  ⟨publish_wf h, publish_writes s u, queueAsked_asked _⟩

theorem exec_kept {c : Instr} {s t : State} (hk : s.Kept) (h : exec c s = .next t) : t.Kept := by
  cases hc : resetsPart c with
  | true =>
    cases c
    case powerOn => exact Host.Outcome.next.inj h ▸ powerUp_kept s
    case resetLine => exact Host.Outcome.next.inj h ▸ resetPart_kept false hk.1
    case softReset =>
      cases hs : s.resetHeld with
      | true => rw [exec_softReset_of_held hs] at h; exact Host.Outcome.next.inj h ▸ hk
      | false => rw [exec_softReset hs] at h; exact Host.Outcome.next.inj h ▸ resetPart_kept true hk.1
    all_goals cases hc
  | false =>
    obtain rfl | ⟨u, rfl, effect⟩ := exec_cases hc h
    · exact hk
    · exact publish_kept (effect.wf hk.1)

/-- Settles O3: a step runs one command on the queue's rest, and every command ends with the write buffer empty and the bursts
asked for in the queue, on memory that only writes have changed. -/
theorem everyStepKeepsMemoryForm : Obligations.EveryStepKeepsMemoryForm := by
  intro s t hk h
  unfold step at h
  cases hp : s.pending with
  | nil => rw [hp] at h; exact Host.Outcome.next.inj h ▸ hk
  | cons c rest => rw [hp] at h; exact exec_kept (s := { s with pending := rest }) hk h

/-- With no host access on WAIT the end of a burst leaves memory. -/
theorem endBurst_mem {s : State} (h : s.disp.port.hostWait = none) : (endBurst s).mem = s.mem := by
  rw [endBurst_of_none h]

theorem Effect.mem_of_no_access {s u : State} (e : Effect none s u) (hw : s.disp.port.hostWait = none) : u.mem = s.mem := by
  rcases e.mem with hm | hm | ⟨acc, ha, -⟩
  · exact hm
  · rw [hm, endBurst_mem hw]
  · cases ha

theorem offeredAccess_eq_none {c : Instr} (h : ∀ acc, c ≠ .hostMemoryAccess acc) : offeredAccess c = none := by
  cases c
  case hostMemoryAccess acc => exact absurd rfl (h acc)
  all_goals rfl

theorem partByte_iff (a : Nat) :
    partByte a = true ↔ a < 0x200 ∨ (a < 0xA00 ∧ 0x34 ≤ a % 64) ∨ (0xA00 ≤ a ∧ a < 0x1200) := by
  simp only [partByte, Bool.or_eq_true, Bool.and_eq_true, decide_eq_true_eq, or_assoc]

theorem exec_host {c : Instr} {s t : State} {a : Nat} (hk : s.Kept) (hw : s.disp.port.hostWait = none) (hp : c ≠ .powerOn)
    (hm : ∀ acc, c ≠ .hostMemoryAccess acc) (h : exec c s = .next t) (ha : partByte a = false) :
    t.mem.read a = s.mem.read a := by
  cases hc : resetsPart c with
  | true =>
    have reset (soft : Bool) : (resetPart soft s).mem.read a = s.mem.read a := by
      rw [resetPart_host soft hk.1 ha, endBurst_mem hw]
    cases c
    case powerOn => exact absurd rfl hp
    case resetLine => exact Host.Outcome.next.inj h ▸ reset false
    case softReset =>
      cases hs : s.resetHeld with
      | true => rw [exec_softReset_of_held hs] at h; exact Host.Outcome.next.inj h ▸ rfl
      | false => rw [exec_softReset hs] at h; exact Host.Outcome.next.inj h ▸ reset true
    all_goals cases hc
  | false =>
    obtain rfl | ⟨u, rfl, effect⟩ := exec_cases hc h
    · rfl
    · rw [offeredAccess_eq_none hm] at effect
      rw [publish_host (effect.wf hk.1) ha, effect.mem_of_no_access hw]

/-- Settles O6: the end of an event and an initialization burst write part-written bytes only, and no command but the two
excepted ones changes memory in any other way while no host access waits. -/
theorem onlyHostWritesHostAreas : Obligations.OnlyHostWritesHostAreas :=
  ⟨partByte_iff, fun _ _ _ _ hk hw hp hm h ha => exec_host hk hw hp hm h ha⟩

/-! ### The RESET line (R205) -/

theorem exec_of_held {c : Instr} {s : State} (hs : s.resetHeld = true) (hp : c ≠ .powerOn) (hr : c ≠ .resetLine) :
    exec c s = .next s := by
  cases hc : resetsPart c with
  | true =>
    cases c
    case powerOn => exact absurd rfl hp
    case resetLine => exact absurd rfl hr
    case softReset => exact exec_softReset_of_held hs
    all_goals cases hc
  | false =>
    obtain ⟨f, hf, -⟩ := exec_eq_plain hc s
    rw [hf, plain_of_held f hs]

/-- Settles O13: the assertion ends the burst with no host access to carry out, and a held line stops every command that is run
with `plain` and a soft reset. -/
theorem heldResetStopsPart : Obligations.HeldResetStopsPart := by
  refine ⟨fun s hs => ?_, fun s hs => ⟨fun r => if_pos hs, fun c hp hr => exec_of_held hs hp hr⟩⟩
  obtain ⟨held, wait⟩ := hs
  have asserts : exec .resetLineAssert s = .next (publish s (assertReset s)) := plain_of_free assertReset held
  rw [asserts, assertReset, endBurst_of_none wait]
  rfl

end Sys2Proof.Machine
end

section
/-! Sitting 10: what the end of an event leaves in exchange memory (R184, R185, R206; log 34). -/

namespace Sys2Proof.Machine

theorem Memory.partWrites_append (m : Memory) (l r : List (Nat × Word)) :
    m.partWrites (l ++ r) = (m.partWrites l).partWrites r := List.foldl_append

section
variable {s u : State}

theorem mem_statusWords_of_changed {x : Nat × Word} (h : x ∈ changedWords s u) : x ∈ u.statusWords :=
  (changedWords_sublist s u).subset h

theorem statusWord_address {x : Nat × Word} (h : x ∈ u.statusWords) : x.1 ∈ statusAddresses := by
  rw [← statusWords_fst u]
  exact List.mem_map_of_mem h

/-- Every address of a status word is even, and its two bytes are the part's to write. -/
theorem statusWord_place {x : Nat × Word} (h : x ∈ u.statusWords) :
    x.1 % 2 = 0 ∧ partByte x.1 = true ∧ partByte (x.1 + 1) = true := by
  obtain ⟨even, below, -⟩ := mem_statusAddresses (statusWord_address h)
  simp only [partByte_iff]
  omega

theorem changedWords_nodup (s u : State) : ((changedWords s u).map Prod.fst).Nodup := by
  have h := (changedWords_sublist s u).map Prod.fst
  rw [statusWords_fst] at h
  exact statusAddresses_nodup.sublist h

/-- A status word that the event changed is the word read after it. -/
theorem publish_changedWord (h : u.mem.wf = true) {x : Nat × Word} (hx : x ∈ changedWords s u) :
    (publish s u).mem.readWord x.1 = x.2 := by
  have e : (publish s u).mem = (u.mem.partWrites u.writes).partWrites (changedWords s u) := Memory.partWrites_append ..
  rw [e]
  exact Memory.readWord_of_partWrites (Memory.partWrites_wf _ h) (changedWords_nodup s u)
    (fun y hy => statusWord_place (mem_statusWords_of_changed hy)) hx

theorem publish_statusWord (h : u.mem.wf = true) {x : Nat × Word} (hx : x ∈ u.statusWords) :
    x ∈ s.statusWords ∨ (publish s u).mem.readWord x.1 = x.2 :=
  (statusWord_cases s u hx).imp id (publish_changedWord h)

/-- What holds of every status word that is none of the state before holds of the words that the event changes. -/
theorem changedWords_all {P : Nat × Word → Prop} (h : ∀ x ∈ u.statusWords, x ∈ s.statusWords ∨ P x) :
    ∀ x ∈ changedWords s u, P x := fun x hx =>
  (h x (mem_statusWords_of_changed hx)).resolve_left (changedWords_new hx)

/-- Changed status words lie apart from a word of the tuner cell and from one beyond the status areas. -/
theorem changedWords_apart {a : Nat} (h : 0x200 ≤ a ∨ (0x100 ≤ a ∧ a + 1 < 0x110)) :
    ∀ x ∈ changedWords s u, a + 1 < x.1 ∨ x.1 + 1 < a := fun _ hx =>
  statusWords_apart (mem_statusWords_of_changed hx) h

end

/-- Settles O7: a changed status word is written last, an event's own word at an address no later write touches stays, and
every other byte is left. -/
theorem eventEndShowsStatus : Obligations.EventEndShowsStatus := by
  refine ⟨fun s u h x hx => publish_statusWord h hx, fun s u earlier later a w h hw hp hq hl ha => ?_,
    fun s u a h hw hc => publish_read_other h hw (changedWords_all hc),
    fun s u => ⟨rfl, fun h a ha => publish_host h ha, fun hk => ?_⟩⟩
  · refine publish_readWord h earlier later a w hw hp hq hl ?_
    obtain beyond | cell | apart := ha
    · exact changedWords_apart (.inl beyond)
    · exact changedWords_apart (.inr cell)
    · exact changedWords_all apart
  · obtain ⟨-, hw, ha⟩ := hk
    exact publish_self hw ha

end Sys2Proof.Machine
end

section
/-! Sitting 10: the resets (R204, R205). Power-on leaves the reset state; the RESET line and a soft reset leave what they name. -/

namespace Sys2Proof.Machine

/-! ### The end of a burst -/

/-- The end of a burst changes only exchange memory and the host port, of which queue and bursts asked for stay. -/
theorem endBurst_only (s : State) : endBurst s = { s with
    mem := (endBurst s).mem,
    disp := { s.disp with port := { s.disp.port with
      running := none, hostWait := none, hostData := (endBurst s).disp.port.hostData } } } := by
  unfold endBurst
  cases s.disp.port.hostWait with
  | none => rfl
  | some acc => cases acc <;> rfl

@[simp] theorem endBurst_slot (s : State) (i : Nat) : (endBurst s).slot i = s.slot i := by rw [endBurst_only]; rfl

/-! ### What an initialization burst writes -/

/-- What the initialization burst of a power-on writes, from memory all 0, is the memory of the reset state. -/
theorem partWrites_reset : Memory.partWrites [] State.reset.initWords = State.reset.mem := by decide +kernel

/-- What no reset changes shows in no word of an initialization burst. -/
theorem initWords_powerOn (pending : List Instr) (mem : Memory) (delivering : Bool) (port : Port) (n : Nat)
    (samples : List (Nat × Int)) (pins : BitVec 8) : State.initWords { State.reset with
      pending := pending, mem := mem, delivering := delivering, disp := { State.reset.disp with port := port },
      lane := { State.reset.lane with freeCount := n }, lines := { State.reset.lines with samples := samples },
      scanner := { State.reset.scanner with pins := pins } } = State.reset.initWords := rfl

/-! ### A hard reset -/

/-- A hard reset: every block in its power-on state but POR and what no reset changes (R205). -/
theorem resetBlocks_hard (s : State) : resetBlocks false s = { State.reset with
    pending := s.pending, mem := s.mem, delivering := s.delivering,
    disp := { State.reset.disp with por := s.disp.por, port := { State.reset.disp.port with hostData := s.disp.port.hostData } },
    lane := { State.reset.lane with freeCount := s.lane.freeCount },
    lines := { State.reset.lines with samples := s.lines.samples },
    scanner := { State.reset.scanner with pins := s.scanner.pins } } := rfl

/-- The part as power-on resets it, before the initialization burst writes: memory all 0 (R185, R205). -/
def poweredUp (s : State) : State := { State.reset with
  pending := s.pending, mem := [], delivering := s.delivering,
  disp := { State.reset.disp with port := { State.reset.disp.port with hostData := (endBurst s).disp.port.hostData } },
  lane := { State.reset.lane with freeCount := s.lane.freeCount },
  lines := { State.reset.lines with samples := s.lines.samples },
  scanner := { State.reset.scanner with pins := s.scanner.pins } }

theorem powerUp_eq (s : State) : powerUp s = initBurst (poweredUp s) := by
  unfold powerUp
  rw [resetBlocks_hard, endBurst_only]
  rfl

theorem poweredUp_initWords (s : State) : (poweredUp s).initWords = State.reset.initWords := initWords_powerOn ..

/-- Settles O10: the blocks are reset with memory all 0, and the initialization burst makes of it the reset state's. -/
theorem powerOnLeavesResetState : Obligations.PowerOnLeavesResetState := by
  intro s
  rw [exec_powerOn, powerUp_eq, initBurst, poweredUp_initWords, poweredUp, partWrites_reset]

/-! ### Exchange memory after a reset -/

section
variable {u : State} (h : u.mem.wf = true)

theorem mem_initWords_status {x : Nat × Word} (hx : x ∈ u.statusWords) : x ∈ u.initWords := by
  simp only [State.initWords, List.mem_append]
  exact .inl (.inl (.inl (.inl hx)))

theorem mem_initWords_cell {n : Nat} {w : Word} (hw : (u.tuner.cell.words ++ [0])[n]? = some w) :
    (0x100 + 2 * n, w) ∈ u.initWords := by
  simp only [State.initWords, List.mem_append]
  exact .inl (.inl (.inl (.inr (wordsAt_mem hw _))))

theorem mem_initWords_slot {i k : Nat} (hi : i < 32) (hk : k < 6) : (0x234 + 64 * i + 2 * k, 0) ∈ u.initWords := by
  have word0 : ([0, 0, 0, 0, 0, 0] : List Word)[k]? = some 0 := by interval_cases k <;> rfl
  have place : slotBase i + 0x34 + 2 * k = 0x234 + 64 * i + 2 * k := by unfold slotBase; omega
  simp only [State.initWords, List.mem_append, List.mem_flatMap]
  exact .inl (.inl (.inr ⟨i, List.mem_range.2 hi, place ▸ wordsAt_mem word0 _⟩))

theorem mem_initWords_page (one : Bool) {k : Nat} (hk : k < 16) :
    (pageBase one + 2 * k, if k = 0 then u.disp.pages.header one else 0) ∈ u.initWords := by
  simp only [State.initWords, List.mem_append]
  cases one
  · exact .inl (.inr (List.mem_map.2 ⟨k, List.mem_range.2 hk, rfl⟩))
  · exact .inr (List.mem_map.2 ⟨k, List.mem_range.2 hk, rfl⟩)

/-- An initialization burst writes below the cells of page 0 and in the header of page 1. -/
theorem initAddresses_bounds : ∀ a ∈ initAddresses, a + 1 < 0x0A20 ∨ (0x0E00 ≤ a ∧ a + 1 < 0x0E20) := by decide +kernel

include h

theorem initBurst_word {a : Nat} {w : Word} (hw : (a, w) ∈ u.initWords) : (initBurst u).mem.readWord a = w :=
  initBurst_readWord (x := (a, w)) h hw

/-- Both bytes of a word written as 0 are 0. -/
theorem initBurst_read_zero {a b : Nat} (ha : (a, 0) ∈ u.initWords) (hb : b = a ∨ b = a + 1) : (initBurst u).mem.read b = 0 := by
  have read : (initBurst u).mem.readWord a = 0 := initBurst_word h ha
  have sum := readWord_toNat (initBurst u).mem a
  rw [read, BitVec.ofNat_eq_ofNat, BitVec.toNat_zero] at sum
  obtain rfl | rfl := hb <;> exact BitVec.eq_of_toNat_eq (by rw [BitVec.ofNat_eq_ofNat, BitVec.toNat_zero]; omega)

/-- The cells of the report pages stay. -/
theorem initBurst_cells {a : Nat} (ha : (0x0A20 ≤ a ∧ a < 0x0E00) ∨ (0x0E20 ≤ a ∧ a < 0x1200)) :
    (initBurst u).mem.read a = u.mem.read a := by
  refine initBurst_read_other h fun x hx => ?_
  have := initAddresses_bounds x hx
  omega

/-- A page's header is followed by zeros up to its cells. -/
theorem initBurst_header_rest {a : Nat} (ha : (0x0A02 ≤ a ∧ a < 0x0A20) ∨ (0x0E02 ≤ a ∧ a < 0x0E20)) :
    (initBurst u).mem.read a = 0 := by
  have rest (one : Bool) (low : pageBase one + 2 ≤ a) (high : a < pageBase one + 0x20) : (initBurst u).mem.read a = 0 := by
    have w := mem_initWords_page (u := u) one (k := (a - pageBase one) / 2) (by omega)
    rw [if_neg (by omega)] at w
    exact initBurst_read_zero h w (by omega)
  obtain ⟨low, high⟩ | ⟨low, high⟩ := ha
  · exact rest false low high
  · exact rest true low high

end

theorem initBurst_statusWords (u : State) : (initBurst u).statusWords = u.statusWords := by
  rw [initBurst]
  exact statusWords_mem u _ u.writes

/-- What exchange memory holds right after a reset that leaves the state `t`, with `before` the memory that the reset found
(R185, R204, R205). -/
def ResetMemory (before : Memory) (t : State) : Prop :=
  (∀ a, partByte a = false → t.mem.read a = before.read a) ∧ (∀ x ∈ t.statusWords, t.mem.readWord x.1 = x.2) ∧
    (∀ n w, t.tuner.cell.words[n]? = some w → t.mem.readWord (0x100 + 2 * n) = w) ∧ t.mem.readWord 0x10E = 0 ∧
    (∀ i < 32, ∀ k < 6, t.mem.readWord (0x234 + 64 * i + 2 * k) = 0) ∧ t.mem.readWord 0x0A00 = bytePair 0 0 ∧
    t.mem.readWord 0x0E00 = bytePair 1 0 ∧
    (∀ a, (0x0A02 ≤ a ∧ a < 0x0A20) ∨ (0x0E02 ≤ a ∧ a < 0x0E20) → t.mem.read a = 0) ∧
    ∀ a, (0x0A20 ≤ a ∧ a < 0x0E00) ∨ (0x0E20 ≤ a ∧ a < 0x1200) → t.mem.read a = before.read a

theorem initBurst_memory {u : State} (h : u.mem.wf = true) (pages : u.disp.pages = ⟨false, 0, 0⟩) :
    ResetMemory u.mem (initBurst u) := by
  refine ⟨fun a ha => initBurst_host h ha, ?status, fun n w hw => ?cell,
    ?cellEnd, fun i hi k hk => initBurst_word h (mem_initWords_slot hi hk),
    ?page0, ?page1, fun a ha => initBurst_header_rest h ha, fun a ha => initBurst_cells h ha⟩
  case status =>
    rw [initBurst_statusWords]
    exact fun x hx => initBurst_readWord h (mem_initWords_status hx)
  case cell =>
    rw [initBurst_tuner] at hw
    have inCell := List.getElem?_append_left (l₂ := [(0 : Word)]) (List.getElem?_eq_some_iff.1 hw).1
    exact initBurst_word h (mem_initWords_cell (inCell.trans hw))
  case cellEnd =>
    have last : (u.tuner.cell.words ++ [0])[7]? = some 0 := rfl
    exact initBurst_word h (mem_initWords_cell last)
  case page0 =>
    have w := initBurst_word h (mem_initWords_page (u := u) false (k := 0) (by omega))
    rw [pages] at w
    exact w
  case page1 =>
    have w := initBurst_word h (mem_initWords_page (u := u) true (k := 0) (by omega))
    rw [pages] at w
    exact w

theorem resetPart_memory {s : State} (soft : Bool) (h : s.mem.wf = true) :
    ResetMemory (endBurst s).mem (resetPart soft s) :=
  initBurst_memory (u := resetBlocks soft (endBurst s)) (endBurst_wf h) rfl

/-- The reset state is the part as power-on leaves it. -/
theorem reset_eq : State.reset = initBurst (poweredUp State.reset) := by
  rw [initBurst, poweredUp_initWords, poweredUp, partWrites_reset]
  rfl

theorem reset_memory : ResetMemory [] State.reset := by
  rw [reset_eq]
  exact initBurst_memory rfl rfl

end Sys2Proof.Machine
end

section
/-! Sitting 10: the values of the reset state, and what the RESET line and a soft reset keep (R204, R205). -/

namespace Sys2Proof.Machine

/-! ### The reset state -/

/-- Settles O4: the form of the memory that power-on writes, and the map of a reset line memory. -/
theorem resetHasMemoryForm : Obligations.ResetHasMemoryForm := by
  refine ⟨?form, List.length_replicate, ?free⟩
  case form =>
    rw [reset_eq, ← powerUp_eq]
    exact powerUp_kept State.reset
  case free => decide +kernel

/-- Settles O11: the registers and the blocks by their reset values, and exchange memory by what the initialization burst of a
power-on writes into memory all 0. -/
theorem resetLeavesStatedValues : Obligations.ResetLeavesStatedValues := by
  obtain ⟨host, status, cell, cellEnd, slots, page0, page1, rest, cells⟩ := reset_memory
  refine ⟨by decide +kernel, ?blocks, host, status, cell, cellEnd, slots, page0, page1, fun a ha => ?pages⟩
  case blocks =>
    dsimp only
    and_intros <;> decide +kernel
  case pages =>
    by_cases header : a < 0x0A20 ∨ (0x0E00 ≤ a ∧ a < 0x0E20)
    · exact rest a (by omega)
    · exact cells a (by omega)

/-! ### What a soft reset makes of the units it keeps something of (R47, R130, R174, R183) -/

theorem softReset_impulse (l : LineMemory) (id : Nat) : l.softReset.impulse id =
    if (l.impulse id).state = .resident then l.impulse id else ⟨.empty, 0, 0⟩ := by
  simp only [LineMemory.impulse, LineMemory.softReset, List.getD_eq_getElem?_getD, List.getElem?_map]
  cases l.impulses[id]? with
  | none => rfl
  | some e => simp only [Option.map_some, Option.getD_some]; rfl

theorem softReset_map (l : LineMemory) : l.softReset.map = l.map.map fun h => match h with
    | .impulse id => if (l.impulse id).state = .resident then h else .free
    | _ => .free := by
  refine List.map_congr_left fun h _ => ?_
  cases h with
  | free => rfl
  | stage k ln p => rfl
  | impulse id =>
    by_cases kept : (l.impulse id).state = .resident <;> simp [kept]

/-- A line's configuration put anew, as a soft reset puts it: its own (R130). -/
theorem configure_self (pins : BitVec 8) (n : Nat) (x : Line) :
    let y := x.configure pins n x.config
    y.config = x.config ∧ y.state = (if x.config.mode = .off then .off else .standby) ∧ y.settle = none ∧ y.hold = none ∧
      y.rept = none ∧ y.run = 0 ∧
      y.level = if x.config.mode = .off then x.level else pins.getLsbD n == x.config.activeHigh := by
  unfold Line.configure
  by_cases off : x.config.mode = .off <;> simp [off, Line.stopTimers, lineSample]

theorem scannerSoftReset_getElem? (x : Scanner) (n : Nat) :
    x.softReset.lines[n]? = (x.lines[n]?).map fun y => y.configure x.pins n y.config := by
  simp only [Scanner.softReset, List.getElem?_map, List.getElem?_zipIdx, Option.map_map, Nat.zero_add]
  rfl

theorem scannerSoftReset_configs (x : Scanner) : x.softReset.lines.map Line.config = x.lines.map Line.config := by
  refine List.ext_getElem? fun n => ?_
  rw [List.getElem?_map, scannerSoftReset_getElem?, List.getElem?_map, Option.map_map]
  congr 1
  funext y
  exact (configure_self x.pins n y).1

theorem pedalSoftReset_eq (x : Pedal) : x.softReset =
    if x.config.enable = true then { x with state := .settling, discard := 4, high := 0, low := 0, used := false } else x := rfl

theorem pedalSoftReset_config (x : Pedal) : x.softReset.config = x.config := by
  rw [pedalSoftReset_eq]
  split <;> rfl

theorem resetWith_getElem? (l : List LampConfig) (n : Nat) :
    (LampDriver.resetWith l).lamps[n]? = (l[n]?).map fun c => ⟨c, false, .off, .level .off⟩ := List.getElem?_map

/-- The pulse beside an even lamp that is OFF (R180). -/
theorem pairedLoad_of_off (gap : Nat) : pairedLoad Level.off.halfCounts gap =
    if gap < 1024 then .paired (2 * gap) (4096 - 2 * gap) else .paired 0 0 := by
  simp only [pairedLoad, Level.halfCounts, Nat.zero_add, Nat.sub_zero]
  exact if_congr (by omega) rfl rfl

/-- The lamps of a soft reset: every level OFF, and the pulse of a COMPLEMENT lamp's partner made from it (R183). -/
theorem lampsSoftReset_getElem? {l : List Lamp} {n : Nat} {x : Lamp} (hx : l[n]? = some x) :
    let d := LampDriver.resetWith (l.map Lamp.config)
    ∃ y, d.loadAll.lamps[n]? = some ⟨x.config, false, .off, y⟩ ∧ (n % 2 = 0 → y = .level .off) ∧
      ∀ e, n % 2 = 1 → l[n - 1]? = some e → y =
        if e.config.complement = true then
          (if e.config.gap < 1024 then .paired (2 * e.config.gap) (4096 - 2 * e.config.gap) else .paired 0 0)
        else .level .off := by
  intro d
  have lamp {k : Nat} {z : Lamp} (hz : l[k]? = some z) : d.lamps[k]? = some ⟨z.config, false, .off, .level .off⟩ := by
    rw [resetWith_getElem?, List.getElem?_map, hz]
    rfl
  refine ⟨d.loadOf n, LampDriver.loadAll_getElem? (lamp hx), LampDriver.loadOf_even (lamp hx), fun e odd he => ?_⟩
  split
  · next paired => rw [LampDriver.loadOf_complement odd (lamp he) paired, pairedLoad_of_off]
  · next single => exact LampDriver.loadOf_single (lamp hx) (lamp he) (Bool.eq_false_iff.2 single)

/-! ### The part after a reset, field by field -/

section
variable (soft : Bool) (s : State)

theorem resetPart_disp : (resetPart soft s).disp = { Dispatcher.reset with
    por := s.disp.por, port := { Port.reset with hostData := (endBurst s).disp.port.hostData } } := by
  rw [resetPart, initBurst_disp, resetBlocks_disp, endBurst_only]

theorem resetPart_lane : (resetPart soft s).lane = { LaneEngine.reset with freeCount := s.lane.freeCount } := by
  rw [resetPart, initBurst_lane, endBurst_only]
  rfl

theorem resetPart_tempo : (resetPart soft s).tempo = TempoUnit.reset := by
  rw [resetPart, initBurst_tempo]
  rfl

theorem resetPart_frames : (resetPart soft s).frames = 0 := by
  rw [resetPart, initBurst_frames]
  rfl

theorem resetPart_resetHeld : (resetPart soft s).resetHeld = false := by
  rw [resetPart, initBurst_resetHeld]
  rfl

theorem resetPart_writes : (resetPart soft s).writes = [] := by rw [resetPart, initBurst_writes, resetBlocks_writes]

theorem softReset_lines : (resetPart true s).lines = s.lines.softReset := by
  rw [resetPart, initBurst_lines, endBurst_only]
  rfl

theorem softReset_scene : (resetPart true s).scene = s.scene.softReset := by
  rw [resetPart, initBurst_scene, endBurst_only]
  rfl

theorem softReset_tuner : (resetPart true s).tuner = Tuner.resetWith { s.tuner.settings with on := false } := by
  rw [resetPart, initBurst_tuner, endBurst_only]
  rfl

theorem softReset_scanner :
    (resetPart true s).scanner = { s.scanner.softReset with pairs := boundPairs s.bind.global } := by
  rw [resetPart, initBurst_scanner, endBurst_only]
  rfl

theorem softReset_pedals : (resetPart true s).pedals = s.pedals.map Pedal.softReset := by
  rw [resetPart, initBurst_pedals, endBurst_only]
  rfl

theorem softReset_bind : (resetPart true s).bind = s.bind.softReset := by
  rw [resetPart, initBurst_bind, endBurst_only]
  rfl

theorem softReset_link : (resetPart true s).link = s.link.softReset := by
  rw [resetPart, initBurst_link, endBurst_only]
  rfl

theorem softReset_lamps :
    (resetPart true s).lamps = (LampDriver.resetWith (s.lamps.lamps.map Lamp.config)).loadAll := by
  rw [resetPart, initBurst_lamps, endBurst_only]
  rfl

end

/-- The part after the release of the RESET line, before the initialization burst writes (R205). -/
theorem resetPart_hard (s : State) : resetPart false s = initBurst { State.reset with
    pending := s.pending, mem := (endBurst s).mem, delivering := s.delivering,
    disp := { State.reset.disp with
      por := s.disp.por, port := { State.reset.disp.port with hostData := (endBurst s).disp.port.hostData } },
    lane := { State.reset.lane with freeCount := s.lane.freeCount },
    lines := { State.reset.lines with samples := s.lines.samples },
    scanner := { State.reset.scanner with pins := s.scanner.pins } } := by
  rw [resetPart, resetBlocks_hard, endBurst_only]

theorem resetLine_fields (s : State) :
    let t := resetPart false s
    t.lines = { LineMemory.reset with samples := s.lines.samples } ∧ t.scene = SceneUnit.reset ∧
      t.tuner = Tuner.resetWith TunerSettings.reset ∧ t.scanner = { Scanner.reset with pins := s.scanner.pins } ∧
      t.pedals = [Pedal.reset, Pedal.reset] ∧ t.bind = BindingUnit.reset ∧ t.link = Link.reset ∧
      t.lamps = LampDriver.reset := by
  rw [resetPart_hard]
  exact ⟨initBurst_lines _, initBurst_scene _, initBurst_tuner _, initBurst_scanner _, initBurst_pedals _, initBurst_bind _,
    initBurst_link _, initBurst_lamps _⟩

/-- The lines after a soft reset: not OFF in STANDBY, nothing timed, the level a line's sample (R130). -/
theorem softReset_line {s : State} {x : Line} (h : x ∈ (resetPart true s).scanner.lines) :
    x.state = (if x.config.mode = .off then .off else .standby) ∧
      x.settle = none ∧ x.hold = none ∧ x.rept = none ∧ x.run = 0 := by
  rw [softReset_scanner] at h
  obtain ⟨n, hn⟩ := List.mem_iff_getElem?.1 h
  rw [scannerSoftReset_getElem?, Option.map_eq_some_iff] at hn
  obtain ⟨y, -, rfl⟩ := hn
  obtain ⟨config, state, settle, hold, rept, run, -⟩ := configure_self s.scanner.pins n y
  exact ⟨by rw [config]; exact state, settle, hold, rept, run⟩

theorem softReset_level {s : State} {n : Nat} {x : Line} (h : s.scanner.lines[n]? = some x) :
    ∃ y, (resetPart true s).scanner.lines[n]? = some y ∧
      y.level = if x.config.mode = .off then x.level else s.scanner.pins.getLsbD n == x.config.activeHigh := by
  rw [softReset_scanner]
  refine ⟨_, (scannerSoftReset_getElem? s.scanner n).trans (congrArg _ h), ?_⟩
  obtain ⟨-, -, -, -, -, -, level⟩ := configure_self s.scanner.pins n x
  exact level

theorem softReset_pedal {s : State} {x : Pedal} (h : x ∈ (resetPart true s).pedals) (on : x.config.enable = true) :
    x.state = .settling ∧ x.discard = 4 ∧ x.high = 0 ∧ x.low = 0 := by
  rw [softReset_pedals] at h
  obtain ⟨y, -, rfl⟩ := List.mem_map.1 h
  rw [pedalSoftReset_config] at on
  rw [pedalSoftReset_eq, if_pos on]
  exact ⟨rfl, rfl, rfl, rfl⟩

/-- Settles O12: each reset by the fields it leaves, and exchange memory by the writes of its initialization burst. -/
theorem resetsKeepWhatTheyName : Obligations.ResetsKeepWhatTheyName := by
  refine ⟨fun x => rfl, fun e p => ?pairs, fun s => ⟨_, exec_resetLine s, ?line⟩, fun s hs => ⟨_, exec_softReset hs, ?soft⟩⟩
  case pairs => rw [chordPair_eq_some]
  case line =>
    obtain ⟨lines, scene, tuner, scanner, pedals, bind, link, lamps⟩ := resetLine_fields s
    exact ⟨resetPart_disp .., resetPart_lane .., lines, scene, resetPart_tempo .., tuner, scanner, pedals, bind, link, lamps,
      resetPart_frames .., resetPart_resetHeld .., resetPart_pending .., resetPart_writes .., resetPart_memory false⟩
  case soft =>
    refine ⟨resetPart_disp .., resetPart_lane .., resetPart_tempo .., softReset_scene s, ?impulses, ?map, ?users, ?zeroQueue,
      ?answers, ?samples, softReset_tuner s, ?configs, ?window, ?pins, ?waiting, ?chord, fun x hx => softReset_line hx,
      fun n x hx => softReset_level hx, ?bound, softReset_pedals s, ?pedalConfigs, fun x hx on => softReset_pedal hx on,
      softReset_bind s, softReset_link s, ?lampWindow, ?windowOpen, ?pending, ?period, fun n x hx => ?lamp,
      resetPart_frames .., resetPart_pending .., resetPart_memory true⟩
    case impulses =>
      intro id _
      rw [softReset_lines, softReset_impulse]
    case map =>
      rw [softReset_lines]
      exact softReset_map s.lines
    case users | zeroQueue | answers | samples =>
      rw [softReset_lines]
      rfl
    case configs =>
      rw [softReset_scanner]
      exact scannerSoftReset_configs _
    case window | pins | waiting | chord =>
      rw [softReset_scanner]
      rfl
    case bound =>
      rw [softReset_scanner]
      exact fun p => List.mem_dedup
    case pedalConfigs =>
      rw [softReset_pedals, List.map_map]
      exact List.map_congr_left fun x _ => pedalSoftReset_config x
    case lampWindow | windowOpen | pending | period =>
      rw [softReset_lamps]
      rfl
    case lamp =>
      rw [softReset_lamps]
      exact lampsSoftReset_getElem? hx

end Sys2Proof.Machine
end

section
/-! Sitting 10: the registers, attention and the IRQ line, and misuse (R188, R193, R199, R200). -/

namespace Sys2Proof.Machine

/-! ### The host's commands that end no burst, each as the effect it is run with -/

section
variable {s : State} (hs : s.resetHeld = false)
include hs

theorem exec_porClear (v : Word) : exec (.porClear v) s = .next (publish s (clearPor v s)) := plain_of_free _ hs
theorem exec_attnWrite (v : Word) : exec (.attnWrite v) s = .next (publish s (writeAttn v s)) := plain_of_free _ hs
theorem exec_attnenWrite (v : Word) : exec (.attnenWrite v) s = .next (publish s (writeAttnen v s)) := plain_of_free _ hs
theorem exec_post (slot : BitVec 8) : exec (.post slot) s = .next (publish s (postSlot slot s)) := plain_of_free _ hs
theorem exec_cancel (slot : BitVec 8) : exec (.cancel slot) s = .next (publish s (cancelSlot slot s)) := plain_of_free _ hs
theorem exec_reclaim (slot : BitVec 8) : exec (.reclaim slot) s = .next (publish s (reclaimSlot slot s)) :=
  plain_of_free _ hs
theorem exec_take (slot : BitVec 8) : exec (.take slot) s = .next (publish s (takePage s)) := plain_of_free _ hs
theorem exec_badOperation (op : BitVec 4) (slot : BitVec 8) : exec (.badOperation op slot) s =
    .next (publish s (if badOperationCode op then misuse .badOperation slot s else s)) := plain_of_free _ hs

end

/-! ### Register fields (R188) -/

theorem attnBits : ∀ a b c d e f : Bool, let v := BitVec.ofNat 6 (natOfBool a + 2 * natOfBool b + 4 * natOfBool c +
      8 * natOfBool d + 16 * natOfBool e + 32 * natOfBool f)
    v.getLsbD 0 = a ∧ v.getLsbD 1 = b ∧ v.getLsbD 2 = c ∧ v.getLsbD 3 = d ∧ v.getLsbD 4 = e ∧ v.getLsbD 5 = f := by
  decide

/-- The six attention flags by their bits. -/
theorem attn_bits (s : State) : s.attn.getLsbD 0 = s.reportsFlag ∧ s.attn.getLsbD 1 = s.disp.attention.tuner ∧
    s.attn.getLsbD 2 = s.disp.attention.lost ∧ s.attn.getLsbD 3 = s.disp.attention.abnormal ∧
    s.attn.getLsbD 4 = s.disp.attention.link ∧ s.attn.getLsbD 5 = s.disp.attention.mode := attnBits ..

@[simp] theorem publish_attn (s u : State) : (publish s u).attn = u.attn := rfl

theorem modeWord_bits : ∀ a b c : Bool, let v := word (natOfBool a + 2 * natOfBool b + 4 * natOfBool c)
    v.getLsbD 0 = a ∧ v.getLsbD 1 = b ∧ v.getLsbD 2 = c ∧ v.toNat < 2 ^ 3 := by decide

/-- Above bit 2 a word below 8 reads 0. -/
theorem getLsbD_of_lt {v : Word} (h : v.toNat < 2 ^ 3) {i : Nat} (hi : 3 ≤ i) : v.getLsbD i = false :=
  Nat.testBit_lt_two_pow (h.trans_le (Nat.pow_le_pow_right (by decide) hi))

theorem readReg_of_free {s : State} (hs : s.resetHeld = false) :
    s.readReg .id = word (0x6010 + natOfBool s.disp.por) ∧ s.readReg .slotcmd = 0 ∧ s.readReg .attn = s.attn.setWidth 16 ∧
      s.readReg .attnen = s.disp.attnEnable.setWidth 16 ∧ s.readReg .mode = word s.modeBits := by
  simp only [State.readReg, hs, Bool.false_eq_true, if_false, and_self]

/-- The operation field of a SLOTCMD write. -/
theorem operation_eq (v : Word) : v.extractLsb' 12 4 = BitVec.ofNat 4 (v.toNat / 4096) := by
  rw [BitVec.extractLsb', Nat.shiftRight_eq_div_pow]

/-- The request field of a MODE write. -/
theorem request_eq (v : Word) : v.extractLsb' 0 2 = BitVec.ofNat 2 (v.toNat % 4) := by
  apply BitVec.eq_of_toNat_eq
  simp [BitVec.extractLsb']

theorem registerCommand_slotcmd (v : Word) : registerCommand .slotcmd v =
    let op := v.extractLsb' 12 4
    let slot := v.setWidth 8
    some (if op = 1 then .post slot else if op = 2 then .cancel slot else if op = 3 then .reclaim slot
      else if op = 4 then .take slot else .badOperation op slot) := by
  have bound : v.toNat / 4096 < 16 := by omega
  rw [operation_eq]
  unfold registerCommand
  generalize v.toNat / 4096 = n at *
  interval_cases n <;> rfl

theorem registerCommand_mode (v : Word) : registerCommand .mode v =
    if v.extractLsb' 0 2 = 1 then some .setupRequest else if v.extractLsb' 0 2 = 2 then some .runRequest
    else if v.extractLsb' 0 2 = 3 then some .softReset else none := by
  have bound : v.toNat % 4 < 4 := Nat.mod_lt _ (by decide)
  rw [request_eq]
  unfold registerCommand
  generalize v.toNat % 4 = n at *
  interval_cases n <;> rfl

/-- A write of ATTN leaves REPORTS, and every other flag whose bit is not 1. -/
theorem writeAttn_attn (v : Word) (s : State) {i : Nat} (hi : i < 6) :
    (writeAttn v s).attn.getLsbD i = (s.attn.getLsbD i && (i == 0 || !v.getLsbD i)) := by
  obtain ⟨a0, a1, a2, a3, a4, a5⟩ := attn_bits s
  obtain ⟨b0, b1, b2, b3, b4, b5⟩ := attn_bits (writeAttn v s)
  interval_cases i
  · rw [b0, a0, beq_self_eq_true, Bool.true_or, Bool.and_true]
    rfl
  · rw [b1, a1]; rfl
  · rw [b2, a2]; rfl
  · rw [b3, a3]; rfl
  · rw [b4, a4]; rfl
  · rw [b5, a5]; rfl

/-- Settles O15: the registers' fields by their bits, and a write of ATTN by the flags it clears. -/
theorem registersReadAndAttnClears : Obligations.RegistersReadAndAttnClears := by
  refine ⟨fun s hs => ?fields, fun s v hs => ⟨_, exec_attnWrite hs v, fun i hi => writeAttn_attn v s hi, ?reports, rfl, rfl, rfl⟩⟩
  case reports => rw [(attn_bits s).1, State.reportsFlag, decide_eq_true_eq]
  case fields =>
    obtain ⟨id, slotcmd, attn, attnen, mode⟩ := readReg_of_free hs
    obtain ⟨run, ack, pending, small⟩ := modeWord_bits (s.disp.mode == .run) s.disp.setupAck s.disp.setupPending
    refine ⟨?id, slotcmd, attn, attnen, mode ▸ run, mode ▸ ack, mode ▸ pending, fun i hi => mode ▸ getLsbD_of_lt small hi,
      fun v => ⟨exec_porClear hs v, attn_bits s, rfl, rfl, rfl, registerCommand_slotcmd v, registerCommand_mode v⟩⟩
    case id =>
      rw [id]
      cases s.disp.por <;> rfl

/-! ### The IRQ line (R200) -/

theorem irq_iff (s : State) :
    s.irq = true ↔ ∃ i, i < 6 ∧ s.attn.getLsbD i = true ∧ s.disp.attnEnable.getLsbD i = true := by
  have nonzero (x : BitVec 6) : x ≠ 0 ↔ ∃ i, i < 6 ∧ x.getLsbD i = true := by
    refine ⟨fun h => ?_, fun ⟨i, _, hx⟩ h => by simp [h] at hx⟩
    by_contra none
    push Not at none
    exact h (BitVec.eq_of_getLsbD_eq fun i hi => by simpa using none i hi)
  simp only [State.irq, bne_iff_ne, nonzero, BitVec.getLsbD_and, Bool.and_eq_true]

theorem irq_of_no_enable {s : State} (h : s.disp.attnEnable = 0) : s.irq = false := by simp [State.irq, h]

theorem reset_attnEnable {s t : State} (h : exec .powerOn s = .next t ∨ exec .resetLine s = .next t ∨
    (s.resetHeld = false ∧ exec .softReset s = .next t)) : t.disp.attnEnable = 0 := by
  obtain h | h | ⟨hs, h⟩ := h
  · rw [exec_powerOn, powerUp_eq] at h
    rw [← Host.Outcome.next.inj h, initBurst_disp]
    rfl
  · rw [exec_resetLine] at h
    rw [← Host.Outcome.next.inj h, resetPart_disp]
    rfl
  · rw [exec_softReset hs] at h
    rw [← Host.Outcome.next.inj h, resetPart_disp]
    rfl

/-- Settles O16: the line by the enabled flags, the enables by the write that gives them, and both by each reset. -/
theorem irqFollowsEnabledFlags : Obligations.IrqFollowsEnabledFlags := by
  refine ⟨irq_iff, fun s v hs => ⟨_, exec_attnenWrite hs v, rfl, rfl, fun i hi flag enable => ?high⟩,
    fun s t h => ⟨reset_attnEnable h, irq_of_no_enable (reset_attnEnable h)⟩, fun s e hs => ?registers⟩
  case high =>
    refine (irq_iff _).2 ⟨i, hi, flag, ?_⟩
    show (v.setWidth 6).getLsbD i = true
    rw [BitVec.getLsbD_setWidth, enable, decide_eq_true hi, Bool.and_self]
  case registers =>
    obtain ⟨-, -, attn, attnen, -⟩ := readReg_of_free (s := { s with disp := { s.disp with attnEnable := e } }) hs
    exact ⟨rfl, attn, attnen⟩

/-! ### Misuse (R193) -/

theorem misuse_eq (cause : MisuseCause) (slot : BitVec 8) (s : State) : misuse cause slot s = afterMisuse cause slot s := by
  unfold misuse afterMisuse raiseAbnormal
  cases s.disp.misuse <;> rfl

section
variable {s : State} {slot : BitVec 8}

theorem postSlot_busy (hi : slot.toNat ≤ 31) (h : (s.slot slot.toNat).state ≠ .free) :
    postSlot slot s = afterMisuse .postBusy slot s := by
  rw [← misuse_eq, postSlot, if_neg (by omega), if_pos h]

theorem cancelSlot_free (hi : slot.toNat ≤ 31) (h : (s.slot slot.toNat).state = .free) :
    cancelSlot slot s = afterMisuse .cancelFree slot s := by
  rw [← misuse_eq, cancelSlot, if_neg (by omega)]
  simp only [h]

theorem reclaimSlot_early (hi : slot.toNat ≤ 31) (h : (s.slot slot.toNat).state ≠ .done) :
    reclaimSlot slot s = afterMisuse .reclaimEarly slot s := by
  rw [← misuse_eq, reclaimSlot, if_neg (by omega), if_neg h]

theorem slotRange_misuse (hi : 31 < slot.toNat) : postSlot slot s = afterMisuse .slotRange slot s ∧
    cancelSlot slot s = afterMisuse .slotRange slot s ∧ reclaimSlot slot s = afterMisuse .slotRange slot s := by
  rw [← misuse_eq]
  exact ⟨if_pos hi, if_pos hi, if_pos hi⟩

end

/-- The operation codes that R192 does not name. -/
theorem badOperationCode_of_ne : ∀ op : BitVec 4, op ≠ 1 → op ≠ 2 → op ≠ 3 → op ≠ 4 → badOperationCode op = true := by
  decide

theorem exec_badOperation_of_ne {s : State} (hs : s.resetHeld = false) (slot : BitVec 8) {op : BitVec 4} (h1 : op ≠ 1)
    (h2 : op ≠ 2) (h3 : op ≠ 3) (h4 : op ≠ 4) :
    exec (.badOperation op slot) s = .next (publish s (afterMisuse .badOperation slot s)) := by
  rw [exec_badOperation hs, if_pos (badOperationCode_of_ne op h1 h2 h3 h4), misuse_eq]

/-- Settles O17: each command that is a misuse by the check that finds it so, and the record by the write that clears it. -/
theorem misuseIsRecorded : Obligations.MisuseIsRecorded := by
  intro s slot hs
  refine ⟨fun hi h => ?post, fun hi h => ?cancel, fun hi h => ?reclaim, fun hi => ?range,
    fun op h1 h2 h3 h4 => exec_badOperation_of_ne hs slot h1 h2 h3 h4, fun v hv => ⟨_, exec_attnWrite hs v, ?flag, if_pos hv⟩⟩
  case post => rw [exec_post hs, postSlot_busy hi h]
  case cancel => rw [exec_cancel hs, cancelSlot_free hi h]
  case reclaim => rw [exec_reclaim hs, reclaimSlot_early hi h]
  case range =>
    obtain ⟨post, cancel, reclaim⟩ := slotRange_misuse (s := s) hi
    rw [exec_post hs, exec_cancel hs, exec_reclaim hs, post, cancel, reclaim]
    exact ⟨rfl, rfl, rfl⟩
  case flag =>
    show (s.disp.attention.abnormal && !v.getLsbD 3) = false
    rw [hv, Bool.not_true, Bool.and_false]

end Sys2Proof.Machine
end

section
/-! Sitting 10: the host port (R184, R186, R187): host accesses, WAIT, the start and the end of a burst, and the bursts asked for
in one event. -/

namespace Sys2Proof.Machine

/-! ### A host access -/

/-- A word written is the word then read, its low byte first, and no other byte changes (R184). -/
theorem Memory.writeWord_spec {m : Memory} (h : m.wf = true) {a : Nat} (ha : a + 1 < 0x10000) (w : Word) :
    (m.writeWord a w).readWord a = w ∧ (m.writeWord a w).read a = w.setWidth 8 ∧
      ∀ b, b ≠ a → b ≠ a + 1 → (m.writeWord a w).read b = m.read b := by
  refine ⟨Memory.readWord_writeWord h ha w, ?_, fun b => Memory.read_writeWord_other h a w⟩
  rw [Memory.writeWord, Memory.read_write (Memory.write_wf _ _ h) ha, if_neg (by omega), Memory.read_write h (by omega),
    if_pos rfl]
  rfl

section
variable {s : State}

/-- The end of an event that changes only memory and the port, and asks for no burst, leaves its outcome as it is. -/
theorem publish_port (hk : s.Kept) (m : Memory) {p : Port} (hp : p.asked = []) :
    publish s { s with mem := m, disp := { s.disp with port := p } } =
      { s with mem := m, disp := { s.disp with port := p } } := by
  obtain ⟨-, writes, -⟩ := hk
  refine publish_of_unshown ?_ writes hp
  exact (statusWords_mem { s with disp := { s.disp with port := p } } m s.writes).trans (statusWords_port s p)

theorem exec_hostMemoryAccess (hs : s.resetHeld = false) (acc : HostAccess) :
    exec (.hostMemoryAccess acc) s = .next (publish s (hostMemory acc s)) := plain_of_free _ hs

theorem exec_hostMemoryAccess_free (hk : s.Kept) (hs : s.resetHeld = false) (hr : s.disp.port.running = none)
    (acc : HostAccess) : exec (.hostMemoryAccess acc) s = .next (hostAccess acc s) := by
  have carried : hostMemory acc s = hostAccess acc s := if_pos (by rw [hr]; rfl)
  rw [exec_hostMemoryAccess hs, carried]
  obtain ⟨-, -, asked⟩ := id hk
  cases acc with
  | read a => exact congrArg _ (publish_port hk s.mem (p := { s.disp.port with hostData := _ }) asked)
  | write a w => exact congrArg _ (publish_port hk (s.mem.writeWord _ _) asked)

theorem exec_hostMemoryAccess_held (hk : s.Kept) (hs : s.resetHeld = false) (hr : s.disp.port.running ≠ none)
    (hw : s.disp.port.hostWait = none) (acc : HostAccess) : exec (.hostMemoryAccess acc) s = .next
      { s with disp := { s.disp with port := { s.disp.port with hostWait := some acc } } } := by
  have waits : hostMemory acc s = { s with disp := { s.disp with port := { s.disp.port with hostWait := some acc } } } := by
    rw [hostMemory, if_neg (by simpa using hr), if_pos (by rw [hw]; rfl)]
    rfl
  obtain ⟨-, -, asked⟩ := id hk
  rw [exec_hostMemoryAccess hs, waits]
  exact congrArg _ (publish_port hk s.mem (p := { s.disp.port with hostWait := _ }) asked)

theorem exec_hostMemoryAccess_second (hk : s.Kept) (hs : s.resetHeld = false) (hr : s.disp.port.running ≠ none)
    (hw : s.disp.port.hostWait ≠ none) (acc : HostAccess) : exec (.hostMemoryAccess acc) s = .next s := by
  have leaves : hostMemory acc s = s := by
    rw [hostMemory, if_neg (by simpa using hr), if_neg (by simpa using hw)]
  obtain ⟨-, writes, asked⟩ := hk
  rw [exec_hostMemoryAccess hs, leaves, publish_self writes asked]

/-! ### The start of a burst -/

theorem exec_burstStart (hs : s.resetHeld = false) : exec .burstStart s = .next (publish s (startBurst s)) :=
  plain_of_free _ hs

theorem startOldest_of_empty (h : s.disp.port.queue = []) : startOldest s = s := by unfold startOldest; rw [h]

theorem startOldest_of_waiting {b : Burst} {rest : List Burst} (h : s.disp.port.queue = b :: rest) : startOldest s =
    { s with disp := { s.disp with port := { s.disp.port with running := some b, queue := rest } } } := by
  unfold startOldest; rw [h]; rfl

/-- The start of a burst changes only memory and the port, and asks for no burst. -/
theorem publish_startOldest {u : State} (hk : s.Kept) (hu : u = { s with mem := u.mem, disp := { s.disp with port := u.disp.port } })
    (ha : u.disp.port.asked = []) : publish s (startOldest u) = startOldest u := by
  cases hq : u.disp.port.queue with
  | nil =>
    rw [startOldest_of_empty hq, hu]
    exact publish_port hk _ ha
  | cons b rest =>
    rw [startOldest_of_waiting hq, hu]
    exact publish_port hk _ (p := { u.disp.port with running := some b, queue := rest }) ha

theorem exec_burstStart_free (hk : s.Kept) (hs : s.resetHeld = false) (hr : s.disp.port.running = none) :
    exec .burstStart s = .next (startOldest s) := by
  have starts : startBurst s = startOldest s := by unfold startBurst; rw [hr]
  obtain ⟨-, -, asked⟩ := id hk
  rw [exec_burstStart hs, starts, publish_startOldest hk rfl asked]

theorem exec_burstStart_initialization (hk : s.Kept) (hs : s.resetHeld = false)
    (hr : s.disp.port.running = some .initialization) : exec .burstStart s = .next (startOldest (endBurst s)) := by
  have starts : startBurst s = startOldest (endBurst s) := by unfold startBurst; rw [hr]
  obtain ⟨-, -, asked⟩ := id hk
  rw [exec_burstStart hs, starts, publish_startOldest hk]
  · rw [endBurst_only]
  · rw [endBurst_only]
    exact asked

theorem exec_burstStart_copy (hk : s.Kept) (hs : s.resetHeld = false) {b : Burst} (hr : s.disp.port.running = some b)
    (hb : b ≠ .initialization) : exec .burstStart s = .next s := by
  have leaves : startBurst s = s := by
    unfold startBurst; rw [hr]
    cases b
    case initialization => exact absurd rfl hb
    all_goals rfl
  obtain ⟨-, writes, asked⟩ := hk
  rw [exec_burstStart hs, leaves, publish_self writes asked]

end

/-! ### The bursts asked for in one event -/

/-- Two bursts are of one kind when they are captures for one slot, or when both are copies of another rank. -/
theorem sameKind_iff (b c : Burst) : b.sameKind c = true ↔
    (∃ i m n, b = .orderCapture i m ∧ c = .orderCapture i n) ∨ (1 < b.rank ∧ b.rank = c.rank) := by
  cases b
  case orderCapture i m =>
    cases c
    case orderCapture j n => simp [Burst.sameKind, Burst.rank, eq_comm (a := j)]
    all_goals simp [Burst.sameKind, Burst.rank]
  all_goals cases c <;> simp [Burst.sameKind, Burst.rank]

/-- The bursts stand in the fixed order of their kinds. -/
def InOrder (l : List Burst) : Prop := l.Pairwise fun x y => x.rank ≤ y.rank

/-- The other bursts, those of another kind than `b`. -/
def Burst.others (b : Burst) (l : List Burst) : List Burst := l.filter fun x => !b.sameKind x

section
variable {b : Burst} {s : State}

theorem askBurst_of_queued (h : b ∈ s.disp.port.queue) : askBurst b s = s := by
  unfold askBurst
  exact if_pos (List.contains_iff_mem.2 h)

theorem askBurst_of_new (h : b ∉ s.disp.port.queue) :
    let l := b.others s.disp.port.asked
    askBurst b s = { s with disp := { s.disp with port := { s.disp.port with
      queue := b.others s.disp.port.queue,
      asked := l.filter (fun x => decide (x.rank ≤ b.rank)) ++ b :: l.filter fun x => decide (b.rank < x.rank) } } } := by
  unfold askBurst
  exact if_neg fun hc => h (List.contains_iff_mem.1 hc)

/-- A list in order is its part up to a rank and then its part above it. -/
theorem InOrder.split {l : List Burst} (h : InOrder l) (n : Nat) :
    l = l.filter (fun x => decide (x.rank ≤ n)) ++ l.filter fun x => decide (n < x.rank) := by
  induction l with
  | nil => rfl
  | cons x l ih =>
    obtain ⟨below, rest⟩ := List.pairwise_cons.1 h
    by_cases hx : x.rank ≤ n
    · rw [List.filter_cons_of_pos (by simpa using hx), List.filter_cons_of_neg (by simpa using hx), List.cons_append,
        ← ih rest]
    · have above : ∀ y ∈ x :: l, n < y.rank := fun y hy => by
        obtain rfl | hy := List.mem_cons.1 hy
        · omega
        · have := below y hy; omega
      rw [List.filter_eq_nil_iff.2 fun y hy => by simpa using above y hy, List.nil_append,
        List.filter_eq_self.2 fun y hy => by simpa using above y hy]

/-- A burst asked for keeps the fixed order. -/
theorem askBurst_inOrder (h : InOrder s.disp.port.asked) : InOrder (askBurst b s).disp.port.asked := by
  by_cases hb : b ∈ s.disp.port.queue
  · rw [askBurst_of_queued hb]
    exact h
  · have others : InOrder (b.others s.disp.port.asked) := h.filter _
    rw [askBurst_of_new hb]
    refine List.pairwise_append.2 ⟨others.filter _, List.pairwise_cons.2 ⟨fun y hy => ?_, others.filter _⟩, fun x hx y hy => ?_⟩
    · have := (List.mem_filter.1 hy).2
      simp only [decide_eq_true_eq] at this
      omega
    · have hx := (List.mem_filter.1 hx).2
      simp only [decide_eq_true_eq] at hx
      obtain rfl | hy := List.mem_cons.1 hy
      · exact hx
      · have := (List.mem_filter.1 hy).2
        simp only [decide_eq_true_eq] at this
        omega

end

/-- Settles O14: a host access by whether a burst runs, a start by the burst that runs, and a burst asked for by whether it waits
already. -/
theorem portServesHostAndBursts : Obligations.PortServesHostAndBursts := by
  refine ⟨fun s => ?wait, fun m a w h ha => ?word, fun s a hk hs hr => ⟨fun w => ?write, ?read⟩,
    fun s hk hs => ⟨fun hr => ?free, fun hr => ?init, fun b hr hb => exec_burstStart_copy hk hs hr hb⟩,
    fun s acc hk hs hr => ⟨fun hw => ⟨_, exec_hostMemoryAccess_held hk hs hr hw acc, rfl, rfl⟩,
      fun hw => exec_hostMemoryAccess_second hk hs hr hw acc⟩,
    fun s => ⟨endBurst_of_none, fun a w hw => ?endWrite, fun a hw => ?endRead⟩,
    fun b s => ⟨askBurst_of_queued, fun hb => ⟨?new, fun ho => ?place⟩, askBurst_inOrder⟩,
    sameKind_iff, fun i n => ⟨rfl, rfl, rfl, rfl, rfl, rfl⟩, fun p => ⟨fun b rest hr hq ha => ?starts, fun h => ?queues⟩⟩
  case wait => rw [State.waitLine, Option.isSome_iff_ne_none]
  case word =>
    obtain ⟨read, -, other⟩ := Memory.writeWord_spec h ha w
    exact ⟨read, other⟩
  case write =>
    exact ⟨_, exec_hostMemoryAccess_free hk hs hr (.write a w), Memory.writeWord_spec hk.1 (by omega) w⟩
  case read => exact exec_hostMemoryAccess_free hk hs hr (.read a)
  case free =>
    rw [exec_burstStart_free hk hs hr, startOldest]
    rfl
  case init =>
    rw [exec_burstStart_initialization hk hs hr, startOldest]
    rfl
  case endWrite => rw [endBurst, hw]; rfl
  case endRead => rw [endBurst, hw]; rfl
  case new => rw [askBurst_of_new hb]; rfl
  case place =>
    have order : InOrder (b.others s.disp.port.asked) := List.Pairwise.filter _ ho
    rw [askBurst_of_new hb]
    exact ⟨_, _, order.split b.rank, rfl⟩
  case starts => rw [Port.queueAsked, hr, hq, ha]
  case queues =>
    unfold Port.queueAsked
    split
    · next hr hq ha => simp [hr, hq, ha] at h
    · rfl

end Sys2Proof.Machine
end

section
/-! Sitting 10: the report pages (R196, R197, R211). -/

namespace Sys2Proof.Machine

theorem wordsAt_eq (l : List Word) : ∀ a, wordsAt a l = l.zipIdx.map fun x => (a + 2 * x.2, x.1) := by
  induction l with
  | nil => exact fun a => rfl
  | cons w l ih =>
    intro a
    rw [wordsAt, ih, List.zipIdx_cons, List.zipIdx_succ, List.map_cons, List.map_map]
    refine congrArg _ (List.map_congr_left fun x _ => ?_)
    simp only [Function.comp_apply, Prod.mk.injEq, and_true]
    omega

theorem Report.words_length (r : Report) : r.words.length = 16 := by
  simp [Report.words]

theorem Pages.header_eq (p : Pages) (one : Bool) : p.header one =
    bytePair (if one = p.fillingOne then 0 else 1) (if one = true then p.count1 else p.count0) := by
  unfold Pages.header
  cases one <;> cases p.fillingOne <;> rfl

theorem Pages.bump_counts (p : Pages) : p.bump.fillingCount = p.fillingCount + 1 ∧ p.bump.fillingOne = p.fillingOne := by
  unfold Pages.bump Pages.fillingCount
  cases p.fillingOne <;> simp

section
variable (r : Report) {s : State}

theorem appendReport_of_room (h : s.disp.pages.fillingCount ≤ 30) : appendReport r s =
    let p := s.disp.pages
    { s with
      disp := { s.disp with pages := p.bump },
      writes := s.writes ++ wordsAt (pageBase p.fillingOne + 0x20 + 32 * p.fillingCount) r.words ++
        [(pageBase p.fillingOne, p.bump.header p.fillingOne)] } := if_pos h

theorem appendReport_of_full (h : 30 < s.disp.pages.fillingCount) : appendReport r s =
    { s with disp := { s.disp with
      attention := { s.disp.attention with lost := true }, dropped := min 255 (s.disp.dropped + 1) } } := if_neg (by omega)

end

/-- The pages exchanged (R197): the other page is FILLING and empty, the frozen one keeps its count. -/
theorem Pages.exchange_spec (p : Pages) : p.exchange.fillingOne = !p.fillingOne ∧ p.exchange.fillingCount = 0 ∧
    if p.fillingOne then p.exchange.count1 = p.count1 else p.exchange.count0 = p.count0 := by
  unfold Pages.exchange Pages.fillingCount
  cases p.fillingOne <;> simp

theorem takePage_writes (s : State) : (takePage s).writes =
    s.writes ++ [(0x0A00, s.disp.pages.exchange.header false), (0x0E00, s.disp.pages.exchange.header true)] := rfl

/-- What a TAKE leaves in exchange memory: both headers, and every cell as it was (R197). -/
theorem takePage_memory {s : State} (h : s.mem.wf = true) :
    (publish s (takePage s)).mem.readWord 0x0A00 = s.disp.pages.exchange.header false ∧
      (publish s (takePage s)).mem.readWord 0x0E00 = s.disp.pages.exchange.header true ∧
      (s.writes = [] → ∀ b, (0x0A20 ≤ b ∧ b < 0x0E00) ∨ 0x0E20 ≤ b →
        (publish s (takePage s)).mem.read b = s.mem.read b) := by
  have hm : (takePage s).mem.wf = true := h
  have beyond (a : Nat) (ha : 0x200 ≤ a) : ∀ x ∈ changedWords s (takePage s), a + 1 < x.1 ∨ x.1 + 1 < a :=
    changedWords_apart (.inl ha)
  refine ⟨?page0, ?page1, fun hw b hb => ?cells⟩
  case page0 =>
    exact publish_readWord hm s.writes _ _ _ (takePage_writes s) (by decide) (by decide) (by simp) (beyond _ (by decide))
  case page1 =>
    have last := (takePage_writes s).trans (List.append_cons s.writes (0x0A00, s.disp.pages.exchange.header false) _)
    exact publish_readWord hm _ [] _ _ last (by decide) (by decide) (by simp) (beyond _ (by decide))
  case cells =>
    refine publish_read_other hm (fun x hx => ?_) fun x hx => ?_
    · rw [takePage_writes, hw, List.nil_append, List.mem_pair] at hx
      obtain rfl | rfl := hx <;> constructor <;> dsimp only <;> omega
    · have := beyond b (by omega) x hx
      omega

/-- Settles O24: a report by whether the FILLING page has room, and a TAKE by the pages it exchanges. -/
theorem reportPagesFillAndExchange : Obligations.ReportPagesFillAndExchange := by
  refine ⟨fun a l => wordsAt_eq l a, fun r => rfl, ⟨rfl, rfl, fun p => ⟨rfl, rfl, p.header_eq⟩⟩,
    fun r s => ⟨fun h => ?room, fun h => appendReport_of_full r h, appendReport_only r s⟩, fun s slot hs => ?take⟩
  case room =>
    obtain ⟨count, page⟩ := s.disp.pages.bump_counts
    rw [appendReport_of_room r h]
    exact ⟨rfl, count, page, rfl, r.words_length⟩
  case take =>
    obtain ⟨page, count, frozen⟩ := s.disp.pages.exchange_spec
    have reports : (publish s (takePage s)).attn.getLsbD 0 = false := by
      rw [(attn_bits _).1]
      exact decide_eq_false (by show ¬ 0 < s.disp.pages.exchange.fillingCount; omega)
    exact ⟨_, exec_take hs slot, page, count, frozen, reports, fun h => takePage_memory h, rfl⟩

end Sys2Proof.Machine
end

section
/-! Sitting 10: order slots (R189-R195): the slot word and its codes, completions, and the choice of the next order. -/

namespace Sys2Proof.Machine

/-! ### Completions (R195) -/

section
variable {s : State} {i : Nat}

/-- A slot with its result, as R195 has it written. -/
theorem Slot.finish_eq (x : Slot) (code : ResultCode) (flags : ResultFlags) (words : List Word) :
    x.finish code flags words = { x with
      state := .done, code := code, words := (words ++ [0, 0, 0, 0]).take 4,
      flags := { flags with cancelTooLate :=
        flags.cancelTooLate || (x.cancelMark && code != .cancelled && code != .superseded) } } := rfl

/-- A completion of a WAITING or RUNNING order: result words, slot word with the old state, slot word with DONE, in this
order, the slot off the age list, and the report (R195). -/
theorem complete_of_open (code : ResultCode) (flags : ResultFlags) (words : List Word)
    (h : (s.slot i).state = .waiting ∨ (s.slot i).state = .running) : complete i code flags words s =
    let x := (s.slot i).finish code flags words
    appendReport (orderDoneReport i x s.frameCounter) { s with
      writes := s.writes ++ wordsAt (slotBase i + 0x38) x.words ++
        [(slotBase i + 0x34, { x with state := (s.slot i).state }.slotWord), (slotBase i + 0x34, x.slotWord)],
      disp := { s.disp with slots := putAt 32 i x Slot.reset s.disp.slots,
                            ageList := s.disp.ageList.filter (· != i) } } := by
  unfold complete
  dsimp only
  rw [if_pos h]
  simp only [writeSlot, putWord, putWords, setSlot, List.append_assoc, List.cons_append, List.nil_append]
  rfl

theorem complete_slot_self (hi : i < 32) (code : ResultCode) (flags : ResultFlags) (words : List Word)
    (h : (s.slot i).state = .waiting ∨ (s.slot i).state = .running) :
    (complete i code flags words s).slot i = (s.slot i).finish code flags words := by
  rw [complete_of_open code flags words h, State.slot, appendReport_slots]
  exact putAt_getD_self hi ..

theorem complete_slot_other {j : Nat} (hi : i < 32) (hj : j < 32) (hij : j ≠ i) (code : ResultCode) (flags : ResultFlags)
    (words : List Word) : (complete i code flags words s).slot j = s.slot j := by
  by_cases h : (s.slot i).state = .waiting ∨ (s.slot i).state = .running
  · rw [complete_of_open code flags words h, State.slot, appendReport_slots]
    exact putAt_getD_other hi hj hij ..
  · exact congrArg (State.slot · j) (if_neg h)

theorem orderDoneReport_words (i : Nat) {x : Slot} (hx : x.words.length = 4) (time : Long) :
    (orderDoneReport i x time).words = [bytePair 1 0, word (0x1000 + i), lowWord time, highWord time,
      bytePair ((x.order.map Order.kind).getD 0) x.code.code, (x.order.map Order.tag).getD 0, word (256 * x.flags.code),
      x.postNumber] ++ x.words ++ [0, 0, 0, 0] := by
  simp [Report.words, orderDoneReport, sourceSlot, List.take_append, List.take_of_length_le, hx]

end

/-! ### The choice of the next order (R194) -/

theorem mostUrgent_isSome (pri : Nat → Nat) {l : List Nat} (h : l ≠ []) : ∃ i, mostUrgent pri l = some i := by
  cases l with
  | nil => exact absurd rfl h
  | cons a l =>
    unfold mostUrgent
    split
    · exact ⟨_, rfl⟩
    · split <;> exact ⟨_, rfl⟩

/-- The most urgent of a list: each before it is less urgent, each after it no more (R194). -/
theorem mostUrgent_spec (pri : Nat → Nat) {l : List Nat} {i : Nat} (h : mostUrgent pri l = some i) :
    ∃ before after, l = before ++ i :: after ∧ (∀ j ∈ before, pri i < pri j) ∧ ∀ j ∈ after, pri i ≤ pri j := by
  induction l generalizing i with
  | nil => cases h
  | cons a l ih =>
    unfold mostUrgent at h
    cases hm : mostUrgent pri l with
    | none =>
      have alone : l = [] := by
        by_contra hl
        obtain ⟨j, hj⟩ := mostUrgent_isSome pri hl
        rw [hj] at hm
        cases hm
      simp only [hm, Option.some.injEq] at h
      exact ⟨[], [], by rw [h, alone]; rfl, by simp, by simp⟩
    | some j =>
      obtain ⟨before, after, rfl, urgent, least⟩ := ih hm
      simp only [hm] at h
      split at h
      · next lower =>
        cases h
        exact ⟨a :: before, after, rfl, by simpa using ⟨lower, urgent⟩, least⟩
      · next first =>
        cases h
        refine ⟨[], before ++ j :: after, rfl, by simp, fun k hk => ?_⟩
        simp only [List.mem_append, List.mem_cons] at hk
        obtain hk | rfl | hk := hk
        · have := urgent k hk; omega
        · omega
        · have := least k hk; omega

theorem offeredTo_iff (x : Slot) (o : Owner) : x.offeredTo o = true ↔ x.state = .waiting ∧ x.routable = true ∧
    x.kind ≠ some .linkSend ∧ ∃ k, x.kind = some k ∧ k.owner = o := by
  simp only [Slot.offeredTo, Slot.owner, Bool.and_eq_true, beq_iff_eq, bne_iff_ne, ne_eq, Option.map_eq_some_iff, and_assoc]
  constructor
  · rintro ⟨waiting, routable, owner, send⟩; exact ⟨waiting, routable, send, owner⟩
  · rintro ⟨waiting, routable, send, owner⟩; exact ⟨waiting, routable, owner, send⟩

section
variable {s : State} {o : Owner}

theorem choice_spec {i : Nat} (h : s.choice o = some i) : ∃ before after,
    s.disp.ageList = before ++ i :: after ∧ (s.slot i).offeredTo o = true ∧
      (∀ j ∈ before, (s.slot j).offeredTo o = true → (s.slot i).priority < (s.slot j).priority) ∧
      (∀ j ∈ after, (s.slot j).offeredTo o = true → (s.slot i).priority ≤ (s.slot j).priority) := by
  obtain ⟨-, offered⟩ := choice_offered h
  obtain ⟨b, a, he, urgent, least⟩ := mostUrgent_spec _ h
  obtain ⟨before, rest, hl, hb, hr⟩ := List.filter_eq_append_iff.1 he
  obtain ⟨skipped, after, rfl, none, -, ha⟩ := List.filter_eq_cons_iff.1 hr
  refine ⟨before ++ skipped, after, by rw [hl, List.append_assoc], offered, fun j hj hoff => ?_,
    fun j hj hoff => least j (ha ▸ List.mem_filter.2 ⟨hj, hoff⟩)⟩
  obtain hj | hj := List.mem_append.1 hj
  · exact urgent j (hb ▸ List.mem_filter.2 ⟨hj, hoff⟩)
  · exact absurd hoff (none j hj)

theorem choice_isSome (h : ∃ i ∈ s.disp.ageList, (s.slot i).offeredTo o = true) : ∃ i, s.choice o = some i := by
  obtain ⟨i, hi, offered⟩ := h
  exact mostUrgent_isSome _ (List.ne_nil_of_mem (List.mem_filter.2 ⟨hi, offered⟩))

theorem chooseFor_of_none (h : s.ownerFree o = false ∨ s.choice o = none) (n : Nat) : chooseFor o n s = s := by
  cases n with
  | zero => rfl
  | succ n =>
    unfold chooseFor
    obtain busy | none := h
    · rw [if_neg (by simp [busy])]
    · rw [none]
      exact ite_self s

theorem chooseFor_of_choice {i : Nat} (free : s.ownerFree o = true) (h : s.choice o = some i) (n : Nat) :
    chooseFor o (n + 1) s = chooseFor o n (handOver i s) := by
  rw [chooseFor, if_pos free, h]
  rfl

theorem handOver_of_order {i : Nat} {k : OrderKind} {r : Order} (hk : (s.slot i).kind = some k)
    (hr : (s.slot i).order = some r) :
    handOver i s = takeOrder k i r.args (writeSlot i { s.slot i with state := .running } s) := by
  unfold handOver
  dsimp only
  rw [hk, hr]

end

/-- Settles O20: a completion by its steps, and the choice by the fold that makes it. -/
theorem ordersCompleteAndNextIsChosen : Obligations.OrdersCompleteAndNextIsChosen := by
  refine ⟨⟨rfl, rfl, rfl⟩, fun n i j x d l hj => ⟨putAt_length .., ?entry⟩, ?codes,
    fun s i code flags words hi h => ?completion, fun s o => ⟨fun i h => choice_spec h, fun h => choice_isSome h⟩,
    offeredTo_iff, fun s o => decide_eq_true_iff, fun s o n => ⟨fun h => chooseFor_of_none h n,
      fun i free h => chooseFor_of_choice free h n⟩, fun s i k o hk ho => handOver_of_order hk ho⟩
  case entry =>
    by_cases hi : i < n
    · rw [putAt_getD hi, if_pos hj]
    · have hji : j ≠ i := by omega
      simp [putAt, List.getD_eq_getElem?_getD, hj, hji]
  case codes =>
    refine ⟨fun i => rfl, fun x => ?word, fun x => rfl, fun a b c d e f => rfl, rfl, rfl, rfl, fun k => ?owner⟩
    case word => cases h : x.cancelMark <;> simp [Slot.slotWord, h, natOfBool]
    case owner => cases k <;> rfl
  case completion =>
    refine ⟨complete_of_open code flags words h, complete_slot_self hi code flags words h,
      fun j hj hij => complete_slot_other hi hj hij code flags words, orderDoneReport_words i (fourWords_length words) _⟩

end Sys2Proof.Machine
end

section
/-! Sitting 10: POST, the end of an order capture, RECLAIM and CANCEL (R190-R192). -/

namespace Sys2Proof.Machine

theorem slotBase_eq (i : Nat) : slotBase i = 0x200 + 64 * i := rfl

/-- The words from a slot's slot word on are the part's to write (R185). -/
theorem partByte_slot {i n : Nat} (hi : i < 32) (low : 0x34 ≤ n) (high : n < 64) : partByte (slotBase i + n) = true := by
  rw [partByte_iff, slotBase_eq]
  omega

theorem slotWord_apart (s u : State) (i n : Nat) :
    ∀ x ∈ changedWords s u, slotBase i + n + 1 < x.1 ∨ x.1 + 1 < slotBase i + n :=
  changedWords_apart (.inl (by rw [slotBase_eq]; omega))

/-! ### POST (R190) -/

/-- The state with a slot posted, but for the capture asked for. -/
def withPost (i : Nat) (s : State) : State :=
  let x := (s.slot i).posted (s.disp.postCounter + 1) s.frames s.stamp
  { s with
    stamp := s.stamp + 1,
    writes := s.writes ++ [(slotBase i + 0x34, x.slotWord), (slotBase i + 0x36, s.disp.postCounter + 1)],
    disp := { s.disp with slots := putAt 32 i x Slot.reset s.disp.slots, postCounter := s.disp.postCounter + 1,
                          ageList := s.disp.ageList ++ [i] } }

section
variable {s : State}

theorem postSlot_of_free {slot : BitVec 8} (hi : slot.toNat ≤ 31) (h : (s.slot slot.toNat).state = .free) :
    postSlot slot s = askBurst (.orderCapture slot.toNat s.stamp) (withPost slot.toNat s) := by
  rw [postSlot, if_neg (by omega), if_neg (by simp [h])]
  simp only [withPost, writeSlot, putWord, setSlot, List.append_assoc, List.cons_append, List.nil_append]

theorem askBurst_writes (b : Burst) (u : State) : (askBurst b u).writes = u.writes := by rw [askBurst_only]
theorem askBurst_mem (b : Burst) (u : State) : (askBurst b u).mem = u.mem := by rw [askBurst_only]
theorem askBurst_slot (b : Burst) (u : State) (i : Nat) : (askBurst b u).slot i = u.slot i := by
  rw [askBurst_only]
  rfl

/-- A burst asked for alone: it keeps its place, starts at once on a free port with nothing else waiting, or waits. -/
theorem askBurst_port {b : Burst} {u : State} (ha : u.disp.port.asked = []) :
    (askBurst b u).disp.port.queueAsked = if b ∈ u.disp.port.queue then u.disp.port
      else if u.disp.port.running = none ∧ b.others u.disp.port.queue = [] then
        { u.disp.port with running := some b, queue := [] }
      else { u.disp.port with queue := b.others u.disp.port.queue ++ [b] } := by
  split
  · next hb => rw [askBurst_of_queued hb, queueAsked_of_none ha]
  · next hb =>
    have asked : b.others u.disp.port.asked = [] := by rw [ha]; rfl
    rw [askBurst_of_new hb, asked]
    split
    · next free =>
      obtain ⟨running, empty⟩ := free
      simp only [Port.queueAsked, running, empty, List.filter_nil, List.nil_append, ha]
    · next busy =>
      simp only [Port.queueAsked]
      split
      · next running empty _ => exact absurd ⟨running, empty⟩ busy
      · simp only [List.filter_nil, List.nil_append, ha]

/-- The two words of a POST, as they are then read. -/
theorem withPost_words {i : Nat} (hi : i < 32) (h : s.mem.wf = true) (b : Burst) :
    let t := publish s (askBurst b (withPost i s))
    t.mem.readWord (slotBase i + 0x34) = ((s.slot i).posted (s.disp.postCounter + 1) s.frames s.stamp).slotWord ∧
      t.mem.readWord (slotBase i + 0x36) = s.disp.postCounter + 1 := by
  have hm : (askBurst b (withPost i s)).mem.wf = true := by rw [askBurst_mem]; exact h
  have writes := askBurst_writes b (withPost i s)
  constructor
  · exact publish_readWord hm _ _ _ _ writes (partByte_slot hi (by omega) (by omega))
      (partByte_slot hi (n := 0x35) (by omega) (by omega)) (by simp) (slotWord_apart _ _ i _)
  · refine publish_readWord hm _ [] _ _ (writes.trans (List.append_cons ..)) (partByte_slot hi (by omega) (by omega))
      (partByte_slot hi (n := 0x37) (by omega) (by omega)) (by simp) (slotWord_apart _ _ i _)

/-! ### RECLAIM (R192) -/

theorem reclaimSlot_of_done {slot : BitVec 8} (hi : slot.toNat ≤ 31) (h : (s.slot slot.toNat).state = .done) :
    reclaimSlot slot s = writeSlot slot.toNat { s.slot slot.toNat with state := .free } s := by
  rw [reclaimSlot, if_neg (by omega), if_pos h]

theorem writeSlot_writes (i : Nat) (x : Slot) (s : State) :
    (writeSlot i x s).writes = s.writes ++ [(slotBase i + 0x34, x.slotWord)] := rfl

/-- A slot word written is the word then read, and the result words after it stay. -/
theorem writeSlot_words {i : Nat} (hi : i < 32) (x : Slot) (h : s.mem.wf = true) :
    let t := publish s (writeSlot i x s)
    t.mem.readWord (slotBase i + 0x34) = x.slotWord ∧ (s.writes = [] → ∀ k < 4,
      t.mem.readWord (slotBase i + 0x38 + 2 * k) = s.mem.readWord (slotBase i + 0x38 + 2 * k)) := by
  have hm : (writeSlot i x s).mem.wf = true := h
  refine ⟨publish_readWord hm _ [] _ _ (writeSlot_writes i x s) (partByte_slot hi (by omega) (by omega))
    (partByte_slot hi (n := 0x35) (by omega) (by omega)) (by simp) (slotWord_apart _ _ i _), fun hw k hk => ?_⟩
  have byte (n : Nat) (hn : 0x36 ≤ n) : (publish s (writeSlot i x s)).mem.read (slotBase i + n) = s.mem.read (slotBase i + n) := by
    refine publish_read_other hm (fun y hy => ?_) fun y hy => ?_
    · rw [writeSlot_writes, hw, List.nil_append, List.mem_singleton] at hy
      rw [hy]
      constructor <;> dsimp only <;> omega
    · have := slotWord_apart s (writeSlot i x s) i n y hy
      omega
  simp only [Memory.readWord, Nat.add_assoc, byte _ (by omega : 0x36 ≤ 0x38 + 2 * k),
    byte _ (by omega : 0x36 ≤ 0x38 + (2 * k + 1))]

/-! ### The end of an order capture (R190) -/

theorem ofCode_isNone_iff (n : Nat) : (OrderKind.ofCode n).isNone = true ↔ n = 0 ∨ 18 < n := by
  cases n with
  | zero => simp [OrderKind.ofCode]
  | succ k =>
    simp only [OrderKind.ofCode, Option.isNone_iff_eq_none, List.getElem?_eq_none_iff]
    have all : OrderKind.all.length = 18 := rfl
    omega

theorem exec_orderCapture_of_running (hs : s.resetHeld = false) {i stamp : Nat}
    (hr : s.disp.port.running = some (.orderCapture i stamp)) :
    exec .orderCapture s = .next (publish s (finish (captured s.mem i stamp (endBurst s)))) := by
  have run : exec .orderCapture s = .next (publish s (finish (endOrderCapture s))) := whole_of_free _ hs
  have ends : endOrderCapture s = captured s.mem i stamp (endBurst s) := by unfold endOrderCapture; rw [hr]
  rw [run, ends]

section
variable {m : Memory} {i stamp : Nat} {x : Slot} {o : Order} (hx : s.slot i = x) (ho : orderOf (m.bytes (slotBase i) 52) = o)
include hx

theorem captured_of_stale (h : x.state ≠ .waiting ∨ x.stamp ≠ stamp) : captured m i stamp s = s := by
  rw [captured, hx]
  exact if_neg fun hc => h.elim (· hc.1) (· hc.2)

variable (hw : x.state = .waiting) (ht : x.stamp = stamp)
include hw ht ho

theorem captured_bad_kind (h : o.kind = 0 ∨ 18 < o.kind) : captured m i stamp s =
    complete i .badArgument ResultFlags.none [word o.kind] (setSlot i { x with order := some o } s) := by
  simp only [captured, hx, ho]
  rw [if_pos ⟨hw, ht⟩, if_pos ((ofCode_isNone_iff _).2 h)]
  rfl

theorem captured_bad_priority (low : 1 ≤ o.kind) (high : o.kind ≤ 18) (h : 7 < o.priority) : captured m i stamp s =
    complete i .badArgument ResultFlags.none [word o.priority] (setSlot i { x with order := some o } s) := by
  have known : ¬ (OrderKind.ofCode o.kind).isNone = true := by rw [ofCode_isNone_iff]; omega
  simp only [captured, hx, ho]
  rw [if_pos ⟨hw, ht⟩, if_neg known, if_pos h]
  rfl

theorem captured_good (low : 1 ≤ o.kind) (high : o.kind ≤ 18) (h : o.priority ≤ 7) :
    captured m i stamp s = setSlot i { x with order := some o, routable := true } s := by
  have known : ¬ (OrderKind.ofCode o.kind).isNone = true := by rw [ofCode_isNone_iff]; omega
  simp only [captured, hx, ho]
  rw [if_pos ⟨hw, ht⟩, if_neg known, if_neg (by omega)]

end

end

/-- Settles O18: a POST of a FREE slot, a RECLAIM of a DONE one, and the end of a capture by what its checks find. -/
theorem postCaptureAndReclaimMoveSlot : Obligations.PostCaptureAndReclaimMoveSlot := by
  refine ⟨fun s slot hs hi hf => ⟨?post, ?self, fun j hj hij => ?other, fun ha => askBurst_port (u := withPost slot.toNat s) ha,
      fun h => withPost_words (by omega) h _⟩,
    fun s slot hs => ⟨fun hi hd => ⟨?reclaim, ?freed, fun j hj hij => ?others, fun h => writeSlot_words (by omega) _ h⟩,
      fun hi hd => ?early, fun hi => ?range, fun x y => rfl, fun op h1 h2 h3 h4 => exec_badOperation_of_ne hs slot h1 h2 h3 h4⟩,
    fun s i stamp hs hi hr => ?capture⟩
  case post =>
    rw [exec_post hs, postSlot_of_free hi hf]
    rfl
  case self => exact (askBurst_slot _ (withPost slot.toNat s) _).trans (putAt_getD_self (by omega) ..)
  case other => exact (askBurst_slot _ (withPost slot.toNat s) _).trans (putAt_getD_other (by omega) hj hij ..)
  case reclaim =>
    rw [exec_reclaim hs, reclaimSlot_of_done hi hd]
    rfl
  case freed => exact putAt_getD_self (by omega) ..
  case others => exact putAt_getD_other (by omega) hj hij ..
  case early => rw [exec_reclaim hs, reclaimSlot_early hi hd]
  case range => rw [exec_reclaim hs, (slotRange_misuse hi).2.2]
  case capture =>
    intro l o x after
    have run := exec_orderCapture_of_running hs hr
    have hx : (endBurst s).slot i = x := endBurst_slot s i
    have ho : orderOf (s.mem.bytes (slotBase i) 52) = o := rfl
    refine ⟨fun hw ht h => ?_, fun hw ht low high h => ?_, fun hw ht low high h => ?_, fun h => ?_⟩
    · rw [captured_bad_kind hx ho hw ht h] at run
      exact run
    · rw [captured_bad_priority hx ho hw ht low high h] at run
      exact run
    · rw [captured_good hx ho hw ht low high h] at run
      exact run
    · rw [captured_of_stale hx h] at run
      exact run

end Sys2Proof.Machine
end

section
/-! Sitting 10: CANCEL by the slot's state, and what its owner does with it (R63, R164, R191). -/

namespace Sys2Proof.Machine

section
variable {s : State} {slot : BitVec 8} (hi : slot.toNat ≤ 31)
include hi

theorem cancelSlot_waiting (h : (s.slot slot.toNat).state = .waiting) :
    cancelSlot slot s = finish (complete slot.toNat .cancelled ResultFlags.none [] s) := by
  rw [cancelSlot, if_neg (by omega)]
  simp only [h]
  rfl

theorem cancelSlot_running (h : (s.slot slot.toNat).state = .running) (hm : (s.slot slot.toNat).cancelMark = false) :
    cancelSlot slot s =
      finish (passCancel slot.toNat (writeSlot slot.toNat { s.slot slot.toNat with cancelMark := true } s)) := by
  rw [cancelSlot, if_neg (by omega)]
  simp only [h]
  rw [if_neg (by simp [hm])]

theorem cancelSlot_marked (h : (s.slot slot.toNat).state = .running) (hm : (s.slot slot.toNat).cancelMark = true) :
    cancelSlot slot s = s := by
  rw [cancelSlot, if_neg (by omega)]
  simp only [h]
  rw [if_pos hm]

theorem cancelSlot_done (h : (s.slot slot.toNat).state = .done) : cancelSlot slot s = s := by
  rw [cancelSlot, if_neg (by omega)]
  simp only [h]

end

section
variable {s : State} {i : Nat}

theorem slot_writeSlot_self (hi : i < 32) (x : Slot) (s : State) : (writeSlot i x s).slot i = x := slot_setSlot_self hi x s

/-- An owner other than the scene unit and the link controller's LINK_SEND goes on with its order. -/
theorem passCancel_of_other (hl : (s.slot i).kind ≠ some .sceneLoad) (hg : (s.slot i).kind ≠ some .sceneGo)
    (hw : (s.slot i).kind ≠ some .sceneSwap) (hk : (s.slot i).kind ≠ some .linkSend) : passCancel i s = s := by
  unfold passCancel
  split
  · next h => exact absurd h hl
  · next h => exact absurd h hg
  · next h => exact absurd h hw
  · next h => exact absurd h hk
  · rfl

theorem passCancel_of_scene (h : (s.slot i).kind = some .sceneLoad ∨ (s.slot i).kind = some .sceneGo ∨
    (s.slot i).kind = some .sceneSwap) : passCancel i s = cancelScene i s := by
  unfold passCancel
  obtain h | h | h := h <;> rw [h]

theorem passCancel_of_linkSend (h : (s.slot i).kind = some .linkSend) : passCancel i s = cancelLinkSend chooseLink i s := by
  unfold passCancel
  rw [h]

/-! ### The scene unit (R63) -/

theorem Request.slot_eq_some (r : Request) (i : Nat) : r.slot = some i ↔ r.origin = .slot i := by
  unfold Request.slot
  cases r.origin <;> simp

theorem isLoading_iff (x : SceneState) : x.isLoading = true ↔ x = .fetching ∨ x = .allocating ∨ x = .zeroing ∨ x = .preparing := by
  cases x <;> simp [SceneState.isLoading]

theorem cancelScene_of_empty (h : s.scene.latch = none) : cancelScene i s = s := by
  unfold cancelScene
  rw [h]

section
variable {r : Request} (hr : s.scene.latch = some r)
include hr

theorem cancelScene_attached (h : r.attached = some i) : cancelScene i s = complete i .cancelled ResultFlags.none []
    { s with scene := { s.scene with latch := some { r with attached := none } } } := by
  unfold cancelScene
  simp only [hr]
  rw [if_pos h]
  rfl

variable (ha : r.attached ≠ some i)
include ha

theorem cancelScene_of_other (ho : r.origin ≠ .slot i) : cancelScene i s = s := by
  unfold cancelScene
  simp only [hr]
  rw [if_neg ha, if_neg (by rwa [Request.slot_eq_some])]

variable (ho : r.origin = .slot i)
include ho

theorem cancelScene_fading (h : s.scene.state = .fading) : cancelScene i s =
    complete i .cancelled ResultFlags.none [] { s with scene := { s.scene with latch := none } } := by
  unfold cancelScene
  simp only [hr]
  rw [if_neg ha, if_pos (by rwa [Request.slot_eq_some]), if_pos h]
  rfl

/-- The unit's work for a request can be abandoned: a load that is no lean one, or ARMED (R63; R60, R76). -/
def SceneUnit.Abandons (u : SceneUnit) : Prop :=
  ((u.state = .fetching ∨ u.state = .allocating ∨ u.state = .zeroing ∨ u.state = .preparing) ∧ u.leanLoad = false) ∨
    u.state = .armed

theorem cancelScene_abandons (hf : s.scene.state ≠ .fading) (h : s.scene.Abandons) : cancelScene i s =
    completeSlot r.attached .superseded ResultFlags.none [] (complete i .cancelled ResultFlags.none []
      { abandonLoad s with scene := { (abandonLoad s).scene with state := .idle, latch := none, leanLoad := false } }) := by
  unfold cancelScene
  simp only [hr]
  rw [if_neg ha, if_pos (by rwa [Request.slot_eq_some]), if_neg hf, if_pos (by rwa [isLoading_iff])]
  rfl

theorem cancelScene_too_late (hf : s.scene.state ≠ .fading) (h : ¬ s.scene.Abandons) : cancelScene i s = s := by
  unfold cancelScene
  simp only [hr]
  rw [if_neg ha, if_pos (by rwa [Request.slot_eq_some]), if_neg hf, if_neg (by rwa [isLoading_iff])]

end

theorem SceneUnit.Abandons.not_fading {u : SceneUnit} (h : u.Abandons) : u.state ≠ .fading := by
  obtain ⟨h | h | h | h, -⟩ | h := h <;> simp [h]

/-! ### The link controller (R164) -/

/-- The hold that carries the order of a slot. -/
theorem find_hold {h : Nat} (hh : h < 3) (ho : (s.hold h).origin = .slot i) (hs : (s.hold h).state ≠ .empty)
    (first : ∀ g < h, (s.hold g).state = .empty ∨ (s.hold g).origin ≠ .slot i) :
    ((List.range 3).find? fun g => (s.hold g).state != .empty && (s.hold g).origin == .slot i) = some h := by
  rw [List.find?_range_eq_some]
  refine ⟨by simp [ho, hs], List.mem_range.2 hh, fun g hg => ?_⟩
  obtain empty | other := first g hg
  · simp [empty]
  · simp [other]

theorem cancelLinkSend_pending {h : Nat} (hh : h < 3) (ho : (s.hold h).origin = .slot i)
    (first : ∀ g < h, (s.hold g).state = .empty ∨ (s.hold g).origin ≠ .slot i) (hp : (s.hold h).state = .pending) :
    cancelLinkSend chooseLink i s =
      chooseLink (complete i .cancelled ResultFlags.none [] (setHold h Hold.empty s)) := by
  unfold cancelLinkSend
  rw [find_hold hh ho (by simp [hp]) first]
  simp only [hp, if_true]
  exact emptyHold_slot ho

theorem cancelLinkSend_sending {h : Nat} (hh : h < 3) (ho : (s.hold h).origin = .slot i)
    (first : ∀ g < h, (s.hold g).state = .empty ∨ (s.hold g).origin ≠ .slot i) (hp : (s.hold h).state = .sending) :
    cancelLinkSend chooseLink i s = setHold h { s.hold h with cancelMark := true } s := by
  unfold cancelLinkSend
  rw [find_hold hh ho (by simp [hp]) first]
  dsimp only
  rw [if_neg (by simp [hp])]

end

/-- Settles O19: a CANCEL by the slot's state, the scene unit by what the latch holds and how far its work is, and the link
controller by the state of the hold. -/
theorem cancelActsBySlotState : Obligations.CancelActsBySlotState := by
  refine ⟨fun s slot hs hi => ⟨fun hw => ?waiting, fun hr hm => ⟨?running, fun hl hg hw hk => ?other⟩, fun hr hm => ?marked,
      fun hd => ?done⟩,
    fun s i hk => ?scene, fun s i h hk hh ho first => ⟨fun hp => ?pending, fun hp => ?sending⟩⟩
  case waiting => rw [exec_cancel hs, cancelSlot_waiting hi hw]
  case running => rw [exec_cancel hs, cancelSlot_running hi hr hm]
  case other =>
    have same := congrArg Slot.kind
      (slot_writeSlot_self (i := slot.toNat) (by omega) { s.slot slot.toNat with cancelMark := true } s)
    exact passCancel_of_other (same ▸ hl) (same ▸ hg) (same ▸ hw) (same ▸ hk)
  case marked => rw [exec_cancel hs, cancelSlot_marked hi hr hm]
  case done => rw [exec_cancel hs, cancelSlot_done hi hd]
  case scene =>
    rw [passCancel_of_scene hk]
    exact ⟨cancelScene_of_empty, fun r hr => ⟨cancelScene_attached hr, fun ha ho => ⟨cancelScene_fading hr ha ho,
      fun h => cancelScene_abandons hr ha ho (SceneUnit.Abandons.not_fading h) h, cancelScene_too_late hr ha ho⟩,
      cancelScene_of_other hr⟩⟩
  case pending => rw [passCancel_of_linkSend hk, cancelLinkSend_pending hh ho first hp]
  case sending => rw [passCancel_of_linkSend hk, cancelLinkSend_sending hh ho first hp]

end Sys2Proof.Machine
end

section
/-! Sitting 10: the modes (R201-R203), and the choices at the end of an event (R79, R161, R163, R194, R202). -/

namespace Sys2Proof.Machine

/-! ### Requests for a mode -/

section
variable {s : State} (hs : s.resetHeld = false)
include hs

theorem exec_setupRequest : exec .setupRequest s = .next (publish s (force State.setupStarts requestSetup s)) :=
  plain_of_free _ hs

theorem exec_runRequest : exec .runRequest s = .next (publish s (force State.runActs requestRun s)) := plain_of_free _ hs

end

theorem setupStarts_iff (s : State) : s.setupStarts = true ↔ s.disp.mode = .run ∧ s.disp.setupPending = false := by
  simp [State.setupStarts]

theorem runActs_iff (s : State) : s.runActs = true ↔ s.disp.mode = .setup ∨ s.disp.setupPending = true := by
  simp [State.runActs]

/-- The handshake begun, before the link controller has answered (R202). -/
def setupAsked (s : State) : State :=
  let set := { s.lane.mute with setup := true }
  let ramp := s.lane.ramp.turn s.lane.mute set
  { s with
    disp := { s.disp with setupPending := true, silenceSeen := ramp == .silent, linkClear := false },
    lane := { s.lane with mute := set, ramp := ramp }, link := { s.link with inhibit := true } }

/-- The handshake starts: SETUP in the mute set, the request pending, and the link controller's answer when no hold is
SENDING (R172, R202). -/
theorem requestSetup_eq (s : State) :
    let set := { s.lane.mute with setup := true }
    let ramp := s.lane.ramp.turn s.lane.mute set
    requestSetup s = { s with
      disp := { s.disp with setupPending := true, silenceSeen := ramp == .silent, linkClear := s.sendingHold.isNone },
      lane := { s.lane with mute := set, ramp := ramp }, link := { s.link with inhibit := true } } := by
  have told : requestSetup s = answerNotSending (setupAsked s) := rfl
  have answers : ((setupAsked s).link.inhibit && (setupAsked s).disp.setupPending && (setupAsked s).sendingHold.isNone) =
      s.sendingHold.isNone := rfl
  rw [told, answerNotSending, answers]
  cases s.sendingHold.isNone <;> rfl

/-- Both condition marks make the mode SETUP (R202). -/
theorem becomeSetup_of_marks {s : State} (hp : s.disp.setupPending = true) (hq : s.disp.silenceSeen = true)
    (hl : s.disp.linkClear = true) : becomeSetup s =
      { s with disp := { s.disp with mode := .setup, setupPending := false, setupAck := true, silenceSeen := false,
                                     linkClear := false, attention := { s.disp.attention with mode := true } },
               scanner := { s.scanner with
                 lines := s.scanner.lines.map (fun x => if x.state = .off then x
                   else { x with state := .standby, settle := none, hold := none, rept := none }),
                 waiting := none, chord := none },
               link := { s.link with engagement := .offBus, receiving := false, inhibit := false, lineFree := false,
                                     justSent := false, errorMark := none } } := by
  unfold becomeSetup
  rw [if_pos (by rw [hp, hq, hl]; rfl)]
  rfl

theorem becomeSetup_of_unmarked {s : State} (h : (s.disp.setupPending && s.disp.silenceSeen && s.disp.linkClear) = false) :
    becomeSetup s = s := if_neg (by simp [h])

theorem pedalEnterRun_eq (x : Pedal) :
    x.enterRun = if x.state = .settling ∨ x.state = .ready then { x with state := .settling, discard := 4 } else x := by
  unfold Pedal.enterRun
  split
  · next h => rw [if_pos (.inl h)]; rfl
  · next h => rw [if_pos (.inr h)]; rfl
  · next hn hr => rw [if_neg fun h => h.elim hn hr]

theorem map_pedalEnterRun (l : List Pedal) : l.map Pedal.enterRun = l.map fun x =>
    if x.state = .settling ∨ x.state = .ready then { x with state := .settling, discard := 4 } else x :=
  List.map_congr_left fun x _ => pedalEnterRun_eq x

/-- The mode becomes RUN (R114, R125, R171, R203). -/
theorem requestRun_of_setup {s : State} (h : s.disp.mode = .setup) :
    let set := { s.lane.mute with setup := false }
    requestRun s =
      { s with disp := { s.disp with mode := .run, setupAck := false, attention := { s.disp.attention with mode := true } },
               lane := { s.lane with mute := set, ramp := s.lane.ramp.turn s.lane.mute set },
               link := { s.link with engagement := if s.link.config.loopback then .onBus else .awaitingIdle,
                                     lineFree := false },
               scanner := { s.scanner with lines := s.scanner.lines.map fun x =>
                 if x.state = .standby then { x with state := .settling, settle := some 20 } else x },
               pedals := s.pedals.map fun x =>
                 if x.state = .settling ∨ x.state = .ready then { x with state := .settling, discard := 4 } else x } := by
  have enters : requestRun s = enterRun s := by unfold requestRun; rw [h]
  simp only [enters, enterRun, pedalsModeRun, scannerModeRun, linkModeRun, muteSetup, changeMute, raiseMode, setDisp, setLink,
    setScanner, map_pedalEnterRun]
  rfl

/-- A pending SETUP request withdrawn (R203). -/
theorem requestRun_of_run {s : State} (h : s.disp.mode = .run) :
    let set := { s.lane.mute with setup := false }
    requestRun s = { s with
      disp := { s.disp with setupPending := false, silenceSeen := false, linkClear := false },
      lane := { s.lane with mute := set, ramp := s.lane.ramp.turn s.lane.mute set },
      link := { s.link with inhibit := false } } := by
  intro set
  unfold requestRun
  rw [h]
  rfl

/-- Settles O25: a SETUP and a RUN request by the mode and the pending request, the change to SETUP by the marks. -/
theorem modeRequestsActByMode : Obligations.ModeRequestsActByMode := by
  refine ⟨MuteSet.isEmpty_iff, fun r before after => r.turn_eq before after, fun s hs => ⟨fun hm hp => ?starts, fun h => ?no⟩,
    fun s => ⟨becomeSetup_of_marks, fun h => ?unmarked⟩, fun s hs => ⟨fun hm => ?enters, fun hm hp => ?withdraws,
      fun hm hp => ?idle⟩⟩
  case starts => rw [exec_setupRequest hs, force_of_due _ ((setupStarts_iff s).2 ⟨hm, hp⟩), requestSetup_eq]
  case no =>
    have notDue : s.setupStarts = false := by
      obtain h | h := h <;> simp [State.setupStarts, h]
    rw [exec_setupRequest hs, force_of_not_due _ notDue]
  case unmarked =>
    refine becomeSetup_of_unmarked ?_
    obtain h | h | h := h <;> simp [h]
  case enters => rw [exec_runRequest hs, force_of_due _ ((runActs_iff s).2 (.inl hm)), requestRun_of_setup hm]
  case withdraws => rw [exec_runRequest hs, force_of_due _ ((runActs_iff s).2 (.inr hp)), requestRun_of_run hm]
  case idle =>
    have notDue : s.runActs = false := by simp [State.runActs, hm, hp]
    rw [exec_runRequest hs, force_of_not_due _ notDue]

end Sys2Proof.Machine
end

section
/-! Sitting 10: the choices that the end of an event makes (R79, R161, R163, R194, R202; logs 31, 73, 74). -/

namespace Sys2Proof.Machine

/-! ### The best candidate (R161) -/

theorem firstByTopic_eq_none {α : Type} {l : List (α × Nat × Nat)} : firstByTopic l = none ↔ l = [] := by
  cases l with
  | nil => exact ⟨fun _ => rfl, fun _ => rfl⟩
  | cons x l =>
    unfold firstByTopic
    split
    · simp
    · split <;> simp

/-- The best of a list has the lowest topic, and the least age among equals. -/
theorem firstByTopic_spec {α : Type} {l : List (α × Nat × Nat)} {x : α × Nat × Nat} (h : firstByTopic l = some x) :
    x ∈ l ∧ ∀ y ∈ l, x.2.1 < y.2.1 ∨ (x.2.1 = y.2.1 ∧ x.2.2 ≤ y.2.2) := by
  induction l generalizing x with
  | nil => cases h
  | cons a l ih =>
    unfold firstByTopic at h
    split at h
    · next hl =>
      cases h
      rw [firstByTopic_eq_none.1 hl]
      simp
    · next b hb =>
      obtain ⟨mem, best⟩ := ih hb
      split at h
      · next lower =>
        cases h
        refine ⟨List.mem_cons_of_mem _ mem, fun y hy => ?_⟩
        obtain rfl | hy := List.mem_cons.1 hy
        · omega
        · exact best y hy
      · next first =>
        cases h
        refine ⟨List.mem_cons_self, fun y hy => ?_⟩
        obtain rfl | hy := List.mem_cons.1 hy
        · omega
        · have := best y hy; omega

/-! ### LINK_SEND orders and candidates (R161, R163) -/

theorem linkSend_iff (x : Slot) (m : Message) : x.linkSend = some m ↔ x.state = .waiting ∧ x.routable = true ∧
    x.kind = some .linkSend ∧ ∃ o, x.order = some o ∧ m = linkSendMessage o.args := by
  unfold Slot.linkSend
  split
  · next h =>
    obtain ⟨waiting, routable, kind⟩ := h
    simp only [waiting, routable, kind, true_and, Option.map_eq_some_iff]
    exact exists_congr fun o => and_congr_right fun _ => eq_comm
  · next h =>
    simp only [reduceCtorEq, false_iff]
    rintro ⟨waiting, routable, kind, -⟩
    exact h ⟨waiting, routable, kind⟩

theorem linkSend_of_not_waiting {x : Slot} (h : x.state ≠ .waiting) : x.linkSend = none := by
  rw [Option.eq_none_iff_forall_ne_some]
  exact fun m hm => h ((linkSend_iff x m).1 hm).1

theorem mem_candidates_iff (s : State) (c : Candidate) (topic age : Nat) : (c, topic, age) ∈ s.candidates ↔
    (∃ i m, i < 32 ∧ c = .order i ∧ (s.slot i).linkSend = some m ∧ s.linkSendFault m = none ∧ topic = m.topic ∧
      age = (s.slot i).stamp) ∨
    ∃ n x, c = .notice n ∧ s.link.notices[n]? = some x ∧ topic = x.message.topic ∧ age = x.stamp := by
  unfold State.candidates
  rw [List.mem_append]
  refine or_congr ?orders ?notices
  case orders =>
    simp only [List.mem_filterMap, List.mem_range]
    constructor
    · rintro ⟨i, hi, h⟩
      split at h
      · cases h
      · next m hm =>
        split at h
        · next hf =>
          cases h
          exact ⟨i, m, hi, rfl, hm, hf, rfl, rfl⟩
        · cases h
    · rintro ⟨i, m, hi, rfl, hm, hf, rfl, rfl⟩
      refine ⟨i, hi, ?_⟩
      simp only [hm, hf, if_true]
  case notices =>
    simp only [List.mem_map, Prod.exists, List.mem_zipIdx_iff_getElem?, Prod.mk.injEq]
    constructor
    · rintro ⟨x, n, hx, rfl, rfl, rfl⟩
      exact ⟨n, x, rfl, hx, rfl, rfl⟩
    · rintro ⟨n, x, rfl, hx, rfl, rfl⟩
      exact ⟨x, n, hx, rfl, rfl, rfl⟩

/-! ### Refusals of LINK_SEND orders (R163) -/

theorem appendReport_mode (r : Report) (s : State) : (appendReport r s).disp.mode = s.disp.mode := by
  unfold appendReport
  dsimp only
  split <;> rfl

theorem complete_mode (i : Nat) (code : ResultCode) (flags : ResultFlags) (words : List Word) (s : State) :
    (complete i code flags words s).disp.mode = s.disp.mode := by
  by_cases h : (s.slot i).state = .waiting ∨ (s.slot i).state = .running
  · rw [complete_of_open code flags words h, appendReport_mode]
  · have same : complete i code flags words s = s := if_neg h
    rw [same]

/-- The check of R163 looks at the mode and the link state alone. -/
theorem linkSendFault_congr {s u : State} (mode : u.disp.mode = s.disp.mode) (link : u.link.state = s.link.state)
    (m : Message) : u.linkSendFault m = s.linkSendFault m := by
  simp only [State.linkSendFault, mode, link]

theorem linkSendFault_ne {s : State} {m : Message} {c : ResultCode} (h : s.linkSendFault m = some c) :
    c ≠ .cancelled ∧ c ≠ .superseded := by
  unfold State.linkSendFault at h
  split at h
  · cases h; decide
  · split at h
    · cases h; decide
    · split at h
      · cases h; decide
      · cases h

/-- One slot's LINK_SEND refused when it fails a check. -/
def refuseAt (i : Nat) (s : State) : State :=
  match (s.slot i).linkSend with
  | none => s
  | some m =>
    match s.linkSendFault m with
    | none => s
    | some c => complete i c ResultFlags.none [] s

theorem refuseLinkSends_eq (s : State) : refuseLinkSends s = (List.range 32).foldl (fun u i => refuseAt i u) s := rfl

section
variable {s : State} {i : Nat}

theorem refuseAt_cases (i : Nat) (s : State) : refuseAt i s = s ∨ ∃ c, refuseAt i s = complete i c ResultFlags.none [] s := by
  unfold refuseAt
  split
  · exact .inl rfl
  · split
    · exact .inl rfl
    · exact .inr ⟨_, rfl⟩

theorem refuseAt_fault (i : Nat) (s : State) (m : Message) : (refuseAt i s).linkSendFault m = s.linkSendFault m := by
  obtain h | ⟨c, h⟩ := refuseAt_cases i s
  · rw [h]
  · rw [h]
    exact linkSendFault_congr (complete_mode ..) (by rw [complete_link]) m

theorem refuseAt_slot_other {j : Nat} (hi : i < 32) (hj : j < 32) (hij : j ≠ i) : (refuseAt i s).slot j = s.slot j := by
  obtain h | ⟨c, h⟩ := refuseAt_cases i s
  · rw [h]
  · rw [h, complete_slot_other hi hj hij]

theorem refuseAt_slot_self {m : Message} {c : ResultCode} (hi : i < 32) (hm : (s.slot i).linkSend = some m)
    (hf : s.linkSendFault m = some c) : (refuseAt i s).slot i = (s.slot i).finish c ResultFlags.none [] := by
  obtain ⟨waiting, -⟩ := (linkSend_iff _ m).1 hm
  have refused : refuseAt i s = complete i c ResultFlags.none [] s := by
    unfold refuseAt
    simp only [hm, hf]
  rw [refused, complete_slot_self hi _ _ _ (.inl waiting)]

theorem refuseAll_slot_other {l : List Nat} (hl : ∀ k ∈ l, k < 32) (hi : i < 32) (hn : i ∉ l) (s : State) :
    (l.foldl (fun u k => refuseAt k u) s).slot i = s.slot i := by
  induction l generalizing s with
  | nil => rfl
  | cons k l ih =>
    obtain ⟨hk, hl⟩ := List.forall_mem_cons.1 hl
    rw [List.foldl_cons, ih hl (fun h => hn (List.mem_cons_of_mem _ h)),
      refuseAt_slot_other hk hi fun h => hn (h ▸ List.mem_cons_self)]

/-- A slot among those asked, each once, is refused when its order fails a check. -/
theorem refuseAll_slot {l : List Nat} (hl : ∀ k ∈ l, k < 32) (hd : l.Nodup) (hi : i ∈ l) {m : Message} {c : ResultCode}
    (s : State) (hm : (s.slot i).linkSend = some m) (hf : s.linkSendFault m = some c) :
    (l.foldl (fun u k => refuseAt k u) s).slot i = (s.slot i).finish c ResultFlags.none [] := by
  induction l generalizing s with
  | nil => cases hi
  | cons k l ih =>
    have below := hl i hi
    obtain ⟨hk, rest⟩ := List.forall_mem_cons.1 hl
    obtain ⟨hn, once⟩ := List.nodup_cons.1 hd
    rw [List.foldl_cons]
    obtain he | hi := List.mem_cons.1 hi
    · rw [← he] at hn ⊢
      rw [refuseAll_slot_other rest below hn, refuseAt_slot_self below hm hf]
    · have same : (refuseAt k s).slot i = s.slot i := refuseAt_slot_other hk below fun h => hn (h ▸ hi)
      rw [← same] at hm ⊢
      exact ih rest once hi _ hm ((refuseAt_fault k s m).trans hf)

theorem refuseLinkSends_slot {m : Message} {c : ResultCode} (hi : i < 32) (hm : (s.slot i).linkSend = some m)
    (hf : s.linkSendFault m = some c) : (refuseLinkSends s).slot i = (s.slot i).finish c ResultFlags.none [] :=
  refuseAll_slot (fun _ hk => List.mem_range.1 hk) List.nodup_range (List.mem_range.2 hi) s hm hf

theorem finish_of_fault {m : Message} {c : ResultCode} (hf : s.linkSendFault m = some c) (x : Slot) :
    x.finish c ResultFlags.none [] = { x with
      state := .done, code := c, words := [0, 0, 0, 0],
      flags := { ResultFlags.none with cancelTooLate := x.cancelMark } } := by
  obtain ⟨hc, hs⟩ := linkSendFault_ne hf
  have late : x.finalFlags c ResultFlags.none = { ResultFlags.none with cancelTooLate := x.cancelMark } := by
    simp [Slot.finalFlags, ResultFlags.none, bne_iff_ne.2 hc, bne_iff_ne.2 hs]
  rw [Slot.finish, late]
  rfl

theorem refuseLinkSends_of_none (h : ∀ i, (s.slot i).linkSend = none) : refuseLinkSends s = s := by
  have each (i : Nat) : refuseAt i s = s := by unfold refuseAt; rw [h i]
  have all (l : List Nat) : l.foldl (fun u k => refuseAt k u) s = s := by
    induction l with
    | nil => rfl
    | cons k l ih => rw [List.foldl_cons, each k, ih]
  exact all _

end

/-! ### The holds filled (R161) -/

/-- One hold takes the best candidate when it is EMPTY. -/
def fillAt (h : Nat) (s : State) : State :=
  if (s.hold h).state = .empty then
    match firstByTopic s.candidates with
    | none => s
    | some c => fillHold h c.1 s
  else s

section
variable {s : State} {h : Nat}

theorem fillHold_order {i : Nat} {m : Message} (hm : (s.slot i).linkSend = some m) : fillHold h (.order i) s =
    setHold h ⟨.pending, m, .slot i, (s.slot i).stamp, 0, 0, false⟩
      (writeSlot i { s.slot i with state := .running } s) := by
  unfold fillHold
  simp only [hm]

theorem fillHold_notice {n : Nat} {x : Notice} (hx : s.link.notices[n]? = some x) : fillHold h (.notice n) s =
    setHold h ⟨.pending, x.message, .notice, x.stamp, 0, 0, false⟩
      { s with link := { s.link with notices := s.link.notices.eraseIdx n } } := by
  unfold fillHold
  simp only [hx]
  rfl

theorem fillHolds_of_detached (hd : s.link.state = .detached) : fillHolds s = s := if_pos hd

theorem fillHolds_eq (hd : s.link.state ≠ .detached) : fillHolds s = [0, 1, 2].foldl (fun u h => fillAt h u) s := if_neg hd

theorem fillAt_of_no_candidate (hc : s.candidates = []) : fillAt h s = s := by
  unfold fillAt
  rw [firstByTopic_eq_none.2 hc]
  exact ite_self s

/-- A candidate taken makes the hold PENDING, and leaves the other holds. -/
theorem fillHold_holds (hh : h < 3) {c : Candidate} {topic age : Nat} (hc : (c, topic, age) ∈ s.candidates) :
    ((fillHold h c s).hold h).state = .pending ∧ ∀ g < 3, g ≠ h → (fillHold h c s).hold g = s.hold g := by
  obtain ⟨i, m, -, rfl, hm, -⟩ | ⟨n, x, rfl, hx, -⟩ := (mem_candidates_iff ..).1 hc
  · rw [fillHold_order hm]
    exact ⟨congrArg Hold.state (setHold_hold_self hh ..), fun g hg ne => setHold_hold_other hh hg ne ..⟩
  · rw [fillHold_notice hx]
    exact ⟨congrArg Hold.state (setHold_hold_self hh ..), fun g hg ne => setHold_hold_other hh hg ne ..⟩

theorem fillAt_hold_other (hh : h < 3) {g : Nat} (hg : g < 3) (ne : g ≠ h) : (fillAt h s).hold g = s.hold g := by
  unfold fillAt
  split
  · split
    · rfl
    · next c hc => exact (fillHold_holds hh (firstByTopic_spec hc).1).2 g hg ne
  · rfl

/-- A hold that stays EMPTY has found no candidate. -/
theorem fillAt_empty (hh : h < 3) (he : ((fillAt h s).hold h).state = .empty) : s.candidates = [] := by
  unfold fillAt at he
  split at he
  · split at he
    · next hn => exact firstByTopic_eq_none.1 hn
    · next c hc =>
      rw [(fillHold_holds hh (firstByTopic_spec hc).1).1] at he
      cases he
  · next hf => exact absurd he hf

theorem fillAll_of_no_candidate (l : List Nat) (hc : s.candidates = []) : l.foldl (fun u h => fillAt h u) s = s := by
  induction l with
  | nil => rfl
  | cons g l ih => rw [List.foldl_cons, fillAt_of_no_candidate hc, ih]

theorem fillAll_hold_other {l : List Nat} (hl : ∀ g ∈ l, g < 3) (hh : h < 3) (hn : h ∉ l) (s : State) :
    (l.foldl (fun u g => fillAt g u) s).hold h = s.hold h := by
  induction l generalizing s with
  | nil => rfl
  | cons g l ih =>
    obtain ⟨hg, hl⟩ := List.forall_mem_cons.1 hl
    rw [List.foldl_cons, ih hl (fun k => hn (List.mem_cons_of_mem _ k)),
      fillAt_hold_other hg hh fun k => hn (k ▸ List.mem_cons_self)]

/-- Holds filled one after another: beside one that stays EMPTY no candidate is left. -/
theorem fillAll_empty {l : List Nat} (hl : ∀ g ∈ l, g < 3) (hd : l.Nodup) (hh : h ∈ l) (s : State)
    (he : ((l.foldl (fun u g => fillAt g u) s).hold h).state = .empty) :
    (l.foldl (fun u g => fillAt g u) s).candidates = [] := by
  induction l generalizing s with
  | nil => cases hh
  | cons g l ih =>
    have below := hl h hh
    obtain ⟨-, rest⟩ := List.forall_mem_cons.1 hl
    obtain ⟨hn, once⟩ := List.nodup_cons.1 hd
    rw [List.foldl_cons] at he ⊢
    obtain first | hh := List.mem_cons.1 hh
    · rw [← first] at hn he ⊢
      rw [fillAll_hold_other rest below hn] at he
      have none := fillAt_empty below he
      rw [fillAt_of_no_candidate none, fillAll_of_no_candidate l none, none]
    · exact ih rest once hh _ he

theorem fillHolds_empty (hd : s.link.state ≠ .detached) (hh : h < 3) (he : ((fillHolds s).hold h).state = .empty) :
    (fillHolds s).candidates = [] := by
  rw [fillHolds_eq hd] at he ⊢
  exact fillAll_empty (by decide) (by decide) (by simp; omega) s he

theorem fillHolds_of_no_candidate (hc : s.candidates = []) : fillHolds s = s := by
  by_cases hd : s.link.state = .detached
  · exact fillHolds_of_detached hd
  · rw [fillHolds_eq hd, fillAll_of_no_candidate _ hc]

end

/-! ### The preload check (R79) -/

/-- The preload check is due: the unit idle with nothing in the latch, the mark set, the load bank EMPTY. -/
def State.preloadDue (s : State) : Prop :=
  s.scene.state = .idle ∧ s.scene.latch = none ∧ s.scene.preloadMark = true ∧ (s.bankCtl s.loadBank).state = .empty

section
variable {s : State}

theorem preloadCheck_of_not_due (h : ¬ s.preloadDue) : preloadCheck s = s := if_neg h

theorem preloadCheck_of_none (h : s.preloadDue) (hn : s.scene.setList.next s.scene.cursor = none) :
    preloadCheck s = { s with scene := { s.scene with preloadMark := false } } := by
  unfold State.preloadDue at h
  unfold preloadCheck
  rw [if_pos h, hn]
  rfl

theorem preloadCheck_of_next (h : s.preloadDue) {n : Nat} (hn : s.scene.setList.next s.scene.cursor = some n) :
    preloadCheck s = if s.activeScene = some (s.scene.setList.entries.getD n 0) then
        { s with scene := { s.scene with preloadMark := false } }
      else takeRequest (newRequest .load (s.scene.setList.entries.getD n 0) none .preload)
        { s with scene := { s.scene with preloadMark := false } } := by
  unfold State.preloadDue at h
  unfold preloadCheck
  rw [if_pos h, hn]
  rfl

/-! ### Hand-overs, round after round (R194) -/

theorem nextHandOver_eq (s : State) :
    s.nextHandOver = Owner.all.findSome? fun o => if s.ownerFree o = true then s.choice o else none :=
  List.head?_filterMap

theorem nextHandOver_some {i : Nat} (h : s.nextHandOver = some i) : ∃ o, s.ownerFree o = true ∧ s.choice o = some i := by
  rw [nextHandOver_eq] at h
  obtain ⟨o, -, ho⟩ := List.exists_of_findSome?_eq_some h
  split at ho
  · next free => exact ⟨o, free, ho⟩
  · cases ho

theorem mem_ownerAll (o : Owner) : o ∈ Owner.all := by cases o <;> decide

theorem nextHandOver_none (h : s.nextHandOver = none) {o : Owner} (free : s.ownerFree o = true) : s.choice o = none := by
  rw [nextHandOver_eq, List.findSome?_eq_none_iff] at h
  have ho := h o (mem_ownerAll o)
  rwa [if_pos free] at ho

theorem nextHandOver_of_no_choice (h : ∀ o, s.choice o = none) : s.nextHandOver = none := by
  rw [nextHandOver_eq, List.findSome?_eq_none_iff]
  intro o _
  rw [h o]
  exact ite_self none

theorem settleOrders_of_next {n i : Nat} (h : (openChoices s).nextHandOver = some i) :
    settleOrders (n + 1) s = settleOrders n (handOver i (openChoices s)) := by
  simp only [settleOrders, h, Option.elim_some]

theorem settleOrders_of_none {n : Nat} (h : (openChoices s).nextHandOver = none) :
    settleOrders (n + 1) s = openChoices s := by
  simp only [settleOrders, h, Option.elim_none]

/-! ### A calm state -/

theorem choice_of_calm (h : ∀ i, (s.slot i).state ≠ .waiting) (o : Owner) : s.choice o = none := by
  rw [Option.eq_none_iff_forall_ne_some]
  intro i hi
  obtain ⟨-, offered⟩ := choice_offered hi
  exact h i ((offeredTo_iff _ o).1 offered).1

theorem openChoices_of_calm (h : s.Calm) : openChoices s = s := by
  obtain ⟨waiting, notices, mark, -⟩ := h
  have unsent (i : Nat) : (s.slot i).linkSend = none := linkSend_of_not_waiting (waiting i)
  have candidates : s.candidates = [] := by
    rw [List.eq_nil_iff_forall_not_mem]
    rintro ⟨c, topic, age⟩ hc
    obtain ⟨i, m, -, -, hm, -⟩ | ⟨n, x, -, hx, -⟩ := (mem_candidates_iff ..).1 hc
    · rw [unsent i] at hm
      cases hm
    · rw [notices] at hx
      cases hx
  rw [openChoices, refuseLinkSends_of_none unsent, fillHolds_of_no_candidate candidates, preloadCheck_of_not_due]
  rintro ⟨-, -, marked, -⟩
  rw [mark] at marked
  cases marked

/-- With no choice open the end of an event changes nothing. -/
theorem finish_of_calm (h : s.Calm) : finish s = s := by
  have none := nextHandOver_of_no_choice (choice_of_calm h.1)
  obtain ⟨-, -, -, marks⟩ := id h
  rw [finish, becomeSetup_of_unmarked marks, settleOrders_of_none (by rwa [openChoices_of_calm h]), openChoices_of_calm h]

end

/-- Settles O9: the rounds by the next hand-over, and each kind of choice by the lemmas above. -/
theorem calmStateMakesNoChoice : Obligations.CalmStateMakesNoChoice := by
  refine ⟨fun s h => finish_of_calm h, fun s => rfl,
    fun s n => ⟨fun i h => ⟨settleOrders_of_next h, nextHandOver_some h⟩,
      fun h => ⟨settleOrders_of_none h, fun o => nextHandOver_none h⟩⟩,
    nextHandOver_eq, fun s i m c hi hm hf => ?refused, fun s m => rfl, fun l => ⟨firstByTopic_eq_none, fun x => firstByTopic_spec⟩,
    linkSend_iff, mem_candidates_iff, fun s hd => fillHolds_eq hd,
    fun s => ⟨fillHolds_of_detached, fun hd h hh => fillHolds_empty hd hh, fun h i m => fillHold_order,
      fun h n x => fillHold_notice⟩,
    fun s => ⟨preloadCheck_of_not_due, fun due => preloadCheck_of_none due, fun n due => preloadCheck_of_next due⟩⟩
  case refused => rw [refuseLinkSends_slot hi hm hf, finish_of_fault hf]

end Sys2Proof.Machine
end

section
/-! Sitting 11: which byte becomes which field (R207, R209, R214, R215). Three readings are not the layout's own formula as
they stand: a field at bit 0, a signed field, and the top bit of a lamp's level. -/

namespace Sys2Proof.Machine

/-! ### Bytes and words (R207) -/

theorem Memory.bytes_length (m : Memory) (a n : Nat) : (m.bytes a n).length = n := by simp [Memory.bytes]

theorem byteAt_bytes (m : Memory) (a : Nat) {n i : Nat} (h : i < n) : byteAt (m.bytes a n) i = (m.read (a + i)).toNat := by
  simp [byteAt, Memory.bytes, List.getD_eq_getElem?_getD, h]

section
variable (l : List Byte) (o : Nat)

theorem byteAt_lt : byteAt l o < 2 ^ 8 := (l.getD o 0).isLt

theorem wordAt_lt : wordAt l o < 2 ^ 16 := by
  have low := byteAt_lt l o
  have high := byteAt_lt l (o + 1)
  rw [wordAt]
  omega

/-- A signed word is in two's complement. -/
theorem signedAt_eq : signedAt l o = if wordAt l o < 32768 then (wordAt l o : Int) else wordAt l o - 65536 := by
  have lt := wordAt_lt l o
  rw [signedAt, BitVec.toInt_eq_toNat_cond, BitVec.toNat_ofNat, Nat.mod_eq_of_lt lt]
  split <;> split <;> omega

/-- A signed byte is in two's complement. -/
theorem signedByteAt_eq : signedByteAt l o = if byteAt l o < 128 then (byteAt l o : Int) else byteAt l o - 256 := by
  rw [signedByteAt, BitVec.toInt_eq_toNat_cond, byteAt]
  split <;> split <;> omega

/-! ### Notices and binding entries (R214, R215) -/

theorem noticeAt_eq :
    let n := wordAt l o / 2 ^ 12 % 8
    noticeAt l o = ⟨wordAt l o % 1024, n, (List.range n).map fun i => l.getD (o + 2 + i) 0⟩ := by
  rw [noticeAt, bitsOf_low]
  rfl

/-- An entry's trigger decides whether it stands; its action kind is the low half of byte 3, its two marks the top bits. -/
theorem entryAt_eq : entryAt l o = (triggerAt l o).map fun t =>
    ⟨t, actionAt l (o + 8) (byteAt l (o + 3) % 16), byteAt l (o + 3) / 2 ^ 6 % 2 == 1,
      byteAt l (o + 3) / 2 ^ 7 % 2 == 1⟩ := by
  rw [entryAt]
  cases triggerAt l o with
  | none => rfl
  | some t =>
    simp only [bitsOf_low]
    rfl

/-! ### Configurations (R209) -/

theorem lineConfigOf_eq (e : Nat) : lineConfigOf e = {
    mode := LineMode.ofCode (e % 4)
    activeHigh := e / 2 ^ 2 % 2 == 1, report := e / 2 ^ 3 % 2 == 1, debounce := e / 2 ^ 4 % 2 ^ 5
    repeatInterval := e / 2 ^ 9 % 2 ^ 10, holdTime := e / 2 ^ 19 % 2 ^ 12 } := by
  rw [lineConfigOf, bitsOf_low]
  rfl

theorem pedalConfigAt_eq : pedalConfigAt l o = {
    enable := wordAt l o % 2 == 1, internalRef := wordAt l o / 2 % 2 == 1, report := wordAt l o / 2 ^ 2 % 2 == 1
    deadband := wordAt l o / 2 ^ 8 % 2 ^ 6, heel := wordAt l (o + 2), toe := wordAt l (o + 4) } := by
  rw [pedalConfigAt, bitsOf_low]
  rfl

theorem filterAt_eq (f : Nat) : filterAt l f =
    ⟨byteAt l (0x20 + f) % 2 == 1, word (wordAt l (4 * f)), word (wordAt l (4 * f + 2)),
      FilterDest.ofCode (byteAt l (0x20 + f) / 2 % 4)⟩ := by
  rw [filterAt, bitsOf_low]
  rfl

/-- A word's top bit says OFF: it is set from 0x8000 on. -/
theorem levelOfWord_eq {w : Nat} (h : w < 2 ^ 16) :
    levelOfWord w = if 0x8000 ≤ w then .off else .on (w % 2 ^ 11) (w / 2 ^ 11 % 2 == 1) := by
  have top : bitsOf w 15 1 = 1 ↔ 0x8000 ≤ w := by rw [bitsOf]; omega
  rw [levelOfWord, bitsOf_low]
  exact if_congr top rfl rfl

end

/-- Settles O23, format by format. -/
theorem fieldsAreReadFromBytes : Obligations.FieldsAreReadFromBytes := by
  refine ⟨fun m a n => ⟨rfl, m.bytes_length a n, fun i => byteAt_bytes m a⟩, fun l =>
    ⟨fun i => ⟨rfl, rfl, rfl, signedAt_eq l i⟩, fun o => rfl, noticeAt_eq l, fun o => ?entry, fun o stages => rfl,
      lineConfigOf_eq, pedalConfigAt_eq l, ?link, rfl, fun k n => ?lamp, rfl⟩⟩
  case entry =>
    rw [entryAt_eq]
    simp only [triggerAt, actionAt, bitsOf_low, signedByteAt_eq]
    rfl
  case link =>
    rw [linkConfigOf, funext (filterAt_eq l)]
    rfl
  case lamp =>
    simp only [lampConfigAt, levelOfWord_eq (wordAt_lt ..), lampSourceOf, bitsOf_low]
    rfl

end Sys2Proof.Machine
end

section
/-! Sitting 12: the queue of commands. What a step does by the form of the queue, and that no word adds to it. -/

namespace Sys2Proof.Machine

theorem step_of_cons {c : Instr} {rest : List Instr} {s : State} (h : s.pending = c :: rest) :
    step s = exec c { s with pending := rest } := by
  simp only [step, h]

theorem step_of_nil {s : State} (h : s.pending = []) : step s = .next s := by
  simp only [step, h]

theorem decodeTableWord_eq_none (nbits w : Nat) : decodeTableWord nbits w = none := rfl

/-- A word that spells no command leaves the queue, and all else. -/
theorem withFetchWord_of_none {nbits w : Nat} (h : decodeTableWord nbits w = none) (s : State) :
    s.withFetchWord nbits w = s := by
  simp only [State.withFetchWord, h]

/-- Settles O1: a step by the queue's front or its being empty, and a fetched word by the decoder, which knows none. -/
theorem stepTakesFrontCommand : Obligations.StepTakesFrontCommand :=
  ⟨fun _ _ _ front => step_of_cons front, fun _ idle => step_of_nil idle, fun s nbits w =>
    have unspelt := decodeTableWord_eq_none nbits w
    ⟨unspelt, withFetchWord_of_none unspelt s⟩⟩

end Sys2Proof.Machine
end
